-- ==== Sys2Proof/Word.lean ====
section
/-! DEFINITION. The word types of the machine (spec 00_scope R5) and their plainest reading. -/

namespace Sys2Proof

/-- One byte of memory or of a token's payload. -/
abbrev Byte := BitVec 8

/-- A 64-bit word: an address, a register, a node's instruction or linkage word. -/
abbrev Word := BitVec 64

/-- Bits [hi:lo] of a number, both ends included (R5). -/
def field (x hi lo : Nat) : Nat := (x >>> lo) % 2 ^ (hi + 1 - lo)

/-- Bit `i` of a number (R5). -/
def bitOf (x i : Nat) : Bool := x.testBit i

/-- A truth value as a number. -/
def ofBool (b : Bool) : Nat := if b then 1 else 0

end Sys2Proof
end

