-- ==== Sys2Proof/Machine/Bits.lean ====
section
/-! DEFINITION. Byte order, sign and the sorted sparse tables every part of the machine is held in. -/

namespace Sys2Proof.Machine

/-- Little-endian bytes of a number (R5): byte `i` holds bits [8i+7:8i]. -/
def leBytes : Nat → Nat → List Byte
  | 0, _ => []
  | k + 1, x => BitVec.ofNat 8 x :: leBytes k (x >>> 8)

/-- The number that little-endian bytes hold (R5). -/
def leNat : List Byte → Nat
  | [] => 0
  | b :: bs => b.toNat + 256 * leNat bs

/-- A pattern of width `w` read as two's complement. -/
def toSigned (w x : Nat) : Int :=
  if x % 2 ^ w < 2 ^ (w - 1) then (x % 2 ^ w : Nat) else (x % 2 ^ w : Nat) - (2 ^ w : Nat)

/-- The pattern of width `w` of an integer, taken modulo 2^w. -/
def ofInt (w : Nat) (x : Int) : Nat := (x % (2 ^ w : Nat)).toNat

/-- A pattern of width `w` read as the integer type of R130. -/
def readInt (w : Nat) (uns : Bool) (x : Nat) : Int :=
  if uns then (x % 2 ^ w : Nat) else toSigned w x

/-- The least value of an integer type. -/
def intMin (w : Nat) (uns : Bool) : Int := if uns then 0 else -(2 ^ (w - 1) : Nat)

/-- The greatest value of an integer type. -/
def intMax (w : Nat) (uns : Bool) : Int := if uns then (2 ^ w : Nat) - 1 else (2 ^ (w - 1) : Nat) - 1

/-- The nearest value of an integer type, and whether the value had to move. -/
def clampInt (w : Nat) (uns : Bool) (x : Int) : Int × Bool :=
  if x < intMin w uns then (intMin w uns, true)
  else if intMax w uns < x then (intMax w uns, true)
  else (x, false)

/-- Saturating addition on a counter of `w` bits. -/
def satAdd (w a b : Nat) : Nat := min (a + b) (2 ^ w - 1)

/-- A sparse table: keys strictly rising, and no entry equal to what an unlisted key reads as. -/
abbrev Assoc (α : Type) := List (Nat × α)

namespace Assoc

/-- What a key holds, `d` where it is not listed. -/
def get {α : Type} (d : α) : Assoc α → Nat → α
  | [], _ => d
  | (k, v) :: r, x => if x = k then v else Assoc.get d r x

/-- Put an entry before the first entry with a greater key. -/
def insert {α : Type} (x : Nat) (v : α) : Assoc α → Assoc α
  | [] => [(x, v)]
  | (k, w) :: r => if x < k then (x, v) :: (k, w) :: r else (k, w) :: Assoc.insert x v r

/-- Put `v` at a key in place of what it holds, keeping the canonical form. -/
def set {α : Type} [DecidableEq α] (d : α) (m : Assoc α) (x : Nat) (v : α) : Assoc α :=
  let r := m.filter fun p => p.1 != x
  if v = d then r else Assoc.insert x v r

/-- Every key of the table is above `b`, the keys rise strictly, and no entry holds `d`. -/
def wfAbove {α : Type} [DecidableEq α] (d : α) : Option Nat → Assoc α → Bool
  | _, [] => true
  | b, (k, v) :: r => (match b with | none => true | some x => x < k) && (v != d) && wfAbove d (some k) r

/-- The canonical form. -/
def wf {α : Type} [DecidableEq α] (d : α) (m : Assoc α) : Bool := wfAbove d none m

end Assoc

/-- Update the first element of a list that satisfies `p`. -/
def updFirst {α : Type} (p : α → Bool) (f : α → α) : List α → List α
  | [] => []
  | a :: r => if p a then f a :: r else a :: updFirst p f r

/-- Put `v` at index `i` of a list; nothing changes past its end. -/
def setAt {α : Type} : List α → Nat → α → List α
  | [], _, _ => []
  | _ :: r, 0, v => v :: r
  | a :: r, i + 1, v => a :: setAt r i v

/-- Insert a number into a strictly rising list. -/
def insertNat (x : Nat) : List Nat → List Nat
  | [] => [x]
  | a :: r => if x < a then x :: a :: r else if x = a then a :: r else a :: insertNat x r

/-- The least element of a list under a strict order, the earliest among equals. -/
def leastBy {α : Type} (lt : α → α → Bool) : List α → Option α
  | [] => none
  | a :: r => match leastBy lt r with
    | none => some a
    | some b => if lt b a then some b else some a

/-- A list cut into pieces of `n` elements, the last one shorter; `fuel` bounds the pieces. -/
def chunksOf {α : Type} (n : Nat) : Nat → List α → List (List α)
  | 0, _ => []
  | _, [] => []
  | f + 1, l => l.take n :: chunksOf n f (l.drop n)

end Sys2Proof.Machine
end

