-- ==== Sys2Proof/Syntax.lean ====
section
/-! DEFINITION. The node record (spec 02_encoding R31 to R43), the identities that machine events name, and
the one inductive of steps: one constructor for each row of spec/opcode_table.json. -/

namespace Sys2Proof

/-- Format tags of tokens and nodes (R46): `X` is FMT 111, the format of error tokens. -/
inductive Fmt where
  | I | D | S | H | B | Q | G | X
  deriving DecidableEq, Repr

/-- What a node's operands are (R32): values or runs, jets, tile references. -/
inductive Lane where
  | value | jet | tile
  deriving DecidableEq, Repr

/-- The tag operation on emitted tokens (R36). -/
inductive TagOp where
  | keep | next | iter | enter | exit | callee | caller
  deriving DecidableEq, Repr

/-- Rounding modes (R78); `ctx` takes the captured RMODE. -/
inductive Rm where
  | ctx | rne | rtz | rup | rdn | rna | sr
  deriving DecidableEq, Repr

/-- One destination of a linkage word (R41): a folio node index and its input port. -/
structure Dest where
  node : BitVec 18
  port : BitVec 2
  deriving DecidableEq, Repr

/-- A node: the fields of its instruction word (R32) but the opcode, and its used destinations (R41, R42). -/
structure Node where
  fmt   : Fmt
  arity : BitVec 2
  lane  : Lane
  tagop : TagOp
  rm    : Rm
  cf    : Bool
  cls   : BitVec 2
  immp  : Bool
  mod   : BitVec 6
  imm   : BitVec 32
  dests : List Dest
  deriving DecidableEq, Repr

/-- A kernel instance: its launch's serial number, its kernel index and its replica (R195, R317). -/
structure InstId where
  serial  : Nat
  kernel  : Nat
  replica : Nat
  deriving DecidableEq, Repr

/-- A barrier or collective instance (R330): `scope` as coded in R257, `inst` the core, quad, die or package. -/
structure BarId where
  coll  : Bool
  ctx   : Nat
  scope : Nat
  inst  : Nat
  ident : Nat
  deriving DecidableEq, Repr

/-- An access that another package of the pod makes to this one (R264); `add` is the format of an atomic add (R275). `pkg` is the
package (R263), `via` the Strand port it comes by, `unit` the unit of a transfer there that it belongs to, within which a page counts
one access (R382), `last` whether it is the unit's last access here. -/
structure RemoteReq where
  pkg   : Nat
  via   : Nat
  unit  : Nat
  rctx  : Nat
  pod   : Bool
  job   : Nat
  va    : Nat
  write : Bool
  data  : List Byte
  size  : Nat
  add   : Option Fmt := none
  last  : Bool := true
  deriving DecidableEq, Repr

/-- An access of the companion processor to device or host memory (R297); `loose` marks a write that its architecture does not order
among its other writes. -/
structure HostReq where
  addr  : Nat
  write : Bool
  data  : List Byte
  size  : Nat
  loose : Bool := false
  deriving DecidableEq, Repr

/-- The steps of the machine, one constructor for each row of spec/opcode_table.json: first the instructions of
folio nodes, then the configuration commands, then the events of the machine. -/
inductive Instr where
  /-- PASS (R116). Emits its input token unchanged over the matched range. -/
  | pass (n : Node)
  /-- COPY (R116). Emits its input unchanged to up to three destinations, optionally with forced classes per destination. -/
  | copy (n : Node)
  /-- STEER (R118). Sends each data element to the true or false output according to its predicate element, in maximal stretches. -/
  | steer (n : Node)
  /-- MERGE (R119). Emits each token accepted on either port unchanged, without matching. -/
  | merge (n : Node)
  /-- GATE (R116). Emits port 0 over the range matched with a control token, which is consumed. -/
  | gate (n : Node)
  /-- SYNC (R116). Matches two or three data ports and emits input j on output j over the matched range. -/
  | sync (n : Node)
  /-- CONST (R121). Emits a token whose every element is an immediate or pool constant over the trigger's range. -/
  | const (n : Node)
  /-- SINK (R116). Consumes its input, error tokens included, and emits nothing. -/
  | sink (n : Node)
  /-- SELECT (R117). Emits port 1's or port 2's element per predicate element. -/
  | select (n : Node)
  /-- TNEXT (R116). Emits its input with ITER advanced by an immediate step. -/
  | tnext (n : Node)
  /-- RETAG (R120). Replaces the tag fields that MOD selects with those of the tag operand. -/
  | retag (n : Node)
  /-- TGET (R116). Emits the tag of each iteration of its trigger as 64-bit elements. -/
  | tget (n : Node)
  /-- TSET (R116). Sets the ITER, SPACE or FRAME field of its input's tag to an immediate. -/
  | tset (n : Node)
  /-- SPLIT (R122). Cuts its input into tokens of n elements emitted in ascending order. -/
  | split (n : Node)
  /-- JOIN (R123). Collects elements into aligned blocks of n iterations and emits each complete or EOS-closed block. -/
  | join (n : Node)
  /-- BCAST (R124). Emits element 0 of its input n times as a run. -/
  | bcast (n : Node)
  /-- REDUCE (R127). Folds the elements of a run or a tag group with an operation and emits the result. -/
  | reduce (n : Node)
  /-- SCAN (R127). Emits the inclusive prefix fold of a run or a tag group. -/
  | scan (n : Node)
  /-- PERM (R125). Permutes the elements of a run through a pool index table. -/
  | perm (n : Node)
  /-- EOS (R116). Emits its input with the EOS bit set. -/
  | eos (n : Node)
  /-- ISEOS (R126). Emits a predicate marking the EOS element, and the input unchanged. -/
  | iseos (n : Node)
  /-- ERRT (R126). Emits a predicate telling whether the input is an error token, and the input or its unpacked payload. -/
  | errt (n : Node)
  /-- MKERR (R116). Emits a new error token with the given cause. -/
  | mkerr (n : Node)
  /-- ITIDX (R116). Emits the iteration number of each element of the trigger's range. -/
  | itidx (n : Node)
  /-- CONV (R128). Converts a steered or directly fed token to the node's format. -/
  | conv (n : Node)
  /-- IADD (R133). Integer addition modulo 2^w. -/
  | iadd (n : Node)
  /-- ISUB (R133). Integer subtraction modulo 2^w. -/
  | isub (n : Node)
  /-- IMUL (R133). Low w bits of the integer product. -/
  | imul (n : Node)
  /-- IMULH (R133). High w bits of the exact 2w-bit integer product. -/
  | imulh (n : Node)
  /-- IMAD (R133). Integer multiply-add modulo 2^w. -/
  | imad (n : Node)
  /-- IDIV (R135). Integer quotient truncated toward zero, with the divide-by-zero and overflow corner cases. -/
  | idiv (n : Node)
  /-- IREM (R135). Integer remainder with the sign of the dividend. -/
  | irem (n : Node)
  /-- INEG (R133). Integer negation modulo 2^w. -/
  | ineg (n : Node)
  /-- IABS (R133). Integer absolute value. -/
  | iabs (n : Node)
  /-- IMIN (R133). Lesser of two integers, signed or unsigned. -/
  | imin (n : Node)
  /-- IMAX (R133). Greater of two integers, signed or unsigned. -/
  | imax (n : Node)
  /-- IADDS (R133). Saturating integer addition with OF on clamp. -/
  | iadds (n : Node)
  /-- ISUBS (R133). Saturating integer subtraction with OF on clamp. -/
  | isubs (n : Node)
  /-- ICMP (R134). Compares integers under a condition and emits 32-bit 0 or 1. -/
  | icmp (n : Node)
  /-- IDOT4 (R136). Exact dot product of four 8-bit pairs plus an addend, optionally saturating. -/
  | idot4 (n : Node)
  /-- ICLAMP (R133). Clamps an integer between two bounds. -/
  | iclamp (n : Node)
  /-- AND (R133). Bitwise AND. -/
  | andw (n : Node)
  /-- OR (R133). Bitwise OR. -/
  | orw (n : Node)
  /-- XOR (R133). Bitwise XOR. -/
  | xorw (n : Node)
  /-- NOT (R133). Bitwise NOT. -/
  | notw (n : Node)
  /-- ANDN (R133). a AND NOT b. -/
  | andn (n : Node)
  /-- SHL (R133). Shift left by b mod w. -/
  | shl (n : Node)
  /-- SHR (R133). Logical shift right by b mod w. -/
  | shr (n : Node)
  /-- SAR (R133). Arithmetic shift right by b mod w. -/
  | sar (n : Node)
  /-- ROTL (R133). Rotate left by b mod w. -/
  | rotl (n : Node)
  /-- POPC (R133). Counts one bits. -/
  | popc (n : Node)
  /-- CLZ (R133). Counts leading zero bits. -/
  | clz (n : Node)
  /-- CTZ (R133). Counts trailing zero bits. -/
  | ctz (n : Node)
  /-- BREV (R133). Reverses the bit order. -/
  | brev (n : Node)
  /-- BFX (R133). Extracts a bit field, sign- or zero-extended. -/
  | bfx (n : Node)
  /-- BFI (R133). Inserts the low bits of b into a bit field of a. -/
  | bfi (n : Node)
  /-- ADDR (R134). Forms a + b × 2^scale + disp modulo 2^64. -/
  | addr (n : Node)
  /-- FADD (R137). Correctly rounded floating-point addition. -/
  | fadd (n : Node)
  /-- FSUB (R137). Correctly rounded floating-point subtraction. -/
  | fsub (n : Node)
  /-- FMUL (R137). Correctly rounded floating-point multiplication. -/
  | fmul (n : Node)
  /-- FFMA (R137). Fused multiply-add with one rounding. -/
  | ffma (n : Node)
  /-- FDIV (R137). Correctly rounded floating-point division. -/
  | fdiv (n : Node)
  /-- FSQRT (R137). Correctly rounded square root. -/
  | fsqrt (n : Node)
  /-- FRCP (R137). Correctly rounded reciprocal. -/
  | frcp (n : Node)
  /-- FRSQ (R137). Correctly rounded reciprocal square root. -/
  | frsq (n : Node)
  /-- FMIN (R138). Selects the lesser operand under the NaN and signed-zero rules. -/
  | fmin (n : Node)
  /-- FMAX (R138). Selects the greater operand under the NaN and signed-zero rules. -/
  | fmax (n : Node)
  /-- FABS (R137). Clears the sign bit. -/
  | fabs (n : Node)
  /-- FNEG (R137). Inverts the sign bit. -/
  | fneg (n : Node)
  /-- FCMP (R139). Compares floats under a condition and emits 32-bit 0 or 1. -/
  | fcmp (n : Node)
  /-- FCLASS (R139). Emits a one-hot class mask of each float. -/
  | fclass (n : Node)
  /-- FRND (R140). Rounds to an integral value in the same format. -/
  | frnd (n : Node)
  /-- FSCALE (R140). Returns Round(a × 2^b). -/
  | fscale (n : Node)
  /-- FGETX (R140). Emits the unbiased exponent as a 32-bit integer. -/
  | fgetx (n : Node)
  /-- FDOT2 (R141). Exact dot product of two 16-bit pairs plus a binary32 addend, rounded once. -/
  | fdot2 (n : Node)
  /-- FCPSGN (R137). Magnitude of a with the sign of b. -/
  | fcpsgn (n : Node)
  /-- FCLAMP (R138). FMIN(FMAX(a, b), c). -/
  | fclamp (n : Node)
  /-- CVT (R142). Converts a value to the node's format under the rounding mode. -/
  | cvt (n : Node)
  /-- CVTI (R143). Changes integer width or signedness, wrapping or saturating. -/
  | cvti (n : Node)
  /-- CVTF (R144). Converts between fixed point and float. -/
  | cvtf (n : Node)
  /-- GPACK (R145). Packs a block of 64 values into one gathering. -/
  | gpack (n : Node)
  /-- GUNPK (R146). Unpacks gatherings into two runs of 32 values each. -/
  | gunpk (n : Node)
  /-- UNP3 (R147). Decodes ternary weight bytes into five signed weights each. -/
  | unp3 (n : Node)
  /-- NPACK (R148). Packs integers into 4-bit fields, clamping. -/
  | npack (n : Node)
  /-- NUNPK (R148). Unpacks 4-bit fields into integers. -/
  | nunpk (n : Node)
  /-- MOVB (R149). Reinterprets payload bytes as a plain token of another format. -/
  | movb (n : Node)
  /-- FEXP (R150). Correctly rounded e^a. -/
  | fexp (n : Node)
  /-- FEXP2 (R150). Correctly rounded 2^a. -/
  | fexp2 (n : Node)
  /-- FLOG (R150). Correctly rounded ln a. -/
  | flog (n : Node)
  /-- FLOG2 (R150). Correctly rounded log2 a. -/
  | flog2 (n : Node)
  /-- FSIN (R150). Correctly rounded sine. -/
  | fsin (n : Node)
  /-- FCOS (R150). Correctly rounded cosine. -/
  | fcos (n : Node)
  /-- FTANH (R150). Correctly rounded hyperbolic tangent. -/
  | ftanh (n : Node)
  /-- FSIGM (R150). Correctly rounded logistic sigmoid. -/
  | fsigm (n : Node)
  /-- FERF (R150). Correctly rounded error function. -/
  | ferf (n : Node)
  /-- FATAN (R150). Correctly rounded arctangent. -/
  | fatan (n : Node)
  /-- FPOWN (R150). Correctly rounded a^n for an integer n. -/
  | fpown (n : Node)
  /-- JSEED (R182). Makes the jet of an independent variable. -/
  | jseed (n : Node)
  /-- JLIFT (R182). Lifts a value or jet to a jet of the requested order. -/
  | jlift (n : Node)
  /-- JGET (R183). Reads one coefficient, or its derivative, as a plain value. -/
  | jget (n : Node)
  /-- JPUT (R184). Replaces one coefficient of a jet. -/
  | jput (n : Node)
  /-- JTRUNC (R185). Truncates a jet to a lower order. -/
  | jtrunc (n : Node)
  /-- JDIFF (R186). Emits the derivative series of a jet. -/
  | jdiff (n : Node)
  /-- JINTG (R187). Emits the antiderivative series with a given constant. -/
  | jintg (n : Node)
  /-- JEVAL (R189). Evaluates a series at a step by fused Horner. -/
  | jeval (n : Node)
  /-- JCOMP (R191). Composes an outer series with an inner series. -/
  | jcomp (n : Node)
  /-- JFLAG (R192). Reads selected JFLAGS bits. -/
  | jflag (n : Node)
  /-- JCLRF (R192). Atomically reads and clears selected JFLAGS bits. -/
  | jclrf (n : Node)
  /-- JSCAL (R190). Rescales the independent variable of a series. -/
  | jscal (n : Node)
  /-- JDERV (R188). Converts between normalized coefficients and derivatives. -/
  | jderv (n : Node)
  /-- TSPACE (R219). Opens a new tag-space instance under the trigger's iteration. -/
  | tspace (n : Node)
  /-- TALLOC (R219). Requests m iterations of a tag-space instance and emits them once granted. -/
  | talloc (n : Node)
  /-- TFREE (R219). Frees the trigger's iterations of its instance. -/
  | tfree (n : Node)
  /-- TCLOSE (R219). Closes the trigger's instance and emits the grant count when CLOSED. -/
  | tclose (n : Node)
  /-- LDSLOT (R220). Reads frame slots, deferring until present. -/
  | ldslot (n : Node)
  /-- STSLOT (R220). Writes frame slots and sets presence. -/
  | stslot (n : Node)
  /-- CLRSLOT (R220). Clears presence of frame slots. -/
  | clrslot (n : Node)
  /-- CALL (R221). Takes a callee frame and emits its tag and an entry token. -/
  | call (n : Node)
  /-- ARG (R221). Sends a data element into a callee frame. -/
  | arg (n : Node)
  /-- RET (R221). Returns values to the caller's tag and retires the callee frame. -/
  | ret (n : Node)
  /-- COMMIT (R197). Ends the activation, publishing its staged pipe outputs and retiring its tokens. -/
  | commit (n : Node)
  /-- DISCARD (R197). Ends the activation, dropping its staged pipe outputs. -/
  | discard (n : Node)
  /-- FRMID (R222). Emits the activation number, kernel index, die and frame. -/
  | frmid (n : Node)
  /-- FIRE (R222). Adds an activation request carrying its token to its kernel instance. -/
  | fire (n : Node)
  /-- TREF (R240). Makes tile references from a template and base offsets. -/
  | tref (n : Node)
  /-- MMA (R241). Accumulates A × B^T into an accumulator tile on the matrix array. -/
  | mma (n : Node)
  /-- MMAI (R241). Accumulates an INT8 or ternary product into an INT64 tile. -/
  | mmai (n : Node)
  /-- MMAG (R241). Accumulates a gathering-format product into a binary64 tile. -/
  | mmag (n : Node)
  /-- MMAJ (R242). Accumulates a jet tile product plane by plane. -/
  | mmaj (n : Node)
  /-- ACCZ (R243). Zeroes an accumulator tile and clears its marks. -/
  | accz (n : Node)
  /-- ACCRD (R244). Reads an accumulator plane as row-chunk tokens. -/
  | accrd (n : Node)
  /-- ACCWR (R245). Writes a data token into an accumulator row chunk. -/
  | accwr (n : Node)
  /-- TDRN (R249). Drains an accumulator tile to memory, converting and clipping. -/
  | tdrn (n : Node)
  /-- TSPLT (R247). Cuts a tile reference into pieces along rows or columns. -/
  | tsplt (n : Node)
  /-- ACCPS (R246). Adds a quad neighbour's accumulator tile into a local one. -/
  | accps (n : Node)
  /-- MMAT (R241). Accumulates A × B with B read untransposed. -/
  | mmat (n : Node)
  /-- LD (R269). Loads one element per address into a token. -/
  | ld (n : Node)
  /-- ST (R270). Stores one element per address and emits a completion. -/
  | st (n : Node)
  /-- LDX (R269). Loads n elements at a strided sequence of addresses. -/
  | ldx (n : Node)
  /-- STX (R270). Stores a run at a strided sequence of addresses. -/
  | stx (n : Node)
  /-- ATOM (R271). Performs one read-modify-write per element without returning values. -/
  | atom (n : Node)
  /-- ATOMR (R271). Performs one read-modify-write per element and returns the old values. -/
  | atomr (n : Node)
  /-- CAS (R271). Compare-and-swap per element, returning the old values. -/
  | cas (n : Node)
  /-- ORDN (R272). Makes an ordering token over its trigger's range. -/
  | ordn (n : Node)
  /-- ORDJ (R272). Joins predecessors into one ordering token. -/
  | ordj (n : Node)
  /-- ORDF (R272). Forks an ordering token to every destination. -/
  | ordf (n : Node)
  /-- FENCE (R273). Emits its ordering output once before-mask accesses are visible on the after-mask paths at its scope. -/
  | fence (n : Node)
  /-- TFENCE (R396). Orders page-table stores before later walks by discarding cached translations. -/
  | tfence (n : Node)
  /-- PREF (R274). Prefetches the lines of a run of addresses. -/
  | pref (n : Node)
  /-- CPY (R275). Copies a tensor described by two shape records, by store or atomic add. -/
  | cpy (n : Node)
  /-- CPYW (R275). Copies a tensor and writes a completion flag at the destination. -/
  | cpyw (n : Node)
  /-- GATH (R277). Gathers indexed rows into a dense area. -/
  | gath (n : Node)
  /-- SCAT (R277). Scatters dense rows to indexed places, by store or atomic add. -/
  | scat (n : Node)
  /-- REORD (R279). Buffers elements and emits them in affine-counter order. -/
  | reord (n : Node)
  /-- DQPUT (R281). Writes a token's payload through a sequenced die copy queue. -/
  | dqput (n : Node)
  /-- DQFLG (R281). Writes a flag after every earlier entry of its die copy queue is performed. -/
  | dqflg (n : Node)
  /-- MCST (R282). Writes one token to several replicas. -/
  | mcst (n : Node)
  /-- LDS (R269). Loads elements from the scratchpad. -/
  | lds (n : Node)
  /-- STS (R270). Stores elements to the scratchpad. -/
  | sts (n : Node)
  /-- QPUT (R313). Reserves a pipe place and stages its token for publication at COMMIT. -/
  | qput (n : Node)
  /-- QGET (R313). Takes a further pipe entry for its activation. -/
  | qget (n : Node)
  /-- QEOS (R313). Stages the instance's end mark for a pipe. -/
  | qeos (n : Node)
  /-- QSTAT (R313). Emits a snapshot of a pipe's state and counts. -/
  | qstat (n : Node)
  /-- NQGET (R313). Claims one notification queue entry by CAS of HEAD. -/
  | nqget (n : Node)
  /-- GPRI (R327). Sets the class of its own group. -/
  | gpri (n : Node)
  /-- GINFO (R328). Emits a snapshot of group information by selector. -/
  | ginfo (n : Node)
  /-- BARA (R337). Arrives at a barrier and emits its generation ticket. -/
  | bara (n : Node)
  /-- BARW (R338). Waits for a ticket's generation to release. -/
  | barw (n : Node)
  /-- BART (R339). Arrives, waits for release and emits the generation's carried value. -/
  | bart (n : Node)
  /-- COLL (R344). Contributes to a collective and receives its share of the result. -/
  | coll (n : Node)
  /-- LAUNCH (R329). Submits launch records to its die's bindery. -/
  | launch (n : Node)
  /-- TRAP (R371). Raises a halting fault with a code. -/
  | trap (n : Node)
  /-- BKPT (R371). Arms its frame to fault at the end of its block. -/
  | bkpt (n : Node)
  /-- CSRR (R372). Reads a context register. -/
  | csrr (n : Node)
  /-- CSRR_VIOLOG (R56). Reads and removes the oldest violation log entry. -/
  | csrrViolog (n : Node)
  /-- CSRW (R372). Writes a context register without behaviour of its own and emits its old value. -/
  | csrw (n : Node)
  /-- CSRW_VIOLOG (R56). Empties the violation log and emits its former entry count. -/
  | csrwViolog (n : Node)
  /-- CSRW_FFLAGS (R90). Clears sticky FFLAGS bits written as one. -/
  | csrwFflags (n : Node)
  /-- CSRW_JFLAGS (R193). Clears JFLAGS bits written as one. -/
  | csrwJflags (n : Node)
  /-- PROGI (R373). Reads the progress bookmark of a node's operation in the frame. -/
  | progi (n : Node)
  /-- CAPS (R374). Emits CAPBASE or a capability header word. -/
  | caps (n : Node)
  /-- CLOCK (R374). Emits the CYCLE count. -/
  | clock (n : Node)
  /-- PMIG (R388). Migrates one page of a target context under write-blocking. -/
  | pmig (n : Node)
  /-- PCNT (R398). Reads a leaf's access counter by RMW, optionally clearing it. -/
  | pcnt (n : Node)
  /-- PWB_SET (R397). Sets a leaf's write-blocking bit and reports once earlier writes are performed. -/
  | pwbSet (n : Node)
  /-- PWB_CLR (R397). Clears a leaf's write-blocking bit. -/
  | pwbClr (n : Node)
  /-- PHASH_HASH (R399). Computes a page's chained hash. -/
  | phashHash (n : Node)
  /-- PHASH_SHARE (R399). Hashes a page and shares it through the catalogue. -/
  | phashShare (n : Node)
  /-- PHASH_DROP (R399). Drops a shared page's catalogue reference. -/
  | phashDrop (n : Node)
  /-- BMAP (R400). Rewrites the shelf list's beam rows in one step. -/
  | bmap (n : Node)
  /-- LNKST (R415). Emits a snapshot of one link's state. -/
  | lnkst (n : Node)
  /-- SVCTX_HALT (R375). Raises HALT on a target context and emits its status. -/
  | svctxHalt (n : Node)
  /-- SVCTX_SAVE (R375). Raises SAVE on a target context and emits its status. -/
  | svctxSave (n : Node)
  /-- SVCTX_RESUME (R375). Raises RESUME on a target context and emits its status. -/
  | svctxResume (n : Node)
  /-- SVCTX_ABANDON (R375). Raises ABANDON on a target context and emits its status. -/
  | svctxAbandon (n : Node)
  /-- SVCTX_DESTROY (R375). Raises DESTROY on a target context and emits its status. -/
  | svctxDestroy (n : Node)
  /-- SVCTX_QUERY (R375). Queries a target context's state and FAULTST. -/
  | svctxQuery (n : Node)
  /-- RSCTX (R375). Restores a target context from a save descriptor. -/
  | rsctx (n : Node)
  /-- DUMP (R375). Writes an archive image of a target context. -/
  | dump (n : Node)
  /-- CTRIG_START (R448). Starts a count and trace over a scope in a counter record. -/
  | ctrigStart (n : Node)
  /-- CTRIG_STOP (R448). Stops a count and latches the totals into the counter record. -/
  | ctrigStop (n : Node)
  /-- CMPR (R163). Compresses a run by a mask into a token or frame slots. -/
  | cmpr (n : Node)
  /-- EXPD (R164). Expands a dense token through a mask. -/
  | expd (n : Node)
  /-- TOPK (R157). Finds the K best elements of memory rows in a total order and writes records. -/
  | topk (n : Node)
  /-- SAMPLE (R160). Draws an index from a row of logits at a temperature. -/
  | sample (n : Node)
  /-- RNG (R154). Emits counter-based random elements. -/
  | rng (n : Node)
  /-- SMAXT (R161). Emits the softmax of a tag group at a temperature. -/
  | smaxt (n : Node)
  /-- ARGMX (R162). Finds the first element under the total order over a run or group. -/
  | argmx (n : Node)
  /-- CONFIG_WRITE (R51). Stages an element field write in the open configuration region. -/
  | configWrite (elem field : BitVec 7) (value : BitVec 16)
  /-- CONFIG_SELECT (R51). Names the core that receives following configuration writes. -/
  | configSelect (die : BitVec 4) (core : BitVec 5)
  /-- EXTEND (R50). Supplies the high half of the next 32-bit field write. -/
  | extend (high : BitVec 16)
  /-- BEGIN (R51). Opens a configuration region for a context. -/
  | regionBegin (ctx : BitVec 6)
  /-- CONFIG_COMMIT (R51). Applies the region's staged writes on each selected core as one step. -/
  | configCommit
  /-- ABORT (R51). Discards a region's staged writes. -/
  | regionAbort
  /-- DRAINREQ (R215). Cuts input queues and drains a context's kernel instances on a core. -/
  | drainreq (ctx : BitVec 6)
  /-- SAVEOVL (R362). Turns a core's state into a shift path writing the save image. -/
  | saveovl (ctx : BitVec 6)
  /-- RESTOREOVL (R364). Loads a core's state back from a save image. -/
  | restoreovl (ctx : BitVec 6)
  /-- QUOTA (R53). Sets an element's concordance quota on arrival, spilling excess entries. -/
  | quota (elem : BitVec 7) (entries : BitVec 9)
  /-- SUBMISSION_TAIL (R308). The bindery sees a submission queue TAIL advance and reads the new entries in order. -/
  | submissionTail (queue : Nat)
  /-- LAUNCH_RECORD (R315). The bindery takes a launch record, checks it and the folio, places and configures the group or refuses it. -/
  | launchRecord (die : Nat)
  /-- HALTOP (R350). A HALT operation reaches the target's master bindery and raises the halt line. -/
  | haltop (ctx : BitVec 6)
  /-- SAVEOP (R350). A SAVE operation is accepted and starts or holds the save. -/
  | saveop (ctx : BitVec 6)
  /-- RESUMEOP (R360). A RESUME operation lowers the halt line or continues a failed save. -/
  | resumeop (ctx : BitVec 6)
  /-- ABANDONOP (R350). An ABANDON operation marks a failed save image ABANDONED. -/
  | abandonop (ctx : BitVec 6)
  /-- DESTROYOP (R350). A DESTROY operation discards the context's fabric state. -/
  | destroyop (ctx : BitVec 6)
  /-- QUERYOP (R350). A QUERY operation reports the target's state and FAULTST. -/
  | queryop (ctx : BitVec 6)
  /-- RESTOREOP (R364). A RESTORE operation checks an image and starts restoring the context. -/
  | restoreop (ctx : BitVec 6)
  /-- DUMPOP (R367). A DUMP operation queues an archive image on the master die's dump engine. -/
  | dumpop (ctx : BitVec 6)
  /-- BINDOP (R348). A BIND operation reads the context descriptor of a FREE context. -/
  | bindop (ctx : BitVec 6)
  /-- BOUND (R350). The descriptor read ends, binding the context or failing. -/
  | bound (ctx : BitVec 6)
  /-- HALT_LINE (R353). The rising halt line reaches an element or engine, which stops within the skid bound. -/
  | haltLine (n elem : Nat)
  /-- STOP_RECORD (R354). An element or engine writes its stop record after stopping. -/
  | stopRecord (n elem : Nat)
  /-- STOPPED (R353). All stop records are written and the network is empty; the held operation proceeds and the halt notification is appended. -/
  | stopped (ctx : BitVec 6)
  /-- FAULT_TOKEN (R355). A fault token reaches a level of the fault tree and merges or is taken as the first fault. -/
  | faultToken (tok : Nat)
  /-- SAVEEND (R363). The save image is complete and the context becomes SAVED. -/
  | saveend (ctx : BitVec 6)
  /-- SAVESTOP (R365). A save stops on exhausted extents or a failed write and the context becomes SAVEFAIL_HALTED. -/
  | savestop (ctx : BitVec 6)
  /-- RESTOREEND (R364). The restore has loaded every section and the context runs or halts. -/
  | restoreend (ctx : BitVec 6)
  /-- RESTOREFAIL (R364). A read of the image fails and the context is destroyed. -/
  | restorefail (ctx : BitVec 6)
  /-- DUMPEND (R368). The colophon is written; the next queued dump on the engine starts. -/
  | dumpend (die : Nat)
  /-- RECLAIMED (R350). A destroyed context's counts are zero and its cores are released; it becomes FREE. -/
  | reclaimed (ctx : BitVec 6)
  /-- ACCEPT (R104). A token copy arrives at its destination element and is accepted, spilled, steered or refused. -/
  | accept (packet : Nat)
  /-- INJECT (R113). A token copy leaves an element's output buffer into the network. -/
  | inject (n elem entry dest : Nat)
  /-- CLASS0_PACING (R38). The 32-cycle pacing interval since the last class-0 injection expires. -/
  | class0Pacing (n elem : Nat)
  /-- EMIT_RESUME (R109). A waiting Emit takes a freed output-buffer entry and the firing continues. -/
  | emitResume (n elem : Nat)
  /-- REFILL (R105). The oldest spilled token returns to the concordance when an entry frees. -/
  | refill (n elem : Nat)
  /-- SPILLED_MATCH (R106). A match involving a spilled token completes as the token returns. -/
  | spilledMatch (n elem slot : Nat)
  /-- FIRING_PROMOTION (R323). A ready firing of class 2 or 3 reaches 256 or 512 cycles and counts one class lower. -/
  | firingPromotion (n elem firing : Nat)
  /-- ACTIVATION_START (R196). A ready kernel instance starts an activation in a free frame and delivers its inputs. -/
  | activationStart (inst : InstId)
  /-- DEFERRED_READ (R202). A slot read deferred on an absent slot proceeds once every slot is present. -/
  | deferredRead (op : Nat)
  /-- PUBLISH (R302). A commit's staged tokens reach the home core and are appended and routed to replicas. -/
  | publish (commit : Nat)
  /-- END_MARK (R304). A producer's end mark reaches the pipe and lowers PROD. -/
  | endMark (mark : Nat)
  /-- STEAL (R319). An entry aged AGE cycles becomes stealable and is taken by an idle replica of the die. -/
  | steal (inst : InstId)
  /-- REPLICA_EVALUATION (R320). The scheduler enables or disables a replica on the first input pipe's occupancy. -/
  | replicaEvaluation (serial kernel : Nat)
  /-- ARRIVE (R331). A barrier arrival reaches the root of the combining tree and is numbered. -/
  | arrive (arrival : Nat)
  /-- TICKET_RETURN (R337). The root's numbering returns to the BRE and BARA emits its ticket. -/
  | ticketReturn (arrival : Nat)
  /-- DELIVERED (R335). A generation's release reaches every BRE and wakes the waiters. -/
  | delivered (bar : BarId)
  /-- EXPIRE (R341). A collective's timeout passes before all ranks contribute, giving the PARTIAL outcome. -/
  | expire (bar : BarId)
  /-- COLLECTIVE_END (R340). A collective's destination writes become visible and every party's outputs are emitted. -/
  | collectiveEnd (bar : BarId)
  /-- MEMORY_RESPONSE (R253). A memory request is performed and answered; the firing's output follows the last answer. -/
  | memoryResponse (op elem : Nat)
  /-- TRANSFER_UNIT (R267). An engine completes one unit of a transfer and starts the next or ends. -/
  | transferUnit (op : Nat)
  /-- WATCHDOG (R356). An access gets no response within 2^26 cycles and the firing faults. -/
  | watchdog (op : Nat)
  /-- STALLED_WRITE_RETRY (R387). A write stalled on WB is retranslated and performed once WB clears. -/
  | stalledWriteRetry (op elem : Nat)
  /-- BLOCK_PASS (R236). The matrix array completes one block pass unit and advances its bookmark. -/
  | blockPass (op : Nat)
  /-- REMOTE_ACCESS (R264). A remote access reaches the far package's Strand agent, is checked and translated. -/
  | remoteAccess (req : RemoteReq)
  /-- HOST_ACCESS (R297). A companion-processor access to device memory arrives over Tether. -/
  | hostAccess (req : HostReq)
  /-- BLOCKED_TIMER (R404). A router input's blocked-timer reaches its limit and awaits the call slip. -/
  | blockedTimer (router : Nat)
  /-- SLIP_CAPTURE (R405). A router captures the passing call slip and moves its packet into the returns lane. -/
  | slipCapture (router : Nat)
  /-- SLIP_RELEASE (R405). The drained packet leaves the router's part of its route and the slip moves on. -/
  | slipRelease (router : Nat)
  /-- SLIP_WATCHDOG (R406). A ring watchdog reaches 65,536 and the slip is lost, faulting contexts with LINK. -/
  | slipWatchdog (ring : Nat)
  /-- SLIP_REISSUE (R406). The bindery issues a new slip once the faulted contexts' halt lines have risen. -/
  | slipReissue (ring : Nat)
  /-- CLASS0_TIMEOUT (R409). A class-0 packet misses its delivery bound and faults its context with LINK. -/
  | class0Timeout (packet : Nat)
  /-- BOOT (R451). The package boots through its signed stages and starts link training. -/
  | boot
  /-- TRAINOK (R410). Link training or recovery completes at full width. -/
  | trainok (link : BitVec 6)
  /-- TRAINHALF (R410). Link training or recovery completes at half width. -/
  | trainhalf (link : BitVec 6)
  /-- TRAINFAIL (R410). A training or recovery attempt fails; after the third the link goes FAILED. -/
  | trainfail (link : BitVec 6)
  /-- LANELOSS (R410). Lanes are lost and the link degrades or recovers. -/
  | laneloss (link : BitVec 6)
  /-- ERRBURST (R410). Excess replays put the link into RECOVERING. -/
  | errburst (link : BitVec 6)
  /-- ABSENT (R410). Training finds no far end and the link stays DOWN. -/
  | absent (link : BitVec 6)
  /-- FLIT_REPLAY (R410). A flit failing its CRC is replayed. -/
  | flitReplay (link : BitVec 6)
  /-- POD_HALT (R414). A pod halt over Strand raises an accepted HALT on a member context. -/
  | podHalt (ctx : BitVec 6)
  /-- REPORT_REQUEST (R455). The security controller sees REQ set and writes a signed attestation report. -/
  | reportRequest
  /-- CLOCK_STEP_DOWN (R456). Over power or temperature, the fabric clock steps down by 1/16 each 100 µs. -/
  | clockStepDown
  /-- CLOCK_STEP_UP (R456). After both conditions clear for 1 ms, the clock steps back up. -/
  | clockStepUp
  /-- CRITICAL_TEMPERATURE (R456). A sensor passes the critical temperature and every running context is halted. -/
  | criticalTemperature
  /-- SCRUB (R458). A scrub rewrites a corrected line or poisons an uncorrectable one. -/
  | scrub (line : Nat) (bad : Bool)
  /-- TRACE_SAMPLE (R446). Every 2^(P+8) cycles an element writes a trace record if it fired. -/
  | traceSample (n elem : Nat)
  /-- START_PACKET (R448). A count start packet reaches an element, clearing and arming its counters. -/
  | startPacket (n elem : Nat)
  /-- STOP_PACKET (R448). A count stop packet reaches an element, adding its counts into the record. -/
  | stopPacket (n elem : Nat)
  /-- COMMAND_APPLIED_REPORT (R407). A core's report that it has applied configuration command s reaches the source bindery, which then sends the held command s + 256. -/
  | commandAppliedReport (bindery n : Nat)
  /-- IDENTITY_CERTIFICATE (R453). The certificate returned by Ifemund's provisioning service arrives and is stored in flash. -/
  | identityCertificate (cert : List Byte)
  deriving DecidableEq, Repr

end Sys2Proof
end

