-- ==== Sys2Proof/Machine/Legal.lean ====
section
/-! DEFINITION. The encoding tables of the instruction chapters as one list of rows (opcode, formats, arity, lanes,
ports, outputs, MOD and IMM rules), and the checks LE_OPCODE, LE_FIELD, LE_JET and LE_LINK that read them. -/

namespace Sys2Proof

/-- The format of a FMT code (R46). -/
def Fmt.ofCode : Nat → Fmt
  | 0 => .I | 1 => .D | 2 => .S | 3 => .H | 4 => .B | 5 => .Q | 6 => .G | _ => .X

/-- The FMT code of a format (R46). -/
def Fmt.code : Fmt → Nat
  | .I => 0 | .D => 1 | .S => 2 | .H => 3 | .B => 4 | .Q => 5 | .G => 6 | .X => 7

/-- Bytes of one element of a float format (R68, R71); 0 where the format alone does not fix the size. -/
def Fmt.size : Fmt → Nat
  | .D => 8 | .S => 4 | .H => 2 | .B => 2 | .Q => 1 | _ => 0

end Sys2Proof

namespace Sys2Proof.Machine

/-- The element types of R14. -/
inductive ElemType where
  | pe | sfe | mae | rbe | mxa | cpe | qpe | bre
  deriving DecidableEq, Repr

/-- Kinds of token-fed ports (R98, R131, R223): `fix f` accepts one format, `conv` is a conversion-source port. -/
inductive PortKind where
  | data | pred | tag | control | fix (f : Fmt) | conv | tile
  deriving DecidableEq, Repr

/-- Load errors that one node can give (R30). -/
inductive LoadErr where
  | opcode | field | jet | link
  deriving DecidableEq, Repr

/-- MOD as a number. -/
def md (n : Node) : Nat := n.mod.toNat

/-- IMM as a number. -/
def im (n : Node) : Nat := n.imm.toNat

/-- The integer width in bits that MOD[5:4] names (R114, R130). -/
def intWidth (n : Node) : Nat := 8 * 2 ^ field (md n) 5 4

/-- MOD[3]: the integer is unsigned (R114, R130). -/
def isUns (n : Node) : Bool := bitOf (md n) 3

/-- MOD[5]: the `.ord` forms of R255. -/
def isOrd (n : Node) : Bool := bitOf (md n) 5

/-- The quad split. -/
def isQuad (n : Node) : Bool := bitOf (md n) 2

/-- The cores of a matrix firing. -/
def quadCores (n : Node) (core : Nat) : List Nat := if isQuad n then [core, core + 1, core + 2, core + 3] else [core]

/-- The cores whose MXA a firing uses (R229, R235). -/
def mxaCores (opc : Nat) (n : Node) (core : Nat) : List Nat :=
  if (0x101 ≤ opc ∧ opc ≤ 0x104) ∨ opc = 0x10B then quadCores n core else [core]

/-- IMM[31:8] as a signed displacement or stride (R134, R268). -/
def immHi (n : Node) : Int := toSigned 24 (field (im n) 31 8)

/-- IMM as a signed 32-bit displacement (R268). -/
def immDisp (n : Node) : Int := toSigned 32 (im n)

/-- The bits of MOD outside `mask` are zero (R40). -/
def modIn (mask : Nat) (n : Node) : Bool := md n &&& mask == md n

/-- The bits of IMM outside `mask` are zero (R40). -/
def immIn (mask : Nat) (n : Node) : Bool := im n &&& mask == im n

/-- What TAGOP codes an entry takes (R36, R217). -/
inductive TagRule where
  | common | keepOnly | calleeOnly | callerOnly
  deriving DecidableEq, Repr

/-- What RM codes an entry takes (R37, R238): none, all of R78, none but 000 to 101, 000 to 101 on FMT D alone. -/
inductive RmRule where
  | none | all | noSr | noSrOnD
  deriving DecidableEq, Repr

/-- One row of the encoding tables: `outs` counts the outputs without the ordering output. -/
structure Row where
  opc     : Nat
  elem    : ElemType := .pe
  fmts    : List Fmt := [.I]
  arities : List Nat := [1]
  lanes   : List Lane := [.value]
  imm     : Bool := false
  rm      : RmRule := .none
  tag     : TagRule := .common
  ports   : Node → List PortKind := fun n => List.replicate n.arity.toNat .data
  outs    : Node → Nat := fun _ => 1
  ordPort : Node → Bool := fun _ => false
  ordOut  : Node → Bool := fun _ => false
  check   : Node → Bool := fun n => modIn 0 n && immIn 0 n
  sup     : Node → Bool := fun _ => false

def allFmts : List Fmt := [.I, .D, .S, .H, .B, .Q, .G, .X]
def fmtsToG : List Fmt := [.I, .D, .S, .H, .B, .Q, .G]
def fmtsToQ : List Fmt := [.I, .D, .S, .H, .B, .Q]
def fltFmts : List Fmt := [.D, .S, .H, .B, .Q]
def lanesAll : List Lane := [.value, .jet, .tile]
def lanesVJ : List Lane := [.value, .jet]

/-- MOD[5:3] names an integer type on FMT 000 and is zero elsewhere; other MOD bits lie in `mask`. -/
def typeMod (mask : Nat) (n : Node) : Bool := modIn (if n.fmt = .I then 0x38 ||| mask else mask) n

/-- The immediate forms of R39 by format, for an operand held in IMM. -/
def immValueOk (n : Node) : Bool :=
  match n.fmt with
  | .H | .B => immIn 0xFFFF n
  | .Q => immIn 0xFF n
  | .G | .X => false
  | _ => true

/-- CONST forms its constant as R39 gives, or names a pool offset aligned to the element (R121). -/
def constOk (n : Node) : Bool :=
  modIn (if n.fmt = .I then 0x39 else 1) n &&
  (if bitOf (md n) 0 then im n % (if n.fmt = .I then intWidth n / 8 else n.fmt.size) == 0 else immValueOk n)

/-- REDUCE and SCAN (R114, R127): operation 0 to 6, bitwise operations on FMT 000, `run` or a group size. -/
def reduceOk (n : Node) : Bool :=
  modIn (if n.fmt = .I then 0x3F else 0x07) n && field (md n) 2 0 ≤ 6 &&
  (n.fmt = .I || field (md n) 2 0 ≤ 3) && runOrGroup n
where
  /-- IMM is 0 for a run, or bit 5 with G from 0 to 16. -/
  runOrGroup (n : Node) : Bool :=
    immIn 0x3F n && (if bitOf (im n) 5 then field (im n) 4 0 ≤ 16 else im n == 0)

/-- The group of R114. -/
def fabricRows : List Row :=
  [ { opc := 0x001, fmts := allFmts, lanes := lanesAll },
    { opc := 0x002, fmts := allFmts, lanes := lanesAll, check := fun n => modIn (if n.cf then 0xF else 0) n && immIn 0 n },
    { opc := 0x003, fmts := allFmts, arities := [2], lanes := lanesAll, ports := fun _ => [.data, .pred], outs := fun _ => 2 },
    { opc := 0x004, fmts := allFmts, arities := [2], lanes := lanesAll },
    { opc := 0x005, fmts := allFmts, arities := [2], lanes := lanesAll, ports := fun _ => [.data, .control] },
    { opc := 0x006, fmts := allFmts, arities := [2, 3], lanes := lanesAll, outs := fun n => n.arity.toNat },
    { opc := 0x007, fmts := fmtsToQ, lanes := lanesVJ, ports := fun _ => [.control], check := constOk },
    { opc := 0x008, fmts := allFmts, lanes := lanesAll, outs := fun _ => 0 },
    { opc := 0x009, fmts := fmtsToG, arities := [3], lanes := lanesVJ, ports := fun _ => [.pred, .data, .data] },
    { opc := 0x00A, fmts := fmtsToG, lanes := lanesVJ, check := fun n => modIn 0 n && immIn 0xFFFF n },
    { opc := 0x00B, fmts := fmtsToG, arities := [2], lanes := lanesVJ, ports := fun _ => [.data, .tag],
      check := fun n => modIn 0xF n && immIn 0 n },
    { opc := 0x00C, ports := fun _ => [.control] },
    { opc := 0x00D, fmts := fmtsToG, lanes := lanesVJ,
      check := fun n => modIn 0x3 n && md n ≤ 2 && im n ≤ (if md n = 0 then 65535 else if md n = 1 then 255 else 16383) },
    { opc := 0x00E, fmts := allFmts, lanes := lanesVJ, check := fun n => modIn 0x1F n && immIn 0 n },
    { opc := 0x00F, fmts := allFmts, lanes := lanesVJ, check := fun n => modIn 0x1F n && immIn 0 n && [1, 3, 7, 15, 31].contains (md n) },
    { opc := 0x010, fmts := fmtsToG, lanes := lanesVJ, check := fun n => modIn 0x1F n && immIn 0 n },
    { opc := 0x011, fmts := fmtsToQ, lanes := lanesVJ, rm := .all, check := reduceOk },
    { opc := 0x012, fmts := fmtsToQ, lanes := lanesVJ, rm := .all, check := reduceOk },
    { opc := 0x013, fmts := fmtsToQ, lanes := lanesVJ, check := fun n => modIn 0 n && im n % 8 == 0 },
    { opc := 0x014, fmts := allFmts, lanes := lanesAll },
    { opc := 0x015, fmts := allFmts, lanes := lanesAll, outs := fun _ => 2 },
    { opc := 0x016, fmts := allFmts, lanes := lanesAll, outs := fun _ => 2, check := fun n => modIn 1 n && immIn 0 n },
    { opc := 0x017, ports := fun _ => [.control], check := fun n => modIn 0 n && 1 ≤ im n && im n ≤ 0xD },
    { opc := 0x018, ports := fun _ => [.control], check := fun n => modIn 0x30 n && field (md n) 5 4 != 0 && immIn 0 n },
    { opc := 0x019, fmts := fmtsToQ, lanes := lanesVJ, rm := .all, ports := fun _ => [.conv],
      check := fun n => modIn 0x38 n && immIn 0 n } ]

/-- A row of the integer table (R133): immediate form, MOD beside the type, IMM. -/
def intRow (opc ar : Nat) (imm : Bool) (mask : Nat := 0) (sgn : Bool := false) : Row :=
  { opc := opc, arities := [ar], imm := imm,
    check := fun n => modIn (0x38 ||| mask) n && (!sgn || !isUns n) && (n.immp || immIn 0 n) }

/-- BFX and BFI (R133): len 1 to w and pos + len at most w. -/
def bitFieldOk (n : Node) : Bool :=
  modIn 0x38 n && immIn 0x3F3F n && 1 ≤ field (im n) 13 8 && field (im n) 5 0 + field (im n) 13 8 ≤ intWidth n

def integerRows : List Row :=
  [ intRow 0x040 2 true, intRow 0x041 2 true, intRow 0x042 2 true, intRow 0x043 2 true, intRow 0x044 3 true,
    intRow 0x045 2 true, intRow 0x046 2 true, intRow 0x047 1 false 0 true, intRow 0x048 1 false 0 true,
    intRow 0x049 2 true, intRow 0x04A 2 true, intRow 0x04B 2 true, intRow 0x04C 2 true,
    { intRow 0x04D 2 true 7 with check := fun n => modIn 0x3F n && field (md n) 2 0 ≤ 5 && (n.immp || immIn 0 n) },
    { opc := 0x04E, arities := [3], check := fun n => modIn 0x37 n && 2 ≤ field (md n) 5 4 && immIn 0 n },
    intRow 0x04F 3 true, intRow 0x050 2 true, intRow 0x051 2 true, intRow 0x052 2 true, intRow 0x053 1 false,
    intRow 0x054 2 true, intRow 0x055 2 true, intRow 0x056 2 true, intRow 0x057 2 true 0 true, intRow 0x058 2 true,
    intRow 0x059 1 false, intRow 0x05A 1 false, intRow 0x05B 1 false, intRow 0x05C 1 false,
    { opc := 0x05D, check := bitFieldOk }, { opc := 0x05E, arities := [2], check := bitFieldOk },
    { opc := 0x05F, arities := [2], check := fun n => modIn 0x38 n && immIn 0xFFFFFF07 n } ]

/-- A row of the float table (R137). -/
def fltRow (opc ar : Nat) (imm rounds : Bool) (mask : Nat := 0) : Row :=
  { opc := opc, fmts := fltFmts, arities := [ar], lanes := lanesVJ, imm := imm,
    rm := if rounds then .all else .none, check := fun n => modIn mask n && (n.immp || immIn 0 n) }

def floatRows : List Row :=
  [ fltRow 0x070 2 true true, fltRow 0x071 2 true true, fltRow 0x072 2 true true, fltRow 0x073 3 true true,
    fltRow 0x074 2 true true, fltRow 0x075 1 false true, fltRow 0x076 1 false true, fltRow 0x077 1 false true,
    fltRow 0x078 2 true false, fltRow 0x079 2 true false, fltRow 0x07A 1 false false, fltRow 0x07B 1 false false,
    fltRow 0x07C 2 true false 7, fltRow 0x07D 1 false false, fltRow 0x07E 1 false true 1,
    { fltRow 0x07F 2 true true with ports := fun _ => [.data, .fix .I] },
    { fltRow 0x080 1 false false with lanes := [.value] },
    { opc := 0x081, fmts := [.H, .B], arities := [3], rm := .all, ports := fun _ => [.fix .I, .fix .I, .fix .S] },
    fltRow 0x082 2 true false, fltRow 0x083 3 true false ]

def convertRows : List Row :=
  [ { opc := 0x0A0, fmts := fmtsToQ, lanes := lanesVJ, rm := .all, ports := fun _ => [.conv],
      check := fun n => modIn 0x38 n && immIn 0 n },
    { opc := 0x0A1, check := immIn 1 },
    { opc := 0x0A2, fmts := fltFmts, rm := .all, ports := fun n => [if bitOf (md n) 0 then .data else .fix .I],
      check := fun n => modIn 0x39 n && immIn 0xFF n },
    { opc := 0x0A3, fmts := [.G], rm := .all, ports := fun _ => [.conv], check := fun n => modIn 3 n && md n ≤ 2 && immIn 0 n },
    { opc := 0x0A4, fmts := fltFmts, rm := .all, ports := fun _ => [.fix .G], check := fun n => modIn 3 n && md n ≤ 2 && immIn 0 n },
    { opc := 0x0A5 },
    { opc := 0x0A6, check := fun n => modIn 0x38 n && immIn 0 n },
    { opc := 0x0A7, check := fun n => modIn 0x38 n && immIn 0 n },
    { opc := 0x0A8, fmts := fmtsToQ, ports := fun _ => [.control], check := fun n => typeMod 0 n && immIn 0 n } ]

/-- A special-function row (R150). -/
def sfRow (opc : Nat) : Row :=
  { opc := opc, elem := .sfe, fmts := [.D, .S, .H, .B], lanes := lanesVJ, rm := .all }

def specialRows : List Row :=
  [ sfRow 0x0B0, sfRow 0x0B1, sfRow 0x0B2, sfRow 0x0B3, sfRow 0x0B4, sfRow 0x0B5, sfRow 0x0B6, sfRow 0x0B7, sfRow 0x0B8,
    sfRow 0x0B9,
    { sfRow 0x0BA with arities := [2], imm := true, ports := fun _ => [.data, .fix .I],
                       check := fun n => modIn 0 n && (n.immp || immIn 0 n) } ]

/-- A jet-lane row (R179). -/
def jetRow (opc ar : Nat) (imm : Bool) (rm : RmRule) (mask : Nat) : Row :=
  { opc := opc, fmts := [.D, .S], arities := [ar], lanes := [.jet], imm := imm, rm := rm,
    check := fun n => modIn mask n && (n.immp || immIn 0 n) }

def jetRows : List Row :=
  [ jetRow 0x0C0 1 false .none 7, jetRow 0x0C1 1 false .none 7, jetRow 0x0C2 1 false .all 0xF, jetRow 0x0C3 2 true .none 7,
    jetRow 0x0C4 1 false .none 7, jetRow 0x0C5 1 false .all 0, jetRow 0x0C6 2 true .all 0, jetRow 0x0C7 2 true .all 0,
    jetRow 0x0C8 2 false .all 0,
    { opc := 0x0C9, ports := fun _ => [.control], check := fun n => modIn 0 n && immIn 0x1FFF n },
    { opc := 0x0CA, ports := fun _ => [.control], check := fun n => modIn 0 n && immIn 0x1FFF n },
    jetRow 0x0CB 2 true .all 0, jetRow 0x0CC 1 false .all 1 ]

/-- The slot-range rules of R172 and R217 on LDSLOT, STSLOT and CLRSLOT. -/
def slotOk (n : Node) (loads : Bool) : Bool :=
  immIn 0x3FF n &&
  match n.lane with
  | .jet => im n % 8 == 0 &&
      (if loads then
        let k := field (md n) 5 3
        let m := field (md n) 2 0 + 1
        k != 0 && (k + 1) * m ≤ (if n.fmt = .D then 32 else 64) && im n + 8 * (m - 1) + k ≤ 1023
      else typeMod 0 n)
  | _ => if loads then modIn 0x1F n && im n + md n ≤ 1023 else typeMod 0 n

def kernelRows : List Row :=
  [ { opc := 0x0E0, tag := .keepOnly, ports := fun _ => [.control], check := fun n => modIn 0 n && immIn 0xFF n },
    { opc := 0x0E1, tag := .keepOnly, ports := fun _ => [.control], check := fun n => modIn 0x1F n && immIn 0xFF n },
    { opc := 0x0E2, tag := .keepOnly, ports := fun _ => [.control], outs := fun _ => 0 },
    { opc := 0x0E3, tag := .keepOnly, ports := fun _ => [.control] },
    { opc := 0x0E4, fmts := fmtsToQ, lanes := lanesVJ, ports := fun _ => [.control], check := fun n => slotOk n true },
    { opc := 0x0E5, fmts := fmtsToQ, lanes := lanesVJ, check := fun n => slotOk n false },
    { opc := 0x0E6, ports := fun _ => [.control], check := fun n => slotOk n true },
    { opc := 0x0E7, tag := .calleeOnly, ports := fun _ => [.control], outs := fun _ => 2, check := fun n => modIn 0 n && immIn 0xFF n },
    { opc := 0x0E8, fmts := fmtsToQ, arities := [2], lanes := lanesVJ, tag := .calleeOnly, ports := fun _ => [.data, .tag],
      check := fun n => typeMod 0 n && immIn 0 n },
    { opc := 0x0E9, fmts := fmtsToQ, arities := [1, 2, 3], lanes := lanesVJ, tag := .callerOnly, outs := fun n => n.arity.toNat,
      check := fun n => typeMod 0 n && immIn 0 n },
    { opc := 0x0EA, tag := .keepOnly, ports := fun _ => [.control], outs := fun _ => 0 },
    { opc := 0x0EB, tag := .keepOnly, ports := fun _ => [.control], outs := fun _ => 0 },
    { opc := 0x0EC, ports := fun _ => [.control] },
    { opc := 0x0ED, fmts := fmtsToQ, lanes := lanesVJ, tag := .keepOnly, outs := fun _ => 0,
      check := fun n => typeMod 0 n && immIn 0xFFFFF n } ]

/-- A matrix row (R238). -/
def mmRow (opc : Nat) (fmts : List Fmt) (mask : Nat) (ok : Node → Bool := fun _ => true) : Row :=
  { opc := opc, elem := .mxa, fmts := fmts, arities := [3], lanes := [.tile], rm := .noSrOnD,
    ports := fun _ => [.tile, .tile, .tile], check := fun n => modIn mask n && immIn 0 n && ok n }

/-- `.ord` with its scope, or no scope bits at all (R255); `other` is what else MOD may hold. -/
def ordScopeOk (other top : Nat) (n : Node) : Bool :=
  if isOrd n then modIn (0x27 ||| other) n && field (md n) 2 0 ≤ top else modIn other n

def tileRows : List Row :=
  [ { opc := 0x100, elem := .mxa, fmts := fmtsToG, lanes := [.tile], ports := fun _ => [.fix .I],
      check := fun n => modIn 7 n && im n % 8 == 0 },
    mmRow 0x101 fltFmts 7,
    mmRow 0x102 [.I] 0x3F (fun n => !(bitOf (md n) 5 && bitOf (md n) 4)),
    mmRow 0x103 [.G] 0x1F (fun n => field (md n) 4 3 ≤ 2),
    mmRow 0x104 [.D, .S] 7,
    { opc := 0x105, elem := .mxa, fmts := [.D, .I], lanes := [.tile], ports := fun _ => [.tile] },
    { opc := 0x106, elem := .mxa, fmts := [.D, .I], lanes := [.tile], ports := fun _ => [.tile], check := fun n => modIn 1 n && immIn 7 n },
    { opc := 0x107, elem := .mxa, fmts := [.D, .I], arities := [2], lanes := [.tile], ports := fun n => [.tile, .fix n.fmt],
      check := fun n => modIn 0 n && immIn 0xFFF n },
    { opc := 0x108, elem := .cpe, fmts := [.D, .I], arities := [2], lanes := [.tile], rm := .noSr, ports := fun _ => [.tile, .fix .I],
      ordPort := isOrd, ordOut := isOrd, check := fun n => ordScopeOk 0x18 5 n && im n % 8 == 0 },
    { opc := 0x109, elem := .mxa, fmts := fmtsToG, lanes := [.tile], ports := fun _ => [.tile],
      check := fun n => modIn (if n.fmt = .I then 9 else if n.fmt = .G then 7 else 1) n && field (md n) 2 1 ≤ 2 && immIn 0x3FF n },
    { opc := 0x10A, elem := .mxa, fmts := [.D, .I], arities := [2], lanes := [.tile], ports := fun _ => [.tile, .tile],
      check := fun n => modIn 7 n && immIn 0 n },
    mmRow 0x10B fltFmts 7 ]

/-- The element field of R268: a width on FMT 000, a variant on FMT 110, else zero. -/
def elemField (n : Node) : Nat := if n.fmt = .I then 0x18 else if n.fmt = .G then 0x18 else 0

/-- The element field names a variant that exists. -/
def elemFieldOk (n : Node) : Bool := n.fmt != .G || field (md n) 4 3 ≤ 2

/-- A fabric load or store row (R268). -/
def accRow (opc ar : Nat) (ports : List PortKind) (immOk : Node → Bool) : Row :=
  { opc := opc, elem := .mae, fmts := fmtsToG, arities := [ar], lanes := lanesVJ, ports := fun _ => ports,
    ordPort := isOrd, ordOut := isOrd, check := fun n => ordScopeOk (elemField n) 5 n && elemFieldOk n && immOk n }

/-- The rules of ATOM, ATOMR and CAS (R261, R268). -/
def atomOk (n : Node) (cas : Bool) : Bool :=
  ordScopeOk (elemField n) 5 n && immIn 0xFFFFFF2F n && (n.fmt != .I || 2 ≤ field (md n) 4 3) &&
  (if cas then field (im n) 3 0 == 0
   else field (im n) 3 0 ≤ 8 && (n.fmt = .I || field (im n) 3 0 == 0 || field (im n) 3 0 == 8))

/-- A transfer row (R268): MOD[3] is `.add` where `add`. -/
def xferRow (opc ar : Nat) (add : Bool) : Row :=
  { opc := opc, elem := .cpe, arities := [ar], ordPort := isOrd, ordOut := isOrd,
    check := fun n => ordScopeOk (if add then 8 else 0) 5 n && im n % 8 == 0 }

/-- The die and queue of DQPUT and DQFLG (R268). -/
def dqOk (n : Node) : Bool := immIn 0x3F n && field (im n) 3 0 ≤ 7

def memoryRows : List Row :=
  [ accRow 0x120 1 [.fix .I] (fun _ => true), accRow 0x121 2 [.fix .I, .data] (fun _ => true),
    accRow 0x122 1 [.fix .I] (immIn 0xFFFFFF1F), accRow 0x123 2 [.fix .I, .data] (immIn 0xFFFFFF00),
    { opc := 0x124, elem := .mae, fmts := [.I, .D, .S], arities := [2], ports := fun _ => [.fix .I, .data],
      ordPort := isOrd, ordOut := isOrd, check := fun n => atomOk n false },
    { opc := 0x125, elem := .mae, fmts := [.I, .D, .S], arities := [2], ports := fun _ => [.fix .I, .data],
      ordPort := isOrd, ordOut := isOrd, check := fun n => atomOk n false },
    { opc := 0x126, elem := .mae, arities := [3], ordPort := isOrd, ordOut := isOrd, check := fun n => atomOk n true },
    { opc := 0x127, elem := .mae, ports := fun _ => [.control], outs := fun _ => 0, ordOut := fun _ => true },
    { opc := 0x128, elem := .mae, arities := [1, 2], ports := fun n => List.replicate n.arity.toNat .control,
      outs := fun _ => 0, ordPort := fun _ => true, ordOut := fun _ => true },
    { opc := 0x129, elem := .mae, arities := [0], ports := fun _ => [], outs := fun _ => 0, ordPort := fun _ => true,
      ordOut := fun _ => true },
    { opc := 0x12A, elem := .mae, arities := [0], ports := fun _ => [], outs := fun _ => 0, ordPort := fun _ => true,
      ordOut := fun _ => true, check := fun n => modIn 7 n && md n ≤ 5 && immIn 0x7F7F n },
    { opc := 0x12B, elem := .mae, arities := [0], ports := fun _ => [], outs := fun _ => 0, ordPort := fun _ => true,
      ordOut := fun _ => true, check := fun n => modIn 7 n && md n ≤ 5 && immIn 0 n },
    { opc := 0x12C, elem := .mae, outs := fun _ => 0, check := modIn 0 },
    xferRow 0x12D 2 true, xferRow 0x12E 3 false, xferRow 0x12F 3 false, xferRow 0x130 3 true,
    { opc := 0x131, elem := .rbe, fmts := fmtsToQ, check := fun n => modIn (if n.fmt = .I then 0x18 else 0) n && im n % 8 == 0 },
    { opc := 0x132, elem := .cpe, fmts := fmtsToG, arities := [2], lanes := lanesVJ, ports := fun _ => [.data, .fix .I],
      ordPort := isOrd, ordOut := isOrd, check := fun n => ordScopeOk (elemField n) 5 n && elemFieldOk n && dqOk n },
    { opc := 0x133, elem := .cpe, arities := [2], ordPort := isOrd, ordOut := isOrd, check := fun n => ordScopeOk 0 5 n && dqOk n },
    { opc := 0x134, elem := .cpe, fmts := fmtsToG, arities := [2], ports := fun _ => [.data, .fix .I],
      ordPort := isOrd, ordOut := isOrd, check := fun n => ordScopeOk (elemField n) 5 n && elemFieldOk n && im n % 8 == 0 },
    accRow 0x135 1 [.fix .I] (fun _ => true), accRow 0x136 2 [.fix .I, .data] (fun _ => true) ]

def queueRows : List Row :=
  [ { opc := 0x160, elem := .qpe, fmts := fmtsToG, lanes := lanesAll, check := fun n => modIn 0 n && immIn 0xFFF n },
    { opc := 0x161, elem := .qpe, fmts := fmtsToG, lanes := lanesAll, ports := fun _ => [.control],
      check := fun n => modIn 0 n && immIn 0xFFF n },
    { opc := 0x162, elem := .qpe, ports := fun _ => [.control], check := fun n => modIn 0 n && immIn 0xFFF n },
    { opc := 0x163, elem := .qpe, ports := fun _ => [.control], check := fun n => modIn 0 n && immIn 0xFFF n },
    { opc := 0x164, elem := .qpe, ports := fun _ => [.control], check := fun n => modIn 1 n && immIn 0 n },
    { opc := 0x165, elem := .qpe, arities := [2], imm := true, ports := fun _ => [.control, .fix .I],
      check := fun n => modIn 0 n && im n ≤ (if n.immp then 3 else 0) },
    { opc := 0x166, elem := .qpe, ports := fun _ => [.control], check := fun n => modIn 0 n && im n ≤ 3 },
    { opc := 0x167, elem := .bre, ports := fun _ => [.control],
      check := fun n => modIn 0xF n && field (md n) 2 0 ≤ 4 && immIn 0xFFFFFF0F n },
    { opc := 0x168, elem := .bre, check := fun n => modIn 0x7 n && md n ≤ 4 && immIn 0xF n },
    { opc := 0x169, elem := .bre, fmts := [.I, .D, .S], ports := fun n => [if bitOf (md n) 4 then .data else .control],
      check := fun n => modIn 0x1F n && field (md n) 2 0 ≤ 4 && immIn 0xFFFFFF0F n },
    { opc := 0x16A, elem := .bre, fmts := [.I, .D, .S], arities := [3], outs := fun _ => 2,
      ports := fun n => [.fix .I, if n.fmt = .I then .fix .I else .data, .fix .I],
      check := fun n => modIn 7 n && md n ≤ 4 && im n % 8 == 0 },
    { opc := 0x16B, elem := .qpe } ]

/-- The CSR numbers of R54. -/
def csrNumbers : List Nat :=
  [0x000, 0x001, 0x002, 0x010, 0x011, 0x012, 0x013, 0x014, 0x015, 0x016, 0x020, 0x021, 0x030, 0x031, 0x040, 0x041, 0x050, 0x051]

/-- The read-only CSRs of R54. -/
def csrReadOnly : List Nat := [0x000, 0x030, 0x031, 0x040]

/-- A supervisor instruction in every form (R45). -/
def always : Node → Bool := fun _ => true

def systemRows : List Row :=
  [ { opc := 0x180, ports := fun _ => [.control], outs := fun _ => 0, check := fun n => modIn 0 n && immIn 0xFFFF n },
    { opc := 0x181, ports := fun _ => [.control], check := fun n => modIn 0 n && immIn 0xFFFF n },
    { opc := 0x182, ports := fun _ => [.control], check := fun n => modIn 0 n && csrNumbers.contains (im n) },
    { opc := 0x183, check := fun n => modIn 0 n && csrNumbers.contains (im n) && !csrReadOnly.contains (im n) },
    { opc := 0x184, ports := fun _ => [.control], check := fun n => modIn 0 n && immIn 0x3FFFF n },
    { opc := 0x185, ports := fun _ => [.control], check := fun n => modIn 0 n && immIn 0xFFFF n },
    { opc := 0x186, ports := fun _ => [.control] },
    { opc := 0x187, elem := .cpe, arities := [3], sup := always },
    { opc := 0x188, elem := .mae, check := fun n => modIn 1 n && immIn 0 n },
    { opc := 0x189, elem := .mae, arities := [2], check := fun n => modIn 1 n && immIn 0 n, sup := always },
    { opc := 0x18A, elem := .mae, arities := [3], outs := fun _ => 2, check := fun n => modIn 3 n && md n ≤ 2 && immIn 0x3FF n },
    { opc := 0x18B, elem := .mae, arities := [2] },
    { opc := 0x18C, elem := .mae, ports := fun _ => [.control], check := fun n => modIn 0 n && im n ≤ 49 },
    { opc := 0x18D, elem := .mae, check := fun n => modIn 7 n && md n ≤ 5 && immIn 0 n, sup := always },
    { opc := 0x18E, elem := .mae, arities := [2], check := fun n => modIn 1 n && immIn 0 n, sup := always },
    { opc := 0x18F, elem := .mae, sup := always },
    { opc := 0x190, sup := fun n => 2 ≤ field (md n) 2 0,
      check := fun n => modIn 0xF n && field (md n) 2 0 ≤ 3 && immIn (if bitOf (md n) 3 then 0 else 0x1FFFFF) n } ]

/-- CMPR's IMM (R163): a space index, or a slot offset with s + 31 at most 1,023. -/
def cmprOk (n : Node) : Bool :=
  typeMod 1 n && (if bitOf (md n) 0 then immIn 0x3FF n && im n + 31 ≤ 1023 else immIn 0xFF n)

def selectRows : List Row :=
  [ { opc := 0x1A0, fmts := fmtsToQ, arities := [2], ports := fun _ => [.data, .pred], outs := fun _ => 2, check := cmprOk },
    { opc := 0x1A1, fmts := fmtsToQ, arities := [2], ports := fun _ => [.pred, .data], check := fun n => typeMod 0 n && immIn 0 n },
    { opc := 0x1A2, elem := .sfe, arities := [2], ordPort := isOrd, ordOut := isOrd,
      check := fun n => ordScopeOk 0 5 n && im n % 8 == 0 },
    { opc := 0x1A3, elem := .sfe, fmts := [.D, .S], arities := [2], ports := fun _ => [.fix .I, .data], ordPort := isOrd,
      ordOut := isOrd, check := fun n => ordScopeOk 0 5 n && im n % 8 == 0 },
    { opc := 0x1A4, elem := .sfe, fmts := [.I, .D, .S], ports := fun _ => [.control],
      check := fun n => (if n.fmt = .I then modIn 0x38 n && 2 ≤ field (md n) 5 4 && isUns n else modIn 0 n) && immIn 0xFF n },
    { opc := 0x1A5, elem := .sfe, fmts := [.D, .S, .H, .B], arities := [1, 2], imm := true, rm := .all,
      ports := fun n => if n.immp then [.data] else [.data, .data],
      check := fun n => modIn 0xF n && md n ≤ 8 && (n.arity == 1) == n.immp && (n.immp || immIn 0 n) },
    { opc := 0x1A6, elem := .sfe, fmts := fmtsToQ, outs := fun _ => 2, check := fun n => typeMod 0 n && reduceOk.runOrGroup n } ]

/-- Every row of R44. -/
def rows : List Row :=
  fabricRows ++ integerRows ++ floatRows ++ convertRows ++ specialRows ++ jetRows ++ kernelRows ++ tileRows ++ memoryRows ++
  queueRows ++ systemRows ++ selectRows

/-- The row of an opcode; none for a reserved one (R44). -/
def rowOf (opc : Nat) : Option Row := rows.find? (·.opc == opc)

/-- The element type a node is placed on: FDIV and FSQRT on jets go to an SFE (R44). -/
def elemTypeOf (r : Row) (n : Node) : ElemType :=
  if (r.opc == 0x074 || r.opc == 0x075) && n.lane == .jet then .sfe else r.elem

/-- TAGOP is legal (R36, R217). -/
def tagOk (r : Row) (n : Node) : Bool :=
  match r.tag with
  | .keepOnly => n.tagop == .keep
  | .calleeOnly => n.tagop == .callee
  | .callerOnly => n.tagop == .caller
  | .common => match n.tagop with
    | .callee | .caller => false
    | .iter => 2 ≤ n.arity.toNat
    | _ => true

/-- RM is legal (R37, R238). -/
def rmOk (r : Row) (n : Node) : Bool :=
  match r.rm with
  | .none => n.rm == .ctx
  | .all => true
  | .noSr => n.rm != .sr
  | .noSrOnD => n.rm == .ctx || (n.fmt == .D && n.rm != .sr)

/-- IMMP is legal and an immediate operand fits its format (R39); FSCALE, FPOWN and GPRI take an integer. -/
def immpOk (r : Row) (n : Node) : Bool :=
  !n.immp || (r.imm && 1 ≤ n.arity.toNat && (r.opc == 0x07F || r.opc == 0x0BA || r.opc == 0x165 || immValueOk n))

/-- An entry whose rule makes every breach LE_FIELD, one of LANE 01 too (R238, R268, R312, R326, R336, R342, R370, R394, R415);
QPUT and QGET take LANE 01 on every FMT of their table, which leaves theirs to R35. -/
def laneInField (r : Row) : Bool := 0x100 ≤ r.opc && r.opc < 0x1A0 && r.opc != 0x160 && r.opc != 0x161

/-- A breach of LANE 01 that R35 makes LE_JET. -/
def jetOwn (r : Row) (n : Node) : Bool := n.lane == .jet && !laneInField r

/-- LANE is one of the entry's, and LANE 01 stands on a format that has jets (R35). -/
def laneOk (r : Row) (n : Node) : Bool := r.lanes.contains n.lane && (n.lane != .jet || n.fmt == .D || n.fmt == .S)

/-- LE_FIELD (R33 to R40): a jet lane on a wrong format of a row that takes jets is left to LE_JET where R35 rules it; QPUT and QGET
have their formats whatever the lane (R312). -/
def fieldBad (r : Row) (n : Node) : Bool :=
  (!r.fmts.contains n.fmt && !(jetOwn r n && r.lanes.contains .jet && r.opc != 0x160 && r.opc != 0x161)) || !r.arities.contains n.arity.toNat ||
  (!jetOwn r n && !laneOk r n) || !tagOk r n || !rmOk r n || !immpOk r n || (!n.cf && n.cls != 0) || !r.check n

/-- LE_JET (R35, R127, R132): jets on a row or a format that takes none, and products of jets in REDUCE and SCAN. -/
def jetBad (r : Row) (n : Node) : Bool :=
  n.lane == .jet && (!r.lanes.contains .jet || !(n.fmt == .D || n.fmt == .S) ||
    ((r.opc == 0x011 || r.opc == 0x012) && field (md n) 2 0 == 1))

/-- LE_LINK as one node shows it alone (R42, R43): a node with one output or fan-out uses any destinations, a node with
more outputs no more destinations than outputs, a node without outputs none. -/
def linkBad (r : Row) (n : Node) : Bool :=
  let m := r.outs n + ofBool (r.ordOut n)
  3 < n.dests.length || (m != 1 && m < n.dests.length)

/-- The first load error of a node whose opcode is `opc`, in the order of R30, none where the bindery accepts it alone. -/
def checkNode (opc : Nat) (n : Node) : Option LoadErr :=
  match rowOf opc with
  | none => some .opcode
  | some r => if fieldBad r n then some .field else if jetBad r n then some .jet else if linkBad r n then some .link else none

end Sys2Proof.Machine
end

