-- ==== Sys2Proof/WellFormed.lean ====
section
/-! DEFINITION. Which terms of `Instr` are instructions: a node that the bindery accepts alone (R30 to R43), in the row
its MOD and IMM select; a configuration command or an event whose numbers exist. -/

namespace Sys2Proof

open Sys2Proof.Machine

/-- The opcode of a node instruction (R44); none for the configuration commands and the events. -/
def opcode : Instr → Option Nat
  | .pass _ => some 0x001
  | .copy _ => some 0x002
  | .steer _ => some 0x003
  | .merge _ => some 0x004
  | .gate _ => some 0x005
  | .sync _ => some 0x006
  | .const _ => some 0x007
  | .sink _ => some 0x008
  | .select _ => some 0x009
  | .tnext _ => some 0x00A
  | .retag _ => some 0x00B
  | .tget _ => some 0x00C
  | .tset _ => some 0x00D
  | .split _ => some 0x00E
  | .join _ => some 0x00F
  | .bcast _ => some 0x010
  | .reduce _ => some 0x011
  | .scan _ => some 0x012
  | .perm _ => some 0x013
  | .eos _ => some 0x014
  | .iseos _ => some 0x015
  | .errt _ => some 0x016
  | .mkerr _ => some 0x017
  | .itidx _ => some 0x018
  | .conv _ => some 0x019
  | .iadd _ => some 0x040
  | .isub _ => some 0x041
  | .imul _ => some 0x042
  | .imulh _ => some 0x043
  | .imad _ => some 0x044
  | .idiv _ => some 0x045
  | .irem _ => some 0x046
  | .ineg _ => some 0x047
  | .iabs _ => some 0x048
  | .imin _ => some 0x049
  | .imax _ => some 0x04A
  | .iadds _ => some 0x04B
  | .isubs _ => some 0x04C
  | .icmp _ => some 0x04D
  | .idot4 _ => some 0x04E
  | .iclamp _ => some 0x04F
  | .andw _ => some 0x050
  | .orw _ => some 0x051
  | .xorw _ => some 0x052
  | .notw _ => some 0x053
  | .andn _ => some 0x054
  | .shl _ => some 0x055
  | .shr _ => some 0x056
  | .sar _ => some 0x057
  | .rotl _ => some 0x058
  | .popc _ => some 0x059
  | .clz _ => some 0x05A
  | .ctz _ => some 0x05B
  | .brev _ => some 0x05C
  | .bfx _ => some 0x05D
  | .bfi _ => some 0x05E
  | .addr _ => some 0x05F
  | .fadd _ => some 0x070
  | .fsub _ => some 0x071
  | .fmul _ => some 0x072
  | .ffma _ => some 0x073
  | .fdiv _ => some 0x074
  | .fsqrt _ => some 0x075
  | .frcp _ => some 0x076
  | .frsq _ => some 0x077
  | .fmin _ => some 0x078
  | .fmax _ => some 0x079
  | .fabs _ => some 0x07A
  | .fneg _ => some 0x07B
  | .fcmp _ => some 0x07C
  | .fclass _ => some 0x07D
  | .frnd _ => some 0x07E
  | .fscale _ => some 0x07F
  | .fgetx _ => some 0x080
  | .fdot2 _ => some 0x081
  | .fcpsgn _ => some 0x082
  | .fclamp _ => some 0x083
  | .cvt _ => some 0x0A0
  | .cvti _ => some 0x0A1
  | .cvtf _ => some 0x0A2
  | .gpack _ => some 0x0A3
  | .gunpk _ => some 0x0A4
  | .unp3 _ => some 0x0A5
  | .npack _ => some 0x0A6
  | .nunpk _ => some 0x0A7
  | .movb _ => some 0x0A8
  | .fexp _ => some 0x0B0
  | .fexp2 _ => some 0x0B1
  | .flog _ => some 0x0B2
  | .flog2 _ => some 0x0B3
  | .fsin _ => some 0x0B4
  | .fcos _ => some 0x0B5
  | .ftanh _ => some 0x0B6
  | .fsigm _ => some 0x0B7
  | .ferf _ => some 0x0B8
  | .fatan _ => some 0x0B9
  | .fpown _ => some 0x0BA
  | .jseed _ => some 0x0C0
  | .jlift _ => some 0x0C1
  | .jget _ => some 0x0C2
  | .jput _ => some 0x0C3
  | .jtrunc _ => some 0x0C4
  | .jdiff _ => some 0x0C5
  | .jintg _ => some 0x0C6
  | .jeval _ => some 0x0C7
  | .jcomp _ => some 0x0C8
  | .jflag _ => some 0x0C9
  | .jclrf _ => some 0x0CA
  | .jscal _ => some 0x0CB
  | .jderv _ => some 0x0CC
  | .tspace _ => some 0x0E0
  | .talloc _ => some 0x0E1
  | .tfree _ => some 0x0E2
  | .tclose _ => some 0x0E3
  | .ldslot _ => some 0x0E4
  | .stslot _ => some 0x0E5
  | .clrslot _ => some 0x0E6
  | .call _ => some 0x0E7
  | .arg _ => some 0x0E8
  | .ret _ => some 0x0E9
  | .commit _ => some 0x0EA
  | .discard _ => some 0x0EB
  | .frmid _ => some 0x0EC
  | .fire _ => some 0x0ED
  | .tref _ => some 0x100
  | .mma _ => some 0x101
  | .mmai _ => some 0x102
  | .mmag _ => some 0x103
  | .mmaj _ => some 0x104
  | .accz _ => some 0x105
  | .accrd _ => some 0x106
  | .accwr _ => some 0x107
  | .tdrn _ => some 0x108
  | .tsplt _ => some 0x109
  | .accps _ => some 0x10A
  | .mmat _ => some 0x10B
  | .ld _ => some 0x120
  | .st _ => some 0x121
  | .ldx _ => some 0x122
  | .stx _ => some 0x123
  | .atom _ => some 0x124
  | .atomr _ => some 0x125
  | .cas _ => some 0x126
  | .ordn _ => some 0x127
  | .ordj _ => some 0x128
  | .ordf _ => some 0x129
  | .fence _ => some 0x12A
  | .tfence _ => some 0x12B
  | .pref _ => some 0x12C
  | .cpy _ => some 0x12D
  | .cpyw _ => some 0x12E
  | .gath _ => some 0x12F
  | .scat _ => some 0x130
  | .reord _ => some 0x131
  | .dqput _ => some 0x132
  | .dqflg _ => some 0x133
  | .mcst _ => some 0x134
  | .lds _ => some 0x135
  | .sts _ => some 0x136
  | .qput _ => some 0x160
  | .qget _ => some 0x161
  | .qeos _ => some 0x162
  | .qstat _ => some 0x163
  | .nqget _ => some 0x164
  | .gpri _ => some 0x165
  | .ginfo _ => some 0x166
  | .bara _ => some 0x167
  | .barw _ => some 0x168
  | .bart _ => some 0x169
  | .coll _ => some 0x16A
  | .launch _ => some 0x16B
  | .trap _ => some 0x180
  | .bkpt _ => some 0x181
  | .csrr _ => some 0x182
  | .csrrViolog _ => some 0x182
  | .csrw _ => some 0x183
  | .csrwViolog _ => some 0x183
  | .csrwFflags _ => some 0x183
  | .csrwJflags _ => some 0x183
  | .progi _ => some 0x184
  | .caps _ => some 0x185
  | .clock _ => some 0x186
  | .pmig _ => some 0x187
  | .pcnt _ => some 0x188
  | .pwbSet _ => some 0x189
  | .pwbClr _ => some 0x189
  | .phashHash _ => some 0x18A
  | .phashShare _ => some 0x18A
  | .phashDrop _ => some 0x18A
  | .bmap _ => some 0x18B
  | .lnkst _ => some 0x18C
  | .svctxHalt _ => some 0x18D
  | .svctxSave _ => some 0x18D
  | .svctxResume _ => some 0x18D
  | .svctxAbandon _ => some 0x18D
  | .svctxDestroy _ => some 0x18D
  | .svctxQuery _ => some 0x18D
  | .rsctx _ => some 0x18E
  | .dump _ => some 0x18F
  | .ctrigStart _ => some 0x190
  | .ctrigStop _ => some 0x190
  | .cmpr _ => some 0x1A0
  | .expd _ => some 0x1A1
  | .topk _ => some 0x1A2
  | .sample _ => some 0x1A3
  | .rng _ => some 0x1A4
  | .smaxt _ => some 0x1A5
  | .argmx _ => some 0x1A6
  | .configWrite _ _ _ => none
  | .configSelect _ _ => none
  | .extend _ => none
  | .regionBegin _ => none
  | .configCommit => none
  | .regionAbort => none
  | .drainreq _ => none
  | .saveovl _ => none
  | .restoreovl _ => none
  | .quota _ _ => none
  | .submissionTail _ => none
  | .launchRecord _ => none
  | .haltop _ => none
  | .saveop _ => none
  | .resumeop _ => none
  | .abandonop _ => none
  | .destroyop _ => none
  | .queryop _ => none
  | .restoreop _ => none
  | .dumpop _ => none
  | .bindop _ => none
  | .bound _ => none
  | .haltLine _ _ => none
  | .stopRecord _ _ => none
  | .stopped _ => none
  | .faultToken _ => none
  | .saveend _ => none
  | .savestop _ => none
  | .restoreend _ => none
  | .restorefail _ => none
  | .dumpend _ => none
  | .reclaimed _ => none
  | .accept _ => none
  | .inject _ _ _ _ => none
  | .class0Pacing _ _ => none
  | .emitResume _ _ => none
  | .refill _ _ => none
  | .spilledMatch _ _ _ => none
  | .firingPromotion _ _ _ => none
  | .activationStart _ => none
  | .deferredRead _ => none
  | .publish _ => none
  | .endMark _ => none
  | .steal _ => none
  | .replicaEvaluation _ _ => none
  | .arrive _ => none
  | .ticketReturn _ => none
  | .delivered _ => none
  | .expire _ => none
  | .collectiveEnd _ => none
  | .memoryResponse _ _ => none
  | .transferUnit _ => none
  | .watchdog _ => none
  | .stalledWriteRetry _ _ => none
  | .blockPass _ => none
  | .remoteAccess _ => none
  | .hostAccess _ => none
  | .blockedTimer _ => none
  | .slipCapture _ => none
  | .slipRelease _ => none
  | .slipWatchdog _ => none
  | .slipReissue _ => none
  | .class0Timeout _ => none
  | .boot => none
  | .trainok _ => none
  | .trainhalf _ => none
  | .trainfail _ => none
  | .laneloss _ => none
  | .errburst _ => none
  | .absent _ => none
  | .flitReplay _ => none
  | .podHalt _ => none
  | .reportRequest => none
  | .clockStepDown => none
  | .clockStepUp => none
  | .criticalTemperature => none
  | .scrub _ _ => none
  | .traceSample _ _ => none
  | .startPacket _ _ => none
  | .stopPacket _ _ => none
  | .commandAppliedReport _ _ => none
  | .identityCertificate _ => none

/-- The node of a node instruction. -/
def nodeOf : Instr → Option Node
  | .pass n => some n
  | .copy n => some n
  | .steer n => some n
  | .merge n => some n
  | .gate n => some n
  | .sync n => some n
  | .const n => some n
  | .sink n => some n
  | .select n => some n
  | .tnext n => some n
  | .retag n => some n
  | .tget n => some n
  | .tset n => some n
  | .split n => some n
  | .join n => some n
  | .bcast n => some n
  | .reduce n => some n
  | .scan n => some n
  | .perm n => some n
  | .eos n => some n
  | .iseos n => some n
  | .errt n => some n
  | .mkerr n => some n
  | .itidx n => some n
  | .conv n => some n
  | .iadd n => some n
  | .isub n => some n
  | .imul n => some n
  | .imulh n => some n
  | .imad n => some n
  | .idiv n => some n
  | .irem n => some n
  | .ineg n => some n
  | .iabs n => some n
  | .imin n => some n
  | .imax n => some n
  | .iadds n => some n
  | .isubs n => some n
  | .icmp n => some n
  | .idot4 n => some n
  | .iclamp n => some n
  | .andw n => some n
  | .orw n => some n
  | .xorw n => some n
  | .notw n => some n
  | .andn n => some n
  | .shl n => some n
  | .shr n => some n
  | .sar n => some n
  | .rotl n => some n
  | .popc n => some n
  | .clz n => some n
  | .ctz n => some n
  | .brev n => some n
  | .bfx n => some n
  | .bfi n => some n
  | .addr n => some n
  | .fadd n => some n
  | .fsub n => some n
  | .fmul n => some n
  | .ffma n => some n
  | .fdiv n => some n
  | .fsqrt n => some n
  | .frcp n => some n
  | .frsq n => some n
  | .fmin n => some n
  | .fmax n => some n
  | .fabs n => some n
  | .fneg n => some n
  | .fcmp n => some n
  | .fclass n => some n
  | .frnd n => some n
  | .fscale n => some n
  | .fgetx n => some n
  | .fdot2 n => some n
  | .fcpsgn n => some n
  | .fclamp n => some n
  | .cvt n => some n
  | .cvti n => some n
  | .cvtf n => some n
  | .gpack n => some n
  | .gunpk n => some n
  | .unp3 n => some n
  | .npack n => some n
  | .nunpk n => some n
  | .movb n => some n
  | .fexp n => some n
  | .fexp2 n => some n
  | .flog n => some n
  | .flog2 n => some n
  | .fsin n => some n
  | .fcos n => some n
  | .ftanh n => some n
  | .fsigm n => some n
  | .ferf n => some n
  | .fatan n => some n
  | .fpown n => some n
  | .jseed n => some n
  | .jlift n => some n
  | .jget n => some n
  | .jput n => some n
  | .jtrunc n => some n
  | .jdiff n => some n
  | .jintg n => some n
  | .jeval n => some n
  | .jcomp n => some n
  | .jflag n => some n
  | .jclrf n => some n
  | .jscal n => some n
  | .jderv n => some n
  | .tspace n => some n
  | .talloc n => some n
  | .tfree n => some n
  | .tclose n => some n
  | .ldslot n => some n
  | .stslot n => some n
  | .clrslot n => some n
  | .call n => some n
  | .arg n => some n
  | .ret n => some n
  | .commit n => some n
  | .discard n => some n
  | .frmid n => some n
  | .fire n => some n
  | .tref n => some n
  | .mma n => some n
  | .mmai n => some n
  | .mmag n => some n
  | .mmaj n => some n
  | .accz n => some n
  | .accrd n => some n
  | .accwr n => some n
  | .tdrn n => some n
  | .tsplt n => some n
  | .accps n => some n
  | .mmat n => some n
  | .ld n => some n
  | .st n => some n
  | .ldx n => some n
  | .stx n => some n
  | .atom n => some n
  | .atomr n => some n
  | .cas n => some n
  | .ordn n => some n
  | .ordj n => some n
  | .ordf n => some n
  | .fence n => some n
  | .tfence n => some n
  | .pref n => some n
  | .cpy n => some n
  | .cpyw n => some n
  | .gath n => some n
  | .scat n => some n
  | .reord n => some n
  | .dqput n => some n
  | .dqflg n => some n
  | .mcst n => some n
  | .lds n => some n
  | .sts n => some n
  | .qput n => some n
  | .qget n => some n
  | .qeos n => some n
  | .qstat n => some n
  | .nqget n => some n
  | .gpri n => some n
  | .ginfo n => some n
  | .bara n => some n
  | .barw n => some n
  | .bart n => some n
  | .coll n => some n
  | .launch n => some n
  | .trap n => some n
  | .bkpt n => some n
  | .csrr n => some n
  | .csrrViolog n => some n
  | .csrw n => some n
  | .csrwViolog n => some n
  | .csrwFflags n => some n
  | .csrwJflags n => some n
  | .progi n => some n
  | .caps n => some n
  | .clock n => some n
  | .pmig n => some n
  | .pcnt n => some n
  | .pwbSet n => some n
  | .pwbClr n => some n
  | .phashHash n => some n
  | .phashShare n => some n
  | .phashDrop n => some n
  | .bmap n => some n
  | .lnkst n => some n
  | .svctxHalt n => some n
  | .svctxSave n => some n
  | .svctxResume n => some n
  | .svctxAbandon n => some n
  | .svctxDestroy n => some n
  | .svctxQuery n => some n
  | .rsctx n => some n
  | .dump n => some n
  | .ctrigStart n => some n
  | .ctrigStop n => some n
  | .cmpr n => some n
  | .expd n => some n
  | .topk n => some n
  | .sample n => some n
  | .rng n => some n
  | .smaxt n => some n
  | .argmx n => some n
  | .configWrite _ _ _ => none
  | .configSelect _ _ => none
  | .extend _ => none
  | .regionBegin _ => none
  | .configCommit => none
  | .regionAbort => none
  | .drainreq _ => none
  | .saveovl _ => none
  | .restoreovl _ => none
  | .quota _ _ => none
  | .submissionTail _ => none
  | .launchRecord _ => none
  | .haltop _ => none
  | .saveop _ => none
  | .resumeop _ => none
  | .abandonop _ => none
  | .destroyop _ => none
  | .queryop _ => none
  | .restoreop _ => none
  | .dumpop _ => none
  | .bindop _ => none
  | .bound _ => none
  | .haltLine _ _ => none
  | .stopRecord _ _ => none
  | .stopped _ => none
  | .faultToken _ => none
  | .saveend _ => none
  | .savestop _ => none
  | .restoreend _ => none
  | .restorefail _ => none
  | .dumpend _ => none
  | .reclaimed _ => none
  | .accept _ => none
  | .inject _ _ _ _ => none
  | .class0Pacing _ _ => none
  | .emitResume _ _ => none
  | .refill _ _ => none
  | .spilledMatch _ _ _ => none
  | .firingPromotion _ _ _ => none
  | .activationStart _ => none
  | .deferredRead _ => none
  | .publish _ => none
  | .endMark _ => none
  | .steal _ => none
  | .replicaEvaluation _ _ => none
  | .arrive _ => none
  | .ticketReturn _ => none
  | .delivered _ => none
  | .expire _ => none
  | .collectiveEnd _ => none
  | .memoryResponse _ _ => none
  | .transferUnit _ => none
  | .watchdog _ => none
  | .stalledWriteRetry _ _ => none
  | .blockPass _ => none
  | .remoteAccess _ => none
  | .hostAccess _ => none
  | .blockedTimer _ => none
  | .slipCapture _ => none
  | .slipRelease _ => none
  | .slipWatchdog _ => none
  | .slipReissue _ => none
  | .class0Timeout _ => none
  | .boot => none
  | .trainok _ => none
  | .trainhalf _ => none
  | .trainfail _ => none
  | .laneloss _ => none
  | .errburst _ => none
  | .absent _ => none
  | .flitReplay _ => none
  | .podHalt _ => none
  | .reportRequest => none
  | .clockStepDown => none
  | .clockStepUp => none
  | .criticalTemperature => none
  | .scrub _ _ => none
  | .traceSample _ _ => none
  | .startPacket _ _ => none
  | .stopPacket _ _ => none
  | .commandAppliedReport _ _ => none
  | .identityCertificate _ => none

/-- Where one opcode is several rows of the table: what MOD or IMM selects the row. -/
def variantOk : Instr → Bool
  | .pass _ => true
  | .copy _ => true
  | .steer _ => true
  | .merge _ => true
  | .gate _ => true
  | .sync _ => true
  | .const _ => true
  | .sink _ => true
  | .select _ => true
  | .tnext _ => true
  | .retag _ => true
  | .tget _ => true
  | .tset _ => true
  | .split _ => true
  | .join _ => true
  | .bcast _ => true
  | .reduce _ => true
  | .scan _ => true
  | .perm _ => true
  | .eos _ => true
  | .iseos _ => true
  | .errt _ => true
  | .mkerr _ => true
  | .itidx _ => true
  | .conv _ => true
  | .iadd _ => true
  | .isub _ => true
  | .imul _ => true
  | .imulh _ => true
  | .imad _ => true
  | .idiv _ => true
  | .irem _ => true
  | .ineg _ => true
  | .iabs _ => true
  | .imin _ => true
  | .imax _ => true
  | .iadds _ => true
  | .isubs _ => true
  | .icmp _ => true
  | .idot4 _ => true
  | .iclamp _ => true
  | .andw _ => true
  | .orw _ => true
  | .xorw _ => true
  | .notw _ => true
  | .andn _ => true
  | .shl _ => true
  | .shr _ => true
  | .sar _ => true
  | .rotl _ => true
  | .popc _ => true
  | .clz _ => true
  | .ctz _ => true
  | .brev _ => true
  | .bfx _ => true
  | .bfi _ => true
  | .addr _ => true
  | .fadd _ => true
  | .fsub _ => true
  | .fmul _ => true
  | .ffma _ => true
  | .fdiv _ => true
  | .fsqrt _ => true
  | .frcp _ => true
  | .frsq _ => true
  | .fmin _ => true
  | .fmax _ => true
  | .fabs _ => true
  | .fneg _ => true
  | .fcmp _ => true
  | .fclass _ => true
  | .frnd _ => true
  | .fscale _ => true
  | .fgetx _ => true
  | .fdot2 _ => true
  | .fcpsgn _ => true
  | .fclamp _ => true
  | .cvt _ => true
  | .cvti _ => true
  | .cvtf _ => true
  | .gpack _ => true
  | .gunpk _ => true
  | .unp3 _ => true
  | .npack _ => true
  | .nunpk _ => true
  | .movb _ => true
  | .fexp _ => true
  | .fexp2 _ => true
  | .flog _ => true
  | .flog2 _ => true
  | .fsin _ => true
  | .fcos _ => true
  | .ftanh _ => true
  | .fsigm _ => true
  | .ferf _ => true
  | .fatan _ => true
  | .fpown _ => true
  | .jseed _ => true
  | .jlift _ => true
  | .jget _ => true
  | .jput _ => true
  | .jtrunc _ => true
  | .jdiff _ => true
  | .jintg _ => true
  | .jeval _ => true
  | .jcomp _ => true
  | .jflag _ => true
  | .jclrf _ => true
  | .jscal _ => true
  | .jderv _ => true
  | .tspace _ => true
  | .talloc _ => true
  | .tfree _ => true
  | .tclose _ => true
  | .ldslot _ => true
  | .stslot _ => true
  | .clrslot _ => true
  | .call _ => true
  | .arg _ => true
  | .ret _ => true
  | .commit _ => true
  | .discard _ => true
  | .frmid _ => true
  | .fire _ => true
  | .tref _ => true
  | .mma _ => true
  | .mmai _ => true
  | .mmag _ => true
  | .mmaj _ => true
  | .accz _ => true
  | .accrd _ => true
  | .accwr _ => true
  | .tdrn _ => true
  | .tsplt _ => true
  | .accps _ => true
  | .mmat _ => true
  | .ld _ => true
  | .st _ => true
  | .ldx _ => true
  | .stx _ => true
  | .atom _ => true
  | .atomr _ => true
  | .cas _ => true
  | .ordn _ => true
  | .ordj _ => true
  | .ordf _ => true
  | .fence _ => true
  | .tfence _ => true
  | .pref _ => true
  | .cpy _ => true
  | .cpyw _ => true
  | .gath _ => true
  | .scat _ => true
  | .reord _ => true
  | .dqput _ => true
  | .dqflg _ => true
  | .mcst _ => true
  | .lds _ => true
  | .sts _ => true
  | .qput _ => true
  | .qget _ => true
  | .qeos _ => true
  | .qstat _ => true
  | .nqget _ => true
  | .gpri _ => true
  | .ginfo _ => true
  | .bara _ => true
  | .barw _ => true
  | .bart _ => true
  | .coll _ => true
  | .launch _ => true
  | .trap _ => true
  | .bkpt _ => true
  | .csrr n => im n != 0x041
  | .csrrViolog n => im n == 0x041
  | .csrw n => im n != 0x041 && im n != 0x012 && im n != 0x014
  | .csrwViolog n => im n == 0x041
  | .csrwFflags n => im n == 0x012
  | .csrwJflags n => im n == 0x014
  | .progi _ => true
  | .caps _ => true
  | .clock _ => true
  | .pmig _ => true
  | .pcnt _ => true
  | .pwbSet n => bitOf (md n) 0
  | .pwbClr n => !bitOf (md n) 0
  | .phashHash n => field (md n) 1 0 == 0
  | .phashShare n => field (md n) 1 0 == 1
  | .phashDrop n => field (md n) 1 0 == 2
  | .bmap _ => true
  | .lnkst _ => true
  | .svctxHalt n => field (md n) 2 0 == 0
  | .svctxSave n => field (md n) 2 0 == 1
  | .svctxResume n => field (md n) 2 0 == 2
  | .svctxAbandon n => field (md n) 2 0 == 3
  | .svctxDestroy n => field (md n) 2 0 == 4
  | .svctxQuery n => field (md n) 2 0 == 5
  | .rsctx _ => true
  | .dump _ => true
  | .ctrigStart n => !bitOf (md n) 3
  | .ctrigStop n => bitOf (md n) 3
  | .cmpr _ => true
  | .expd _ => true
  | .topk _ => true
  | .sample _ => true
  | .rng _ => true
  | .smaxt _ => true
  | .argmx _ => true
  | .configWrite _ _ _ => true
  | .configSelect _ _ => true
  | .extend _ => true
  | .regionBegin _ => true
  | .configCommit => true
  | .regionAbort => true
  | .drainreq _ => true
  | .saveovl _ => true
  | .restoreovl _ => true
  | .quota _ _ => true
  | .submissionTail _ => true
  | .launchRecord _ => true
  | .haltop _ => true
  | .saveop _ => true
  | .resumeop _ => true
  | .abandonop _ => true
  | .destroyop _ => true
  | .queryop _ => true
  | .restoreop _ => true
  | .dumpop _ => true
  | .bindop _ => true
  | .bound _ => true
  | .haltLine _ _ => true
  | .stopRecord _ _ => true
  | .stopped _ => true
  | .faultToken _ => true
  | .saveend _ => true
  | .savestop _ => true
  | .restoreend _ => true
  | .restorefail _ => true
  | .dumpend _ => true
  | .reclaimed _ => true
  | .accept _ => true
  | .inject _ _ _ _ => true
  | .class0Pacing _ _ => true
  | .emitResume _ _ => true
  | .refill _ _ => true
  | .spilledMatch _ _ _ => true
  | .firingPromotion _ _ _ => true
  | .activationStart _ => true
  | .deferredRead _ => true
  | .publish _ => true
  | .endMark _ => true
  | .steal _ => true
  | .replicaEvaluation _ _ => true
  | .arrive _ => true
  | .ticketReturn _ => true
  | .delivered _ => true
  | .expire _ => true
  | .collectiveEnd _ => true
  | .memoryResponse _ _ => true
  | .transferUnit _ => true
  | .watchdog _ => true
  | .stalledWriteRetry _ _ => true
  | .blockPass _ => true
  | .remoteAccess _ => true
  | .hostAccess _ => true
  | .blockedTimer _ => true
  | .slipCapture _ => true
  | .slipRelease _ => true
  | .slipWatchdog _ => true
  | .slipReissue _ => true
  | .class0Timeout _ => true
  | .boot => true
  | .trainok _ => true
  | .trainhalf _ => true
  | .trainfail _ => true
  | .laneloss _ => true
  | .errburst _ => true
  | .absent _ => true
  | .flitReplay _ => true
  | .podHalt _ => true
  | .reportRequest => true
  | .clockStepDown => true
  | .clockStepUp => true
  | .criticalTemperature => true
  | .scrub _ _ => true
  | .traceSample _ _ => true
  | .startPacket _ _ => true
  | .stopPacket _ _ => true
  | .commandAppliedReport _ _ => true
  | .identityCertificate _ => true

/-- Core `n` of the package, counted as in R314. -/
def coreOk (n : Nat) : Bool := n < 160

/-- An element of a core (R14). -/
def elemOk (n elem : Nat) : Bool := coreOk n && elem < 90

/-- An instruction or event of the machine is well formed. -/
def Instr.wf (i : Instr) : Bool :=
  match opcode i, nodeOf i with
  | some o, some n => (checkNode o n).isNone && variantOk i
  | _, _ => match i with
    | .configSelect die core => die.toNat < 8 && core.toNat < 20
    | .configWrite elem _ _ => elem.toNat < 90
    | .quota elem entries => elem.toNat < 90 && entries.toNat ≤ 256
    | .haltLine n e | .stopRecord n e | .class0Pacing n e | .emitResume n e | .refill n e | .traceSample n e
    | .startPacket n e | .stopPacket n e => elemOk n e
    | .inject n e _ dest => elemOk n e && dest < 3
    | .spilledMatch n e slot => elemOk n e && slot < 32
    | .firingPromotion n e _ => elemOk n e
    | .launchRecord die | .dumpend die => die < 8
    | .commandAppliedReport b n => b < 8 && coreOk n
    | .trainok l | .trainhalf l | .trainfail l | .laneloss l | .errburst l | .absent l | .flitReplay l => l.toNat < 50
    | .blockedTimer r => r < 160
    | .slipCapture r | .slipRelease r => r < 168
    | .slipWatchdog r | .slipReissue r => r < 9
    | .expire b | .collectiveEnd b | .delivered b => b.ctx < 64 && b.ident < 16 && b.scope < 5
    | _ => true

end Sys2Proof
end

