-- ==== Sys2Proof/Decode.lean ====
section
/-! DEFINITION. The decoder of node records and configuration command words (R31 to R43, R49), the encoder, and the
reading of an instruction from a number. -/

namespace Sys2Proof

open Sys2Proof.Machine

/-- Why a word is no instruction: the bindery's load error (R30), or a reserved command. -/
inductive DecodeErr where
  | load (e : LoadErr)
  | reservedCommand
  deriving DecidableEq, Repr

/-- The code LANE 11 is reserved (R32). -/
def laneOf : Nat → Option Lane
  | 0 => some .value | 1 => some .jet | 2 => some .tile | _ => none

/-- The code of a lane. -/
def Lane.code : Lane → Nat
  | .value => 0 | .jet => 1 | .tile => 2

/-- TAGOP 111 is reserved (R36). -/
def tagOpOf : Nat → Option TagOp
  | 0 => some .keep | 1 => some .next | 2 => some .iter | 3 => some .enter | 4 => some .exit | 5 => some .callee
  | 6 => some .caller | _ => none

/-- The code of a tag operation. -/
def TagOp.code : TagOp → Nat
  | .keep => 0 | .next => 1 | .iter => 2 | .enter => 3 | .exit => 4 | .callee => 5 | .caller => 6

/-- RM 111 is reserved (R37, R78). -/
def rmOf : Nat → Option Rm
  | 0 => some .ctx | 1 => some .rne | 2 => some .rtz | 3 => some .rup | 4 => some .rdn | 5 => some .rna | 6 => some .sr
  | _ => none

/-- The code of a rounding mode. -/
def Rm.code : Rm → Nat
  | .ctx => 0 | .rne => 1 | .rtz => 2 | .rup => 3 | .rdn => 4 | .rna => 5 | .sr => 6

/-- One 20-bit destination field (R41). -/
def destOf (x : Nat) : Dest := { node := BitVec.ofNat 18 (field x 19 2), port := BitVec.ofNat 2 (field x 1 0) }

/-- The 20-bit field of a destination. -/
def Dest.code (d : Dest) : Nat := d.node.toNat * 4 + d.port.toNat

/-- The used destinations of a linkage word; none where a reserved or an unused field is not zero (R42). -/
def destsOf (lw : Nat) : Option (List Dest) :=
  let d0 := field lw 59 40
  let d1 := field lw 39 20
  let d2 := field lw 19 0
  if field lw 61 60 != 0 then none
  else match field lw 63 62 with
    | 0 => if d0 == 0 && d1 == 0 && d2 == 0 then some [] else none
    | 1 => if d1 == 0 && d2 == 0 then some [destOf d0] else none
    | 2 => if d2 == 0 then some [destOf d0, destOf d1] else none
    | _ => some [destOf d0, destOf d1, destOf d2]

/-- The node of an instruction word and its destinations; none where a field holds a reserved code. -/
def fieldsOf (iw : Nat) (ds : List Dest) : Option Node :=
  match laneOf (field iw 49 48), tagOpOf (field iw 47 45), rmOf (field iw 44 42) with
  | some lane, some tagop, some rm => some {
      fmt := Fmt.ofCode (field iw 54 52), arity := BitVec.ofNat 2 (field iw 51 50), lane := lane, tagop := tagop, rm := rm,
      cf := bitOf iw 41, cls := BitVec.ofNat 2 (field iw 40 39), immp := bitOf iw 38,
      mod := BitVec.ofNat 6 (field iw 37 32), imm := BitVec.ofNat 32 (field iw 31 0), dests := ds }
  | _, _, _ => none

/-- The instruction of an opcode and a node; `csrr`, `csrw`, `pwb`, `phash`, `svctx` and `ctrig` split by IMM or MOD. -/
def ofOpcode (n : Node) : Nat → Option Instr
  | 0x001 => some (.pass n)
  | 0x002 => some (.copy n)
  | 0x003 => some (.steer n)
  | 0x004 => some (.merge n)
  | 0x005 => some (.gate n)
  | 0x006 => some (.sync n)
  | 0x007 => some (.const n)
  | 0x008 => some (.sink n)
  | 0x009 => some (.select n)
  | 0x00A => some (.tnext n)
  | 0x00B => some (.retag n)
  | 0x00C => some (.tget n)
  | 0x00D => some (.tset n)
  | 0x00E => some (.split n)
  | 0x00F => some (.join n)
  | 0x010 => some (.bcast n)
  | 0x011 => some (.reduce n)
  | 0x012 => some (.scan n)
  | 0x013 => some (.perm n)
  | 0x014 => some (.eos n)
  | 0x015 => some (.iseos n)
  | 0x016 => some (.errt n)
  | 0x017 => some (.mkerr n)
  | 0x018 => some (.itidx n)
  | 0x019 => some (.conv n)
  | 0x040 => some (.iadd n)
  | 0x041 => some (.isub n)
  | 0x042 => some (.imul n)
  | 0x043 => some (.imulh n)
  | 0x044 => some (.imad n)
  | 0x045 => some (.idiv n)
  | 0x046 => some (.irem n)
  | 0x047 => some (.ineg n)
  | 0x048 => some (.iabs n)
  | 0x049 => some (.imin n)
  | 0x04A => some (.imax n)
  | 0x04B => some (.iadds n)
  | 0x04C => some (.isubs n)
  | 0x04D => some (.icmp n)
  | 0x04E => some (.idot4 n)
  | 0x04F => some (.iclamp n)
  | 0x050 => some (.andw n)
  | 0x051 => some (.orw n)
  | 0x052 => some (.xorw n)
  | 0x053 => some (.notw n)
  | 0x054 => some (.andn n)
  | 0x055 => some (.shl n)
  | 0x056 => some (.shr n)
  | 0x057 => some (.sar n)
  | 0x058 => some (.rotl n)
  | 0x059 => some (.popc n)
  | 0x05A => some (.clz n)
  | 0x05B => some (.ctz n)
  | 0x05C => some (.brev n)
  | 0x05D => some (.bfx n)
  | 0x05E => some (.bfi n)
  | 0x05F => some (.addr n)
  | 0x070 => some (.fadd n)
  | 0x071 => some (.fsub n)
  | 0x072 => some (.fmul n)
  | 0x073 => some (.ffma n)
  | 0x074 => some (.fdiv n)
  | 0x075 => some (.fsqrt n)
  | 0x076 => some (.frcp n)
  | 0x077 => some (.frsq n)
  | 0x078 => some (.fmin n)
  | 0x079 => some (.fmax n)
  | 0x07A => some (.fabs n)
  | 0x07B => some (.fneg n)
  | 0x07C => some (.fcmp n)
  | 0x07D => some (.fclass n)
  | 0x07E => some (.frnd n)
  | 0x07F => some (.fscale n)
  | 0x080 => some (.fgetx n)
  | 0x081 => some (.fdot2 n)
  | 0x082 => some (.fcpsgn n)
  | 0x083 => some (.fclamp n)
  | 0x0A0 => some (.cvt n)
  | 0x0A1 => some (.cvti n)
  | 0x0A2 => some (.cvtf n)
  | 0x0A3 => some (.gpack n)
  | 0x0A4 => some (.gunpk n)
  | 0x0A5 => some (.unp3 n)
  | 0x0A6 => some (.npack n)
  | 0x0A7 => some (.nunpk n)
  | 0x0A8 => some (.movb n)
  | 0x0B0 => some (.fexp n)
  | 0x0B1 => some (.fexp2 n)
  | 0x0B2 => some (.flog n)
  | 0x0B3 => some (.flog2 n)
  | 0x0B4 => some (.fsin n)
  | 0x0B5 => some (.fcos n)
  | 0x0B6 => some (.ftanh n)
  | 0x0B7 => some (.fsigm n)
  | 0x0B8 => some (.ferf n)
  | 0x0B9 => some (.fatan n)
  | 0x0BA => some (.fpown n)
  | 0x0C0 => some (.jseed n)
  | 0x0C1 => some (.jlift n)
  | 0x0C2 => some (.jget n)
  | 0x0C3 => some (.jput n)
  | 0x0C4 => some (.jtrunc n)
  | 0x0C5 => some (.jdiff n)
  | 0x0C6 => some (.jintg n)
  | 0x0C7 => some (.jeval n)
  | 0x0C8 => some (.jcomp n)
  | 0x0C9 => some (.jflag n)
  | 0x0CA => some (.jclrf n)
  | 0x0CB => some (.jscal n)
  | 0x0CC => some (.jderv n)
  | 0x0E0 => some (.tspace n)
  | 0x0E1 => some (.talloc n)
  | 0x0E2 => some (.tfree n)
  | 0x0E3 => some (.tclose n)
  | 0x0E4 => some (.ldslot n)
  | 0x0E5 => some (.stslot n)
  | 0x0E6 => some (.clrslot n)
  | 0x0E7 => some (.call n)
  | 0x0E8 => some (.arg n)
  | 0x0E9 => some (.ret n)
  | 0x0EA => some (.commit n)
  | 0x0EB => some (.discard n)
  | 0x0EC => some (.frmid n)
  | 0x0ED => some (.fire n)
  | 0x100 => some (.tref n)
  | 0x101 => some (.mma n)
  | 0x102 => some (.mmai n)
  | 0x103 => some (.mmag n)
  | 0x104 => some (.mmaj n)
  | 0x105 => some (.accz n)
  | 0x106 => some (.accrd n)
  | 0x107 => some (.accwr n)
  | 0x108 => some (.tdrn n)
  | 0x109 => some (.tsplt n)
  | 0x10A => some (.accps n)
  | 0x10B => some (.mmat n)
  | 0x120 => some (.ld n)
  | 0x121 => some (.st n)
  | 0x122 => some (.ldx n)
  | 0x123 => some (.stx n)
  | 0x124 => some (.atom n)
  | 0x125 => some (.atomr n)
  | 0x126 => some (.cas n)
  | 0x127 => some (.ordn n)
  | 0x128 => some (.ordj n)
  | 0x129 => some (.ordf n)
  | 0x12A => some (.fence n)
  | 0x12B => some (.tfence n)
  | 0x12C => some (.pref n)
  | 0x12D => some (.cpy n)
  | 0x12E => some (.cpyw n)
  | 0x12F => some (.gath n)
  | 0x130 => some (.scat n)
  | 0x131 => some (.reord n)
  | 0x132 => some (.dqput n)
  | 0x133 => some (.dqflg n)
  | 0x134 => some (.mcst n)
  | 0x135 => some (.lds n)
  | 0x136 => some (.sts n)
  | 0x160 => some (.qput n)
  | 0x161 => some (.qget n)
  | 0x162 => some (.qeos n)
  | 0x163 => some (.qstat n)
  | 0x164 => some (.nqget n)
  | 0x165 => some (.gpri n)
  | 0x166 => some (.ginfo n)
  | 0x167 => some (.bara n)
  | 0x168 => some (.barw n)
  | 0x169 => some (.bart n)
  | 0x16A => some (.coll n)
  | 0x16B => some (.launch n)
  | 0x180 => some (.trap n)
  | 0x181 => some (.bkpt n)
  | 0x182 => some (if im n = 0x041 then .csrrViolog n else .csrr n)
  | 0x183 => some (if im n = 0x041 then .csrwViolog n else if im n = 0x012 then .csrwFflags n else if im n = 0x014 then .csrwJflags n else .csrw n)
  | 0x184 => some (.progi n)
  | 0x185 => some (.caps n)
  | 0x186 => some (.clock n)
  | 0x187 => some (.pmig n)
  | 0x188 => some (.pcnt n)
  | 0x189 => some (if bitOf (md n) 0 then .pwbSet n else .pwbClr n)
  | 0x18A => some (if field (md n) 1 0 = 0 then .phashHash n else if field (md n) 1 0 = 1 then .phashShare n else .phashDrop n)
  | 0x18B => some (.bmap n)
  | 0x18C => some (.lnkst n)
  | 0x18D => some (match field (md n) 2 0 with | 0 => .svctxHalt n | 1 => .svctxSave n | 2 => .svctxResume n | 3 => .svctxAbandon n | 4 => .svctxDestroy n | _ => .svctxQuery n)
  | 0x18E => some (.rsctx n)
  | 0x18F => some (.dump n)
  | 0x190 => some (if bitOf (md n) 3 then .ctrigStop n else .ctrigStart n)
  | 0x1A0 => some (.cmpr n)
  | 0x1A1 => some (.expd n)
  | 0x1A2 => some (.topk n)
  | 0x1A3 => some (.sample n)
  | 0x1A4 => some (.rng n)
  | 0x1A5 => some (.smaxt n)
  | 0x1A6 => some (.argmx n)
  | _ => none

/-- The instruction of a node record (R31 to R43), or the first load error it shows alone, in the order of R30. -/
def decodeNode (iw lw : Nat) : Except DecodeErr Instr :=
  match rowOf (field iw 63 55) with
  | none => .error (.load .opcode)
  | some _ => match fieldsOf iw ((destsOf lw).getD []) with
    | none => .error (.load .field)
    | some n => match checkNode (field iw 63 55) n with
      | some e => .error (.load e)
      | none => match destsOf lw, ofOpcode n (field iw 63 55) with
        | some _, some i => .ok i
        | none, _ => .error (.load .link)
        | _, none => .error (.load .opcode)

/-- The instruction of a configuration command word (R49); reserved bits are ignored on read (R4), and CONTROL commands 7
to 15 are no instruction. -/
def decodeWord (w : Nat) : Except DecodeErr Instr :=
  let ctx := BitVec.ofNat 6 (field w 25 20)
  match field w 31 30 with
  | 0 => .ok (.configWrite (BitVec.ofNat 7 (field w 29 23)) (BitVec.ofNat 7 (field w 22 16)) (BitVec.ofNat 16 (field w 15 0)))
  | 1 => .ok (.configSelect (BitVec.ofNat 4 (field w 29 26)) (BitVec.ofNat 5 (field w 25 21)))
  | 2 => match field w 29 26 with
    | 0 => .ok (.regionBegin ctx)
    | 1 => .ok .configCommit
    | 2 => .ok .regionAbort
    | 3 => .ok (.drainreq ctx)
    | 4 => .ok (.saveovl ctx)
    | 5 => .ok (.restoreovl ctx)
    | 6 => .ok (.quota (BitVec.ofNat 7 (field w 25 19)) (BitVec.ofNat 9 (field w 8 0)))
    | _ => .error .reservedCommand
  | _ => .ok (.extend (BitVec.ofNat 16 (field w 15 0)))

/-- What an instruction is written as: a node record of two 64-bit words, or one 32-bit command word. -/
inductive Code where
  | node (iw lw : Word)
  | word (w : BitVec 32)
  deriving DecidableEq, Repr

/-- The instruction of a code. -/
def decode : Code → Except DecodeErr Instr
  | .node iw lw => decodeNode iw.toNat lw.toNat
  | .word w => decodeWord w.toNat

/-- The instruction word of an opcode and a node (R32). -/
def encodeIw (o : Nat) (n : Node) : Nat :=
  o * 2 ^ 55 + n.fmt.code * 2 ^ 52 + n.arity.toNat * 2 ^ 50 + n.lane.code * 2 ^ 48 + n.tagop.code * 2 ^ 45 +
  n.rm.code * 2 ^ 42 + n.cf.toNat * 2 ^ 41 + n.cls.toNat * 2 ^ 39 + n.immp.toNat * 2 ^ 38 + n.mod.toNat * 2 ^ 32 + n.imm.toNat

/-- The linkage word of a node's destinations (R41); a node has at most three. -/
def encodeLw : List Dest → Nat
  | [] => 0
  | [a] => 1 * 2 ^ 62 + a.code * 2 ^ 40
  | [a, b] => 2 * 2 ^ 62 + a.code * 2 ^ 40 + b.code * 2 ^ 20
  | a :: b :: c :: _ => 3 * 2 ^ 62 + a.code * 2 ^ 40 + b.code * 2 ^ 20 + c.code

/-- A CONTROL word (R49). -/
def controlWord (command arg : Nat) : Code := .word (BitVec.ofNat 32 (2 * 2 ^ 30 + command * 2 ^ 26 + arg))

/-- The code of an instruction; none for the events, which nothing encodes. -/
def encode (i : Instr) : Option Code :=
  match opcode i, nodeOf i with
  | some o, some n => some (.node (BitVec.ofNat 64 (encodeIw o n)) (BitVec.ofNat 64 (encodeLw n.dests)))
  | _, _ => match i with
    | .configWrite e f v => some (.word (BitVec.ofNat 32 (e.toNat * 2 ^ 23 + f.toNat * 2 ^ 16 + v.toNat)))
    | .configSelect d c => some (.word (BitVec.ofNat 32 (1 * 2 ^ 30 + d.toNat * 2 ^ 26 + c.toNat * 2 ^ 21)))
    | .extend h => some (.word (BitVec.ofNat 32 (3 * 2 ^ 30 + h.toNat)))
    | .regionBegin c => some (controlWord 0 (c.toNat * 2 ^ 20))
    | .configCommit => some (controlWord 1 0)
    | .regionAbort => some (controlWord 2 0)
    | .drainreq c => some (controlWord 3 (c.toNat * 2 ^ 20))
    | .saveovl c => some (controlWord 4 (c.toNat * 2 ^ 20))
    | .restoreovl c => some (controlWord 5 (c.toNat * 2 ^ 20))
    | .quota e n => some (controlWord 6 (e.toNat * 2 ^ 19 + n.toNat))
    | _ => none

/-- The instruction that the bits `w` are: a command word where it has at most 32 bits, else a node record whose
instruction word is bits 63..0 and whose linkage word is bits 127..64. -/
def decodeTableWord (nbits w : Nat) : Option Instr :=
  match (if nbits ≤ 32 then decodeWord (field w 31 0) else decodeNode (field w 63 0) (field w 127 64)) with
  | .ok i => some i
  | .error _ => none

end Sys2Proof
end

