-- ==== Sys2Proof/Config.lean ====
section
/-! DEFINITION. What the manual leaves open as uninterpreted constants, and the fixed values that one Etnis package has. -/

namespace Sys2Proof

/-- The order of independent steps: which of `n` possibilities comes next, for the `k`-th choice (log 4). No body: every
interleaving is possible. -/
opaque Config.choose (k n : Nat) : Nat

/-- A payload byte that an instruction reads beyond its token's payload (log 11). -/
opaque Config.freeByte (k : Nat) : Byte

/-- A special-function bit pattern whose rounding stays undecided at the last working precision (log 9), as a function of
the function's number, the format, the rounding mode, the draw and the operand patterns. -/
opaque Config.freeSpecial (fn fmt rm draw a b : Nat) : Nat

/-- Where the bindery puts a node of a placement key (R209): a wish, taken where it is legal and free (log 7). -/
opaque Config.placeHint (key node : Nat) : Nat

/-- Whether a boot stage succeeds where that rests on what flash holds or, of stage 6, on the training of the links (R451, log 10). -/
opaque Config.stageOk (stage : Nat) : Bool

/-- What a configuration blob holds (R452): the defect map with its epoch, the blocked-timer limit (R404), the POD signal routes
(R413), each a member package with the Strand port of its signals (log 56), the power limit in W, the clock ceiling in MHz, the part
identity and the address of the report area; and the hash of its bytes. -/
structure Blob where
  epoch   : BitVec 32
  defects : List (Nat × Nat)
  limit   : Nat
  routes  : List (Nat × Nat)
  power   : Nat
  ceiling : Nat
  ident   : List Byte
  report  : Nat
  hash    : List Byte
  deriving DecidableEq, Repr, Inhabited

/-- The configuration blob in flash (R452, log 10). -/
opaque Config.blob : Blob

/-- What flash holds of the identity at power-on (R453, log 10): the wrapped key, none before the first boot, and the certificate. -/
structure Flash where
  wrapped : Option (List Byte)
  cert    : List Byte
  deriving DecidableEq, Repr, Inhabited

/-- Flash at power-on (R453, log 10). -/
opaque Config.flash : Flash

/-- The identity key that a first boot creates, wrapped (R453, log 10). -/
opaque Config.newKey : List Byte

/-- The certificate request for an identity key (R453, log 10), of which the report area takes 184 bytes. -/
opaque Config.certRequest (wrapped : List Byte) : List Byte

/-- SHA-384 of the firmware images in flash (R455, log 10). -/
opaque Config.firmwareHash : List Byte

/-- Signature bytes of the security controller over a message (R455, log 10). -/
opaque Config.signature (message : List Byte) : List Byte

/-- The package at the far end of a Strand port (R415), which the pod's wiring fixes. -/
opaque Config.strandFar (port : Nat) : BitVec 11

/-- A number that tells this power-on of this package from any other that writes images (R364, log 8). -/
opaque Config.stamp : Nat

/-- FEAT of capability 0x0004, which the manual does not give (log 2). -/
opaque Config.gatherFeat : BitVec 16

/-- The following word of capability 0x0004, which the manual does not give (log 2). -/
opaque Config.gatherWord : Word

namespace Config

/-- CAPBASE (R19): any 8-aligned address with bits [63:56] zero; the manual gives no value (log 2). -/
def capBase : Nat := 0x00FF_FFFF_FFFF_0000

/-- The capability list (R20): identifier, FEAT and the following word of each entry, VERSION 1 and LENGTH 1. -/
def caps : List (Nat × Nat × Nat) :=
  [ (0x0001, 0x0000, 0x0000_0002_1018_1408), (0x0002, 0x001F, 0x2807), (0x0003, 0x0FFF, 0x000A_1020),
    (0x0004, gatherFeat.toNat, gatherWord.toNat), (0x0005, 0x003F, 0x1840), (0x0006, 0x000F, 0x1014), (0x0007, 0x001F, 0x0001_0010),
    (0x0008, 0x000F, 0x0008_4004), (0x0009, 0x001F, 0x4010), (0x000A, 0x003F, 0x4008_0060), (0x000B, 0x0007, 0x0B00_C810),
    (0x000C, 0x0007, 0x0002_0002), (0x000D, 0x001F, 0x00FF_3002), (0x000E, 0x000F, 0x300C) ]
end Config

end Sys2Proof
end

