-- ==== Sys2Proof/Machine/State.lean ====
section
/-! DEFINITION. The state of one Etnis package as plain data: tokens, elements, cores, frames, long operations, memory,
contexts, groups, barriers, links and platform; the machine right after reset; and the reasons a step can stop. -/

namespace Sys2Proof.Machine

/-- A tag (R46, bits [63:16] of a token header). -/
structure Tag where
  ctx   : BitVec 6 := 0
  die   : BitVec 4 := 0
  frame : BitVec 14 := 0
  space : BitVec 8 := 0
  iter  : BitVec 16 := 0
  deriving DecidableEq, Repr

/-- A token (R46, R47): header and payload. `deps` are the writes that its chain of firings has issued and that are not
yet visible everywhere (R290). `span` is, of an error token, how many iterations beyond its own it replaced (R89, R93, log 44):
it names what R421 to R423 and R279 say of the iterations that an error token stands for. Both are the model's own fields. -/
structure Tok where
  tag  : Tag := {}
  fmt  : Fmt := .I
  run  : BitVec 5 := 0
  port : BitVec 2 := 0
  cls  : BitVec 2 := 3
  jet  : BitVec 3 := 0
  eos  : Bool := false
  data : List Byte := []
  deps : List Nat := []
  span : Nat := 0
  deriving DecidableEq, Repr

/-- One instruction slot of an element: the fields 0x00 to 0x13 of R50. -/
structure Slot where
  iw     : Word := 0
  lw     : Word := 0
  dest0  : BitVec 32 := 0
  dest1  : BitVec 32 := 0
  dest2  : BitVec 32 := 0
  nodeid : BitVec 18 := 0
  grank  : BitVec 18 := 0
  sfmt   : BitVec 8 := 0
  conv0  : BitVec 32 := 0
  conv1  : BitVec 32 := 0
  conv2  : BitVec 32 := 0
  deriving DecidableEq, Repr

/-- A WAITING or SPILLED token of an element (R104, R113), with its slot and its acceptance number. -/
structure Entry where
  slot    : Nat
  spilled : Bool
  seq     : Nat
  tok     : Tok
  deriving DecidableEq, Repr

/-- What a firing captures when it fires (R168, R352). -/
structure Capture where
  rm    : Rm := .rne
  exc   : BitVec 16 := 0xF955
  jtrap : BitVec 40 := 0x1F
  cap   : BitVec 3 := 0
  key   : Word := 0
  deriving DecidableEq, Repr

/-- What is kept of a firing that waits whole for its Emits (R8, R109): its captures, the class and destination of the first
that waits, and the entries that its Emits take. -/
structure Held where
  cap  : Capture
  cls  : Nat
  dest : Nat
  need : Nat := 1
  deriving DecidableEq, Repr

/-- A MATCHED set (R100): the pieces of the matched range, one per port, or the tokens of a group or block in order. `part`
is the group or block number of the rules that gather, `done` that the effect before a wait has been had (R353), `img` the
slot's image from the moment the firing starts (R51), `held` what a firing keeps that waits with its Emit, `counted` that its
start was counted (R444), `seq` the acceptance number of the oldest of its entries (R442). The model's own record of what R113 calls MATCHED. -/
structure Firing where
  id     : Nat := 0
  n      : Nat := 0
  elem   : Nat := 0
  slot   : Nat := 0
  tag    : Tag := {}
  len    : Nat := 1
  inputs : List Tok := []
  ready  : Nat := 0
  promo  : Nat := 0
  part   : Nat := 0
  img    : Slot := {}
  held   : Option Held := none
  counted : Bool := false
  seq    : Nat := 0
  deriving DecidableEq, Repr

/-- What a firing has done that is not visible before its last Emit (R8): sticky bits of its context, and slots of its frame;
and the concordance entries that its matched tokens hold until then (R113). -/
structure Late where
  ff    : BitVec 8
  jf    : BitVec 40
  tag   : Tag
  slots : List (Nat × Option Word)
  hold  : Nat := 0
  deriving DecidableEq, Repr

/-- An entry of an output buffer (R108): the token and the destinations that have not taken their copy: index, route word
(laid out as DEST0) and class; `sent` are those injected; the slot that emitted it; on the last Emit of a firing, while it
waits, what becomes visible with it. -/
structure OutEntry where
  id    : Nat
  slot  : Nat := 0
  tok   : Tok
  dests : List (Nat × Nat × Nat)
  sent  : List Nat
  late  : Option Late := none
  deriving DecidableEq, Repr

/-- A stop record (R354), its eight words. -/
abbrev StopRec := List Word

/-- The running fold of a SCAN group (R127): slot, key, group, next iteration, accumulator, jet order, first error, the
iterations that an error token replaced from the next one on, and what the tokens folded so far depend on (R290). -/
structure Fold where
  slot  : Nat
  tag   : Tag
  group : Nat
  next  : Nat
  acc   : List Nat
  jet   : Nat
  err   : Option (List Byte)
  skip  : Nat := 0
  deps  : List Nat := []
  deriving DecidableEq, Repr

/-- The states of a tag-space instance (R216). -/
inductive SpaceState where
  | open | full | closing | closed
  deriving DecidableEq, Repr

/-- A tag-space instance record (R204); `waits` are the operations whose grant waits, in order, `closer` the TCLOSE that
waits for CLOSED. -/
structure Inst where
  num    : Nat
  space  : Nat
  parent : Option (Nat × Nat)
  window : Nat
  next   : BitVec 16 := 0
  live   : List (BitVec 16) := []
  grants : Nat := 0
  state  : SpaceState := .open
  opened : Nat := 0
  waits  : List Nat := []
  closer : Option Nat := none
  deriving DecidableEq, Repr

/-- A frame in use (R196, R200 to R208): header, instance records, slots with presence, and for a callee frame the return
tag (frame, space, iteration). `root` is the activation's frame; `counts` is, per input record, the elements delivered. -/
structure Frame where
  owner  : InstId
  kidx   : Nat
  size   : Nat
  jord   : BitVec 3 := 0
  actno  : BitVec 16 := 0
  bookmark : Nat := 0
  slots  : Assoc (Option Word) := []
  insts  : List Inst := []
  ret    : Option (Nat × Nat × Nat) := none
  root   : Nat := 0
  counts : Assoc Nat := []
  armed  : Option (BitVec 16) := none
  ended  : Bool := false
  ends   : List Nat := []
  deriving DecidableEq, Repr

/-- The states of an accumulator block (R237). -/
inductive AccState where
  | allocated | accumulating | complete | draining | drained | poisoned
  deriving DecidableEq, Repr

/-- An accumulator block of 32×32 elements with its mark record (R225, R227); `drains` are the TDRNs that read it. -/
structure AccBlock where
  vals   : Assoc Word := []
  state  : AccState := .allocated
  marks  : BitVec 32 := 0
  cause  : BitVec 8 := 0
  drains : List Nat := []
  deriving DecidableEq, Repr

/-- One core: its owner and partition word (R57, R346), frame store, accumulator store, staged configuration and the elements with a
staged command that is illegal (R50, R51), its shift path (R362): 1 after SAVEOVL, 2 after RESTOREOVL, the cycle of its last COMMIT (R442), and the slots that it has held
(32 per element), each with its context (R420). -/
structure Core where
  owner  : Option (BitVec 6) := none
  partw  : BitVec 32 := 0
  fsize  : Nat := 0
  fcount : Nat := 0
  frames : Assoc (Option Frame) := []
  acc    : Assoc AccBlock := []
  staged : List (Nat × Nat × Nat × Nat) := []
  bad    : List Nat := []
  shift  : Nat := 0
  applied : Option Nat := none
  had    : List (Nat × Nat) := []
  deriving DecidableEq, Repr

/-- A copy of a token on the network (R48, R403): route to core, element and slot, the output-buffer entry it came from,
its injection cycle, the router it stands at (a core's, or 160 and up a die's edge), whether it travels on the returns lane (R405),
whether its blocked-timer has reached the limit (R404) and when, whether its class-0 timeout was taken (R409), the core it
was injected at, the router it came from, which names its input, and since when it stands at the head of that input (R404). -/
structure Packet where
  id     : Nat
  tok    : Tok
  n      : Nat
  elem   : Nat
  slot   : Nat
  src    : Option (Nat × Nat × Nat × Nat)
  since  : Nat
  router : Nat
  lane   : Bool
  waits  : Bool := false
  late   : Bool := false
  waitsAt : Nat := 0
  home   : Nat := 0
  input  : Nat := 0
  headAt : Option Nat := none
  deriving DecidableEq, Repr

/-- Kinds of access (R284): an RMW carries the operation of R261, 9 being compare and swap. -/
inductive AccKind where
  | read | write | rmw (op : Nat)
  deriving DecidableEq, Repr

/-- Outcomes of an access (R259, R387); a failure holds its cause (R92), 0 standing for a missing translation. -/
inductive AccState1 where
  | pending | stalled | done | failed (cause : Nat)
  deriving DecidableEq, Repr

/-- One single-copy-atomic access of a firing (R254, R284): element and coefficient index, address, bytes, and the cycle of
its issue (R356). -/
structure Access where
  e     : Nat
  j     : Nat
  spm   : Bool
  va    : Nat
  size  : Nat
  kind  : AccKind
  data  : List Byte := []
  cmp   : List Byte := []
  st    : AccState1 := .pending
  res   : List Byte := []
  since : Nat := 0
  deriving DecidableEq, Repr

/-- A page-table entry that a walk has read and that may be used again (R294, R383): context, level, the virtual address
bits above that level, the entry's address and value, and the cores that have discarded it, each with the number from which
on operations may no longer use it. -/
structure TlbEntry where
  ctx  : Nat
  lvl  : Nat
  page : Nat
  addr : Nat
  pte  : Word
  gone : List (Nat × Nat) := []
  deriving DecidableEq, Repr

/-- A translation that an access keeps until it is performed (R294, R428): its address, whether it writes, the increment that
must be visible before it is performed, 0 where there is none, and the leaf. -/
structure Pin where
  va    : Nat
  write : Bool
  own   : Nat
  e     : TlbEntry
  deriving DecidableEq, Repr

/-- An output that waits for what it certifies (R289): the writes of its operation must be visible on paths (a mask, bit n
for Pn) at a scope. -/
structure PendOut where
  out   : Nat
  tok   : Tok
  paths : Nat
  scope : Nat
  deriving DecidableEq, Repr

/-- The transfer states (R267). -/
inductive XState where
  | issued | active | stopped | complete | failed
  deriving DecidableEq, Repr

/-- What a long operation is: the firings that outlast their step. -/
inductive OpKind where
  | mem | fence | slotRead | grant | close | nqget | barArrive | barWait | coll | select | xfer | drain | matrix
  | ctxOp | launch | record | pmig | pwb | dq | counter | notify | page | image | remote
  deriving DecidableEq, Repr

/-- A long operation (R253, R266, R353, R358): the firing it came from with its image and captures, its state, its
bookmark, its accesses, the performed and the failed elements of its current unit (R260), the leaves it has counted (R382) and the
translations it keeps,
the first failure (index, cause, address), an address without translation, the outputs that wait, the exceptions that its last
Emit makes visible (R8, R435), numbers whose meaning its kind gives, and the numbers that it had in images it was restored from. The model's own record of what
the manual calls a firing that waits, an outstanding firing or a transfer. -/
structure Op where
  id     : Nat
  kind   : OpKind
  fir    : Firing
  instr  : Node
  opc    : Nat
  cap    : Capture
  st     : XState := .issued
  book   : Nat := 0
  accs   : List Access := []
  mask   : List Nat := []
  leaves : List Nat := []
  pins   : List Pin := []
  desc   : List Byte := []
  nums   : List Nat := []
  vals   : List Nat := []
  pairs  : List (Nat × Nat) := []
  outs   : List PendOut := []
  flags  : Nat := 0
  excs   : Nat := 0
  deps   : List Nat := []
  since  : Nat := 0
  fail   : Option (Nat × Nat × Nat) := none
  bad    : List Nat := []
  miss   : Option Nat := none
  was    : List Nat := []
  deriving DecidableEq, Repr

/-- An element (R14, R50, R104, R108): configuration, concordance, output buffer, counters, stop record, and the cause of the
halting fault raised here since the context last ran, with the operation that ended by it and whether that had been issued before (R354, R358). `armed` is the counter record that counts here with its two events
and the start that armed it (R448), `firedAt` the cycle of the last firing with what a trace record says of it, `busy` the cycle at which
that firing no longer occupies the element (R177), `traced` the trace records on their way to the ring of a counter record (R446),
`started` by slot the latest firing that started (R354), `notes` by REORD slot and key the iterations that carried EOS (R279). -/
structure Elem where
  slots   : Assoc Slot := []
  eclass  : BitVec 2 := 0
  equota  : BitVec 9 := 0
  sshare  : BitVec 32 := 0
  ctrsel0 : BitVec 16 := 0
  ctrsel1 : BitVec 16 := 0
  slotsel : BitVec 5 := 0
  conc    : List Entry := []
  ready   : List Firing := []
  out     : List OutEntry := []
  emitq   : List OutEntry := []
  lastC0  : Option Nat := none
  closed  : List (Nat × Tag × Nat) := []
  folds   : List Fold := []
  reord   : List (Nat × Tag × Nat × Nat) := []
  notes   : List (Nat × Tag × Nat) := []
  halted  : Option Nat := none
  stop    : Option StopRec := none
  ctr0    : BitVec 48 := 0
  ctr1    : BitVec 48 := 0
  armed   : Option (Nat × Nat × Nat × Nat) := none
  firedAt : Option (Nat × Word × Word) := none
  busy    : Nat := 0
  traced  : List (Nat × Word × Word × Word) := []
  cause   : Nat := 0
  culprit : Option Op := none
  async   : Bool := false
  started : Assoc Nat := []
  deriving DecidableEq, Repr

/-- Who issued an access (R284). -/
inductive Issuer where
  | core (n : Nat) | host | remote (pkg : Nat)
  deriving DecidableEq, Repr

/-- A performed write that is not yet visible everywhere (R285): cells, issuer, path, the level reached on each path
(0 none, 1 CORE, 2 QUAD, 3 DIE, 4 PKG), the paths on which SYS and POD are reached (masks), whether an RMW read the write
before it, whether a read has returned it, whether the companion processor does not order it among its writes (R297), and the cores for which a TFENCE has passed it (R294), with that TFENCE's number;
`own` is the operation it belongs to, `also` the numbers that restores of an image have
given that operation besides. The list of them stands in coherence order (R287). -/
structure Write where
  id     : Nat
  own    : Nat
  addr   : Nat
  data   : List Byte
  issuer : Issuer
  path   : Nat
  levels : List Nat
  sys    : Nat := 0
  pod    : Nat := 0
  rmw    : Bool := false
  read   : Bool := false
  loose  : Bool := false
  fenced : List (Nat × Nat) := []
  also   : List Nat := []
  deriving DecidableEq, Repr

/-- The context registers that software reads and writes (R54), at their reset values. -/
structure Csrs where
  partw    : BitVec 32 := 0
  rmode    : BitVec 3 := 1
  excmode  : BitVec 16 := 0xF955
  fflags   : BitVec 8 := 0
  jord     : BitVec 3 := 0
  jflags   : BitVec 40 := 0
  jtrap    : BitVec 40 := 0x1F
  rngkey   : Word := 0
  cntthr   : BitVec 16 := 256
  nqbase   : Word := 0
  dumpdesc : Word := 0
  savedesc : Word := 0
  deriving DecidableEq, Repr

/-- The fault record (R357); `arrived`, `folio`, `rank`, `serial` order faults that reach the root in one cycle (R355). -/
structure FaultRec where
  cause    : BitVec 16 := 0
  count    : BitVec 32 := 0
  tag      : Tag := {}
  node     : BitVec 18 := 0
  kidx     : BitVec 12 := 0
  die      : BitVec 4 := 0
  core     : BitVec 5 := 0
  elem     : BitVec 7 := 0
  async    : Bool := false
  addr     : Word := 0
  imm      : BitVec 32 := 0
  bookmark : BitVec 32 := 0
  cycle    : Word := 0
  code     : BitVec 16 := 0
  arrived  : Nat := 0
  folio    : List Byte := []
  rank     : Nat := 0
  serial   : Nat := 0
  deriving DecidableEq, Repr

/-- A fault token on its way up the fault tree (R355): level 0 element, 1 core, 2 quad, 3 die. -/
structure FaultTok where
  id    : Nat
  ctx   : BitVec 6
  level : Nat
  recd  : FaultRec
  deriving DecidableEq, Repr

/-- Context states (R350), in the order of their codes. -/
inductive CState where
  | free | binding | running | halting | halted | saving | saved | savefail | restoring | dumping | destroyed
  deriving DecidableEq, Repr

/-- The operations of context commands (R347), in the order of their codes. -/
inductive COp where
  | halt | save | resume | abandon | destroy | query | restore | dump | bind
  deriving DecidableEq, Repr

/-- An operation on a context (R347, R351, R375): its argument, RUN, who waits (a completion record's address, or the
operation of an SVCTX, RSCTX or DUMP firing), and the issuing context. -/
structure CtxOp where
  op     : COp
  arg    : Word := 0
  run    : Bool := false
  compl  : Option Word := none
  waiter : Option Nat := none
  source : Option (BitVec 6) := none
  deriving DecidableEq, Repr

/-- A save, restore or dump in progress (R361 to R368). Of a save or restore: descriptor address, image, the address of its first byte, bytes written, the extent that takes more with its units used, whether an access
failed, the operation that writes it, RUN, the state before it. Of a dump: the state before it, the state to go back to, its
start, FAULTST at the start, and the halting faults since. -/
structure Image where
  desc   : Word := 0
  bytes  : List Byte := []
  head   : Nat := 0
  wmark  : Nat := 0
  extent : Nat := 0
  used   : Nat := 0
  failed : Bool := false
  op     : Nat := 0
  run    : Bool := false
  was    : CState := .halted
  dumped : CState := .halted
  prior  : CState := .halted
  start  : Nat := 0
  faultst : Nat := 0
  second : Nat := 0
  deriving DecidableEq, Repr

/-- A context (R346): state, bindings, CSRs, violation log (SPM, address), fault record, halt line, operations. -/
structure Context where
  state   : CState := .free
  sup     : Bool := false
  ptroot  : BitVec 52 := 0
  pod     : Bool := false
  job     : BitVec 16 := 0
  csrs    : Csrs := {}
  violog  : List (Bool × Nat) := []
  frec    : FaultRec := {}
  halt    : Option Nat := none
  byFault : Bool := false
  holding : Option CtxOp := none
  queue   : List CtxOp := []
  image   : Option Image := none
  deriving DecidableEq, Repr

/-- A space record (R27). -/
structure SpaceRec where
  wlog   : Nat
  parent : Option Nat
  func   : Bool
  deriving DecidableEq, Repr

/-- A port record (R26). -/
structure PortRec where
  out  : Bool
  rate : Nat
  pipe : Nat
  node : Nat
  port : Nat
  deriving DecidableEq, Repr

/-- A kernel of a group: its record (R24 to R27), its entry of the kernel launch table (R314), the enabled replicas
with the cycle of the last evaluation and whether OCC has changed since (R320), and what R200, R208 and R214 compute. -/
structure Kernel where
  first    : Nat
  count    : Nat
  framesz  : Nat
  spaces   : List SpaceRec
  ports    : List PortRec
  exc      : BitVec 16
  excv     : Bool
  cls      : BitVec 2
  jord     : BitVec 3
  unchecked : Bool
  main     : Nat
  aff      : Bool
  lowat    : Nat
  hiwat    : Nat
  repl     : Nat
  enabled  : List Nat := []
  evalAt   : Option Nat := none
  footprint : Nat := 0
  callees  : Nat := 0
  maxinst  : Nat := 0
  dirty    : Bool := false
  deriving DecidableEq, Repr

/-- Kernel-instance states (R215). -/
inductive KState where
  | loaded | placed | resident | firing | parked | draining | drained | evicted
  deriving DecidableEq, Repr

/-- A kernel instance (R195, R215): core, placed nodes (node, element, slot), activation limit, pending FIRE requests
(node, port, token), live activation frames, the end marks already sent, the pipes whose bare EOS came, after DRAINREQ the
last entry of each input queue, and the operations its firings issued. -/
structure KInst where
  kernel  : Nat
  replica : Nat
  n       : Nat
  state   : KState := .loaded
  nodes   : List (Nat × Nat × Nat) := []
  limit   : Nat := 1
  fires   : List (Nat × Nat × Tok) := []
  live    : List Nat := []
  actno   : BitVec 16 := 0
  started : Bool := false
  marked  : List Nat := []
  gotEos  : List Nat := []
  cut     : Bool := false
  lastCut : List (Nat × Nat) := []
  issued  : List Nat := []
  deriving DecidableEq, Repr

/-- Pipe states (R306). -/
inductive PState where
  | unbound | empty | open | full | eosSeen | closed
  deriving DecidableEq, Repr

/-- A pipe entry (R302, R318): token, publication number, assigned replica and the cycle of assignment. -/
structure PEntry where
  seq     : Nat
  tok     : Tok
  replica : Nat
  since   : Nat
  deriving DecidableEq, Repr

/-- A staged token (R302): instance (kernel, replica), activation frame, token, reservation number. -/
structure Staged where
  kernel  : Nat
  replica : Nat
  frame   : Nat
  seq     : Nat
  tok     : Tok
  deriving DecidableEq, Repr

/-- A pipe of a group (R300 to R306): entries, staged tokens, the QPUT firings that wait on it in the order of their requests,
the QGET firings that do with their replicas, and what the end marks that came depend on (R290). -/
structure Pipe where
  state   : PState := .unbound
  cap     : Nat := 0
  prod    : Nat := 0
  home    : Nat := 0
  entries : List PEntry := []
  staged  : List Staged := []
  waits   : List Nat := []
  takes   : List (Nat × Nat) := []
  deps    : List Nat := []
  deriving DecidableEq, Repr

/-- Group states (R325), in the order of the codes of R328. -/
inductive GState where
  | declared | placing | resident | running | parked | draining | drained | shelved
  deriving DecidableEq, Repr

/-- A group (R314, R325): the die of its bindery, its launch serial number there and package-wide, its record, the folio's
digest, constant pool and graph order, its kernels, instances and pipes, who launched it, the regions that have not committed, and the
placement keys of its instances (R209). -/
structure Group where
  serial  : Nat
  die     : Nat
  number  : BitVec 32
  ctx     : BitVec 6
  words   : List Word
  state   : GState := .declared
  saved   : GState := .declared
  base    : BitVec 2
  cls     : BitVec 2
  digest  : List Byte := []
  pool    : List Byte := []
  nodes   : List (Word × Word) := []
  order   : List Nat := []
  convs   : List (Nat × Nat × Nat) := []
  map     : List (Nat × Nat × Nat) := []
  kernels : List Kernel := []
  insts   : List KInst := []
  pipes   : List Pipe := []
  compl   : Word := 0
  source  : Option (BitVec 6) := none
  todo    : Nat := 0
  keys    : List (List Nat) := []
  deriving DecidableEq, Repr

/-- A launch record that a bindery has accepted and not yet checked (R314, R329): its words, or the failed read. -/
structure Launch where
  serial : Nat
  number : BitVec 32
  ctx    : BitVec 6
  words  : List Word
  source : Option (BitVec 6)
  deriving DecidableEq, Repr

/-- The stream of command words from one bindery to one core (R49 to R53, R407): the numbers of the next word to be sent and of
the next to be applied, the words sent and not applied with their numbers and whether the core has them, and how many it has
applied and not reported; the contexts to which a DRAINREQ was sent since the last BEGIN (R420); and what the core keeps of the
stream: the open region, the cores selected in it, whether it holds a reserved command, the latest SELECT, a pending EXTEND. -/
structure Feed where
  next    : BitVec 16 := 0
  due     : BitVec 16 := 0
  flight  : List (BitVec 16 × BitVec 32 × Bool) := []
  unsaid  : Nat := 0
  drains  : List (BitVec 6) := []
  region  : Option (BitVec 6) := none
  touched : List Nat := []
  odd     : Bool := false
  sel     : Option (Nat × Nat) := none
  ext     : BitVec 16 := 0
  extSet  : Bool := false
  deriving DecidableEq, Repr

/-- One bindery: the command words not yet sent with their destination cores (R407), pending launches, serial
numbers, cached placements by key with the stream of their core (R210), and the submission queues it serves with the next entry of each (R308). -/
structure Bindery where
  stream   : List (Nat × BitVec 32) := []
  launches : List Launch := []
  serial   : BitVec 32 := 0
  cache    : List (List Nat × List (BitVec 32)) := []
  dumps    : List (BitVec 6) := []
  queues   : Assoc (Option Nat) := []
  deriving DecidableEq, Repr

/-- An arrival or contribution on its way to the root of a barrier (R331), and the generation it was numbered into; `op` is 0
for one that comes from another package, by the Strand port `via`; `party` of such a contribution is its rank, with its descriptor
above 32 bits. -/
structure Arrival where
  id    : Nat
  bar   : BarId
  n     : Nat
  op    : Nat
  party : Nat
  p5    : Bool
  deps  : List Nat
  value : Option Tok
  src   : Bool
  who   : Option InstId
  gen   : Option Nat := none
  via   : Nat := 0
  deriving DecidableEq, Repr

/-- Barrier states (R335). -/
inductive BState where
  | idle | gathering | released
  deriving DecidableEq, Repr

/-- One generation being formed: its number, party count, arrivals counted, writes to certify, those of arrivals that name P5,
carried values. -/
structure Gen where
  gen    : Nat
  party  : Nat
  count  : Nat
  deps   : List Nat
  p5     : List Nat
  values : List Tok
  ops    : List Nat
  who    : List InstId
  deriving DecidableEq, Repr

/-- A contribution to a collective (R340): rank, the operation that holds the firing, 0 for a firing on another package, an
error token that came, the descriptor, and the cycle of its arrival. -/
structure Contrib where
  rank : Nat
  op   : Nat
  err  : Option Tok
  desc : Nat
  time : Nat
  deriving DecidableEq, Repr

/-- A barrier or collective instance (R330, R335): released count, the generations not yet released, and for a collective
the contributions of the use that forms, the cycle of the first, the uses that form after it, the contributions of the
use that runs, and those of uses that EXPIRE has ended and whose outputs are still to be delivered; `last` is the cycle and the core of
the arrival numbered last (R331). -/
structure Bar where
  id       : BarId
  state    : BState := .idle
  released : Nat := 0
  gens     : List Gen := []
  contribs : List Contrib := []
  first    : Nat := 0
  later    : List (List Contrib × Nat) := []
  running  : List Contrib := []
  expired  : List (List Contrib) := []
  last     : Option (Nat × Nat) := none
  deriving DecidableEq, Repr

/-- A die copy queue (R280): context, sender die, receiver die, queue; next number and the operations not performed. -/
structure DieQueue where
  ctx  : BitVec 6
  src  : Nat
  dst  : Nat
  q    : Nat
  next : Nat := 0
  ops  : List Nat := []
  deriving DecidableEq, Repr

/-- Link states (R410), in the order of the codes of R415. -/
inductive LState where
  | down | training | up | degraded | recovering | failed
  deriving DecidableEq, Repr

/-- A count that CTRIG started (R445 to R448): context and record, core and scope, events, trace period, ring and its size,
records written and dropped, totals, elements reached, the elements that the start and stop packets have not reached, the CTRIG that
started it, which numbers the device's writes of the record, the CTRIG that stops it, and a failure of such a write (cause, address). -/
structure Count where
  ctx     : BitVec 6
  va      : Nat
  n       : Nat
  ev0     : Nat
  ev1     : Nat
  per     : Nat
  ring    : Nat
  log     : Nat
  written : Nat := 0
  drops   : Nat := 0
  sum0    : Nat := 0
  sum1    : Nat := 0
  reached : Nat := 0
  starts  : List Nat := []
  stops   : List Nat := []
  own     : Nat := 0
  stopper : Option Nat := none
  fail    : Option (Nat × Nat) := none
  deriving DecidableEq, Repr

/-- A page that a PMIG holds write-blocked (R388, R389): the leaf's address and value before, the PMIG's operation, core and
context, and the page's context. The context may be saved meanwhile. -/
structure Migration where
  addr   : Nat
  old    : Nat
  op     : Nat
  n      : Nat
  ctx    : BitVec 6
  target : BitVec 6
  deriving DecidableEq, Repr

/-- A link (R402, R410, R415); `ready` is the cycle at which its last training or recovery ended (R409), `far` the far end that
training found, `recent` the cycles of its replays in this state, as far as they tell a burst (R410). -/
structure Link where
  state    : LState := .down
  attempts : Nat := 0
  half     : Bool := false
  replays  : Nat := 0
  drains   : Nat := 0
  ready    : Nat := 0
  far      : Nat := 0
  recent   : List Nat := []
  deriving DecidableEq, Repr

/-- A call slip (R405, R406). A free one stood at position `pos` of its ring in cycle `since` and has moved one position a cycle
from there; a router holds it, for the packet `carry`; `marks` are the cycles, less those that the watchdog ignores, of its last
pass at a position before that, `passed` that of the positions not listed; `gone` is a slip that no longer exists, `lost` one
whose loss the watchdog has found, `lostBy` the contexts so faulted. -/
structure Slip where
  pos    : Nat := 0
  since  : Nat := 0
  held   : Option Nat := none
  carry  : Nat := 0
  marks  : Assoc Nat := []
  passed : Nat := 0
  gone   : Bool := false
  lost   : Bool := false
  lostBy : List (BitVec 6) := []
  deriving DecidableEq, Repr

/-- Boot, security and power (R451 to R456): the configuration blob's fields, the clock and whether it is held; the identity key, wrapped
as flash keeps it, whether it is there, whether a certificate request waits for its answer, and the certificate; the record that
answers a report request, and the folio measurement. -/
structure Platform where
  stage    : Nat := 0
  failed   : Bool := false
  up       : Bool := false
  boot     : BitVec 16 := 0
  epoch    : BitVec 32 := 0
  defects  : List (Nat × Nat) := []
  limit    : Nat := 4096
  power    : Nat := 4200
  ceiling  : Nat := 1300
  clock    : Nat := 16
  held     : Bool := false
  ident    : List Byte := []
  report   : Nat := 0
  fwh      : List Byte := []
  cfgh     : List Byte := []
  routes   : List (Nat × Nat) := []
  wrapped  : List Byte := []
  keyed    : Bool := false
  pending  : Bool := false
  cert     : List Byte := []
  serving  : Option Nat := none
  measure  : List Byte := List.replicate 48 0
  measured : Nat := 0
  log      : List (List Byte) := []
  logFull  : Bool := false
  seen     : List (List Byte) := []
  deriving DecidableEq, Repr

/-- A commit on its way to the pipes' home cores (R302): serial of the group, staged tokens with their pipes, end marks, what it
depends on, and the fault that an armed frame raises once it is published, with the firing that ended the activation (R371). -/
structure Commit where
  id     : Nat
  serial : Nat
  items  : List (Nat × Staged)
  ends   : List (Nat × Nat × Nat)
  deps   : List Nat
  armed  : Option (FaultRec × Op) := none
  deriving DecidableEq, Repr

/-- A producer's end mark on its way to a pipe (R304), with what the commit that published it depends on (R290). -/
structure Mark where
  id     : Nat
  serial : Nat
  pipe   : Nat
  deps   : List Nat := []
  deriving DecidableEq, Repr

/-- What the sections 0x0004 to 0x000A of an image hold (R363): the context's operations, elements, cores, groups, barriers, die
copy queues, counts, what was on its way, and launches not yet checked with their dies; and what the model writes beside them
(log 8): the power-on that the image was written in, the numbers of objects given till then, and the context's number. -/
structure Shelf where
  stamp : Nat
  fresh : Nat
  ctx   : BitVec 6
  ops   : List Op
  elems : Assoc Elem
  cores : Assoc Core
  groups : List Group
  bars  : List Bar
  dieqs : List DieQueue
  counts : List Count
  arrivals : List Arrival
  commits : List Commit
  marks  : List Mark
  launches : List (Nat × Launch)
  deriving DecidableEq, Repr

/-- What can happen next: an arrival from another package of a pod job (R330), the loss of another member's Strand port (R341),
the machine's steps, the translation of an access ahead of its performance (R294), the selection of a firing at an element (R323), a word of a
bindery's stream sent, brought to its core, and applied there (R407), one move of a write towards visibility (R285), one move of a packet to a router (R403), the loss of a call
slip (R406), and the passing of time. -/
inductive Event where
  | instr (i : Instr)
  | fire (n elem : Nat)
  | send (bindery : Nat)
  | command (bindery core : Nat) (number : BitVec 16)
  | word (bindery core : Nat)
  | visible (w path level : Nat)
  | arrival (a : Arrival)
  | farFailed (ctx : BitVec 6)
  | translate (op elem : Nat)
  | hop (packet router : Nat)
  | slipGone (ring : Nat)
  | tick (k : Nat)
  deriving DecidableEq, Repr

/-- The state of the package. `agenda`, `pick`, `fresh`, `firing` and `stream` are the model's own: the events that the
outside world or a chosen interleaving puts first, the counters behind `Config.choose` and the numbering of objects, the
matched set that the running instruction reads, and the bindery and core of the running command; `told` are the elements given to
SVCTX, RSCTX and DUMP firings that were in no fabric, as their context was saved. -/
structure State where
  cycle    : Nat := 0
  agenda   : List Event := []
  pick     : Nat := 0
  fresh    : Nat := 1
  firing   : Option Firing := none
  stream   : Option (Nat × Nat) := none
  elems    : Assoc Elem := []
  cores    : Assoc Core := []
  net      : List Packet := []
  ops      : List Op := []
  ctxs     : Assoc Context := []
  groups   : List Group := []
  binderies : Assoc Bindery := []
  feeds    : Assoc Feed := []
  mem      : List Host.Cell := []
  pend     : List Write := []
  poison   : List Nat := []
  tlb      : List TlbEntry := []
  bars     : List Bar := []
  arrivals : List Arrival := []
  dieqs    : List DieQueue := []
  counts   : List Count := []
  faults   : List FaultTok := []
  links    : Assoc Link := []
  slips    : Assoc Slip := []
  told     : List (Nat × Nat) := []
  migs     : List Migration := []
  commits  : List Commit := []
  marks    : List Mark := []
  plat     : Platform := {}
  deriving DecidableEq, Repr

/-- Why the machine stops. -/
inductive Fault where
  /-- A node instruction runs only on a matched set (R100): `exec` was asked for one with none loaded. Raised by every node
  instruction, never by `step`, which loads the set first. Safe: no run of the machine reaches it. -/
  | noMatchedSet
  /-- A configuration command runs only from a bindery's stream (R49): `exec` was asked for one outside a stream. Raised by
  the command words, never by `step`. Safe: no run of the machine reaches it. -/
  | noStream
  deriving DecidableEq, Repr

/-- Why an instruction has no meaning. -/
inductive Refusal where
  /-- The instruction has no meaning in this model yet. Raised by an arm of `exec` alone. Safe. -/
  | notModelled (mnemonic : String)
  deriving DecidableEq, Repr

/-- The machine right after power-on, before boot (log 3): every field at the value the manual states for reset, every
register without one at the value the log names, memory with nothing listed. -/
def State.reset : State := {}

end Sys2Proof.Machine
end

