-- ==== Sys2Proof/Machine/Ops.lean ====
section
/-! DEFINITION. The named operations over the state: reaching cores, elements, contexts and frames, choices left open,
cutting tokens, raising a halting fault, and putting tokens into an output buffer. -/

namespace Sys2Proof.Machine

/-! ### Reaching the parts of the state -/

/-- Key of an element in the table of elements. -/
def elemKey (n e : Nat) : Nat := n * 128 + e

def State.elem (s : State) (n e : Nat) : Elem := Assoc.get {} s.elems (elemKey n e)

def State.setElem (s : State) (n e : Nat) (x : Elem) : State := { s with elems := Assoc.set {} s.elems (elemKey n e) x }

def State.modElem (s : State) (n e : Nat) (f : Elem → Elem) : State := s.setElem n e (f (s.elem n e))

def State.core (s : State) (n : Nat) : Core := Assoc.get {} s.cores n

def State.modCore (s : State) (n : Nat) (f : Core → Core) : State :=
  { s with cores := Assoc.set {} s.cores n (f (s.core n)) }

def State.ctx (s : State) (c : BitVec 6) : Context := Assoc.get {} s.ctxs c.toNat

def State.modCtx (s : State) (c : BitVec 6) (f : Context → Context) : State :=
  { s with ctxs := Assoc.set {} s.ctxs c.toNat (f (s.ctx c)) }

def State.bind (s : State) (b : Nat) : Bindery := Assoc.get {} s.binderies b

def State.modBind (s : State) (b : Nat) (f : Bindery → Bindery) : State :=
  { s with binderies := Assoc.set {} s.binderies b (f (s.bind b)) }

/-- The operation bears a number, now or in an image it was restored from. -/
def Op.named (o : Op) (id : Nat) : Bool := o.id == id || o.was.contains id

/-- The stream from bindery `b` to core `n`. -/
def State.feed (s : State) (b n : Nat) : Feed := Assoc.get {} s.feeds (b * 160 + n)

def State.modFeed (s : State) (b n : Nat) (f : Feed → Feed) : State :=
  { s with feeds := Assoc.set {} s.feeds (b * 160 + n) (f (s.feed b n)) }

def State.link (s : State) (l : Nat) : Link := Assoc.get {} s.links l

def State.modLink (s : State) (l : Nat) (f : Link → Link) : State :=
  { s with links := Assoc.set {} s.links l (f (s.link l)) }

def State.findOp (s : State) (id : Nat) : Option Op := s.ops.find? (·.id == id)

def State.modOp (s : State) (id : Nat) (f : Op → Op) : State := { s with ops := updFirst (·.id == id) f s.ops }

def State.dropOp (s : State) (id : Nat) : State := { s with ops := s.ops.filter (·.id != id) }

def State.group (s : State) (serial : Nat) : Option Group := s.groups.find? (·.serial == serial)

def State.modGroup (s : State) (serial : Nat) (f : Group → Group) : State :=
  { s with groups := updFirst (·.serial == serial) f s.groups }

/-- The next number of an object of the model. -/
def State.newId (s : State) : Nat × State := (s.fresh, { s with fresh := s.fresh + 1 })

/-- One of `n` possibilities that the manual leaves open (log 4). -/
def State.choice (s : State) (n : Nat) : Nat × State := (Config.choose s.pick n % n, { s with pick := s.pick + 1 })

/-- Free bytes: values the manual does not give (log 11). -/
def freeBytes (k : Nat) : Nat → List Byte
  | 0 => []
  | n + 1 => Config.freeByte (k + n) :: freeBytes k n

/-- Core number of (die, core) as in R314. -/
def coreNum (die core : Nat) : Nat := die * 20 + core

/-- Die of a core. -/
def dieOf (n : Nat) : Nat := n / 20

/-- Core number within its die. -/
def coreIn (n : Nat) : Nat := n % 20

/-- Package-wide number of a core's quad (R13). -/
def quadOf (n : Nat) : Nat := n / 4

/-- The type of an element address (R14). -/
def elemTypeAt (e : Nat) : Option ElemType :=
  if e < 64 then some .pe else if e < 72 then some .sfe else if e < 80 then some .mae else if e < 84 then some .rbe
  else if e = 84 then some .mxa else if e < 87 then some .cpe else if e < 89 then some .qpe else if e = 89 then some .bre
  else none

/-- Slots of an element (R14). -/
def slotCount (e : Nat) : Nat :=
  match elemTypeAt e with
  | some .pe => 32
  | some .sfe | some .mae => 16
  | some .rbe => 4
  | some _ => 8
  | none => 0

/-! ### Tags and tokens -/

/-- The core that a frame lies on (R200). -/
def Tag.core (t : Tag) : Nat := coreNum t.die.toNat (field t.frame.toNat 13 9)

/-- The frame's number within its core. -/
def Tag.fnum (t : Tag) : Nat := field t.frame.toNat 8 0

/-- Same key (R94). -/
def Tag.sameKey (a b : Tag) : Bool := a.ctx == b.ctx && a.die == b.die && a.frame == b.frame && a.space == b.space

/-- Same frame. -/
def Tag.sameFrame (a b : Tag) : Bool := a.ctx == b.ctx && a.die == b.die && a.frame == b.frame

/-- A tag with another iteration. -/
def Tag.atIter (t : Tag) (i : BitVec 16) : Tag := { t with iter := i }

/-- The tag as the number of bits [63:16] of a header (R46). -/
def Tag.bits (t : Tag) : Nat :=
  t.ctx.toNat * 2 ^ 42 + t.die.toNat * 2 ^ 38 + t.frame.toNat * 2 ^ 24 + t.space.toNat * 2 ^ 16 + t.iter.toNat

/-- The tag that header bits [63:16] hold. -/
def Tag.ofBits (x : Nat) : Tag :=
  { ctx := BitVec.ofNat 6 (x >>> 42), die := BitVec.ofNat 4 (x >>> 38), frame := BitVec.ofNat 14 (x >>> 24),
    space := BitVec.ofNat 8 (x >>> 16), iter := BitVec.ofNat 16 x }

/-- Elements of a run. -/
def Tok.len (t : Tok) : Nat := t.run.toNat + 1

/-- Iterations that a token stands for: its run, or of an error token what it replaced (R89, log 44). -/
def Tok.reach (t : Tok) : Nat := if t.fmt == .X then t.span + 1 else t.len

/-- Planes of a token: one more than its jet order. -/
def Tok.planes (t : Tok) : Nat := t.jet.toNat + 1

/-- An error token (R91). -/
def Tok.isErr (t : Tok) : Bool := t.fmt == .X

/-- Bytes per element as the payload holds them. -/
def Tok.esize (t : Tok) : Nat := t.data.length / (t.len * t.planes)

/-- Difference of two iterations on the circle, from −32,768 to 32,767. -/
def iterDiff (a b : BitVec 16) : Int := (b - a).toInt

/-- Iteration `a` stands before `b` in window order (R94). -/
def iterBefore (a b : BitVec 16) : Bool := 0 < iterDiff a b

/-- Two tokens overlap (R94). -/
def Tok.overlaps (a b : Tok) : Bool :=
  a.tag.sameKey b.tag &&
  (let d := iterDiff a.tag.iter b.tag.iter;
   -(b.run.toNat : Int) ≤ d && d ≤ a.run.toNat)

/-- Whether a token covers an iteration. -/
def Tok.covers (t : Tok) (i : BitVec 16) : Bool :=
  let d := iterDiff t.tag.iter i
  0 ≤ d && d ≤ t.run.toNat

/-- Cut planes of `esize`-byte elements of a run of `len` at elements `off` to `off + k − 1`. -/
def slicePlanes (data : List Byte) (esize len off k : Nat) : Nat → List Byte
  | 0 => []
  | p + 1 => slicePlanes data esize len off k p ++ ((data.drop ((p * len + off) * esize)).take (k * esize))

/-- Elements `off` to `off + k − 1` of a token (R103); only the piece with the last iteration keeps EOS (R97). The pieces of what
an error token stands for are error tokens. -/
def Tok.slice (t : Tok) (off k : Nat) : Tok :=
  { t with tag := t.tag.atIter (t.tag.iter + BitVec.ofNat 16 off), run := if t.isErr then t.run else BitVec.ofNat 5 (k - 1),
           span := if t.isErr then k - 1 else t.span, eos := t.eos && off + k == t.reach,
           data := if t.isErr then t.data else slicePlanes t.data t.esize t.len off k t.planes }

/-- The union of two rising lists of write numbers. -/
def joinDeps (a b : List Nat) : List Nat := b.foldl (fun l x => insertNat x l) a

/-- A write belongs to an operation. -/
def Write.of (w : Write) (id : Nat) : Bool := w.own == id || w.also.contains id

/-- Operations of a chain whose writes still wait for performance or visibility (R290). -/
def State.live (s : State) (deps : List Nat) : List Nat :=
  deps.filter fun d => s.pend.any (·.of d) || s.ops.any fun o => o.id == d && o.kind == .dq

/-! ### Frames and instances -/

/-- The frame a tag names, if it is in use. -/
def State.frame (s : State) (t : Tag) : Option Frame :=
  match Assoc.get none (s.core t.core).frames t.fnum with
  | some f => if (s.core t.core).owner == some t.ctx then some f else none
  | none => none

def State.modFrame (s : State) (t : Tag) (f : Frame → Frame) : State :=
  s.modCore t.core fun c => { c with frames := match Assoc.get none c.frames t.fnum with
    | some x => Assoc.set none c.frames t.fnum (some (f x))
    | none => c.frames }

/-- A tag-space instance of a frame. -/
def Frame.inst (f : Frame) (num : Nat) : Option Inst := f.insts.find? (·.num == num)

def Frame.modInst (f : Frame) (num : Nat) (g : Inst → Inst) : Frame := { f with insts := updFirst (·.num == num) g f.insts }

/-- The kernel instance that holds a slot: its group, kernel and instance. -/
def State.instAt (s : State) (ctx : BitVec 6) (n elem slot : Nat) : Option (Group × Kernel × KInst) :=
  s.groups.findSome? fun g =>
    if g.ctx == ctx then
      (g.insts.find? fun i => i.n == n && i.state != .evicted && i.nodes.any (fun p => p.2.1 == elem && p.2.2 == slot)).bind
        fun i => (g.kernels[i.kernel]?).map fun k => (g, k, i)
    else none

/-- Tokens that name a frame and are PRODUCED, IN_FLIGHT or MATCHED (R199), operations included; the trigger of a deferred slot
read is WAITING (R202). -/
def State.naming (s : State) (p : Tag → Bool) : Bool :=
  s.elems.any (fun x => x.2.out.any (fun o => p o.tok.tag) || x.2.emitq.any (fun o => p o.tok.tag) ||
    x.2.ready.any (fun f => p f.tag)) ||
  s.net.any (fun k => p k.tok.tag) ||
  s.ops.any (fun o => (o.kind != .slotRead && o.fir.elem < 90 && p o.fir.tag) || o.outs.any (fun q => p q.tok.tag)) ||
  (match s.firing with | some f => p f.tag | none => false)

/-! ### Halting faults -/

/-- What a fault token says of the firing that faulted (R357). -/
def faultRec (s : State) (f : Firing) (imm book : Nat) (cause : Nat) (addr : Nat) (async : Bool) (code : Nat) : FaultRec :=
  let own := s.instAt f.tag.ctx f.n f.elem f.slot
  { cause := BitVec.ofNat 16 cause, count := 1, tag := f.tag, node := f.img.nodeid,
    kidx := BitVec.ofNat 12 (match own with | some (_, _, i) => i.kernel | none => 0),
    die := BitVec.ofNat 4 (dieOf f.n), core := BitVec.ofNat 5 (coreIn f.n), elem := BitVec.ofNat 7 f.elem, async := async,
    addr := BitVec.ofNat 64 addr, imm := BitVec.ofNat 32 imm, bookmark := BitVec.ofNat 32 book,
    cycle := BitVec.ofNat 64 s.cycle, code := BitVec.ofNat 16 code, rank := f.img.grank.toNat,
    folio := match own with | some (g, _, _) => g.digest | none => [],
    serial := match own with | some (g, _, _) => g.serial | none => 0 }

/-- The FAULT event of a context (R350): RUNNING moves to HALTING and its halt line rises; during a dump the fault counts
as secondary (R367). -/
def State.faultEvent (s : State) (c : BitVec 6) : State :=
  s.modCtx c fun x => match x.state with
    | .running => { x with state := .halting, halt := some s.cycle, byFault := true }
    | .dumping => { x with image := x.image.map fun i => { i with second := min (i.second + 1) 65535 } }
    | _ => x

/-- The operation of a collective descriptor (R342). -/
def collOp (d : Nat) : Nat := field d 63 61

/-- The bookmark of an operation (R236, R267, R340): of a collective, the pass and bits [23:0] of the granules completed. -/
def Op.mark (o : Op) : Nat := if o.kind = .coll ∧ collOp (leNat o.desc) ≠ 4 then o.book % 2 ^ 24 else o.book

/-- A halting fault (R355): its token starts up the fault tree, the element keeps the cause, and the operation that ended by
it, for its stop record, and the context takes FAULT. -/
def State.raise (s : State) (c : BitVec 6) (level : Nat) (r : FaultRec) (who : Option Op := none) : State :=
  let (id, s) := s.newId
  let tok : FaultTok := { id := id, ctx := c, level := level, recd := { r with arrived := s.cycle } }
  let s := if level = 0 then s.modElem (coreNum r.die.toNat r.core.toNat) r.elem.toNat fun e =>
      if e.cause = 0 then { e with cause := r.cause.toNat, culprit := who, async := r.async } else e
    else s
  State.faultEvent { s with faults := s.faults ++ [tok] } c

/-- A halting fault that no firing raised: on a core, a link or the save engine. -/
def State.raiseAt (s : State) (c : BitVec 6) (n : Nat) (cause : Nat) : State :=
  s.raise c 3 { cause := BitVec.ofNat 16 cause, count := 1, die := BitVec.ofNat 4 (dieOf n), core := BitVec.ofNat 5 (coreIn n),
                cycle := BitVec.ofNat 64 s.cycle }

/-- Of two faults the one that R355 takes: graph order, then launch serial, then place; the serial first between folios. -/
def FaultRec.before (b a : FaultRec) : Bool :=
  let place (r : FaultRec) := (r.die.toNat * 32 + r.core.toNat) * 128 + r.elem.toNat
  let keys (r : FaultRec) : List Nat :=
    if a.folio == b.folio then [r.rank, r.serial, place r] else [r.serial, r.rank, place r]
  (compare (keys b) (keys a)).isLT

/-- Count a halting fault in the context's fault record at the root (R355): the first to arrive stays the first, and among
those of one cycle the one that `before` names. -/
def FaultRec.merge (a b : FaultRec) : FaultRec :=
  let total := BitVec.ofNat 32 (min (a.count.toNat + b.count.toNat) (2 ^ 32 - 1))
  if a.cause = 0 || (b.arrived == a.arrived && b.before a) then { b with count := total } else { a with count := total }

/-- The halt line of a context is up. -/
def State.halted (s : State) (c : BitVec 6) : Bool := (s.ctx c).halt.isSome

/-! ### Output buffers -/

/-- A route word (R48, R50): die, core, element, slot. -/
def routeDie (w : Nat) : Nat := field w 20 17
def routeCore (w : Nat) : Nat := field w 16 12
def routeElem (w : Nat) : Nat := field w 11 5
def routeSlot (w : Nat) : Nat := field w 4 0

/-- The used destinations of a slot: index and word, laid out as DEST0 (R50). -/
def Slot.dests (x : Slot) : List (Nat × Nat) :=
  [(0, x.dest0.toNat), (1, x.dest1.toNat), (2, x.dest2.toNat)].filter fun d => bitOf d.2 31

/-- A slot whose CF 1 gives a destination class 0 (R38, R116). -/
def Slot.givesZero (x : Slot) (d : Nat) : Bool :=
  let w := x.iw.toNat
  bitOf w 41 && (if field w 63 55 = 0x002 ∧ d ≠ 0 then field w (31 + 2 * d) (30 + 2 * d) == 0 else field w 40 39 == 0)

/-- A route word leads to an element. -/
def leadsTo (w n elem : Nat) : Bool := coreNum (routeDie w) (routeCore w) == n && routeElem w == elem

/-- An element that tokens of class 0 reach: its group class is 0, or a CF 1 node feeds it at class 0. -/
def State.fedZero (s : State) (n elem : Nat) : Bool :=
  (s.elem n elem).eclass == 0 || s.elems.any fun p => p.2.slots.any fun q => q.2.dests.any fun d =>
    q.2.givesZero d.1 && leadsTo d.2 n elem

/-- The used conversion routes of a slot (R50, R99). -/
def Slot.convs (x : Slot) : List Nat := [x.conv0.toNat, x.conv1.toNat, x.conv2.toNat].filter fun w => bitOf w 31

/-- An element with a slot able to fire at class 0 (R324): tokens of class 0 reach it, or are steered to it from one that they
reach (R99). -/
def State.keepsZero (s : State) (n elem : Nat) : Bool :=
  s.fedZero n elem || s.elems.any fun p => (p.2.slots.any fun q => q.2.convs.any fun w => leadsTo w n elem) &&
    s.fedZero (p.1 / 128) (p.1 % 128)

/-- Whether an Emit may take an entry of the output buffer (R108, R109, R324): two of the sixteen are kept for class 0 on an
element that can fire at class 0. -/
def Elem.room (e : Elem) (keeps : Bool) (cls : Nat) : Bool :=
  e.out.length < (if cls == 0 || !keeps then 16 else 14)

/-- Waiting Emits take entries in order; one of class 1 to 3 that waits holds up those of class 1 to 3 behind it (R109). -/
def flushEmits (keeps : Bool) : List OutEntry → Bool → Elem → List OutEntry × Elem
  | [], _, e => ([], e)
  | o :: r, blocked, e =>
    let c := o.tok.cls.toNat
    if (c == 0 || !blocked) && e.room keeps c then flushEmits keeps r blocked { e with out := e.out ++ [o] }
    else
      let x := flushEmits keeps r (blocked || c != 0) e
      (o :: x.1, x.2)

/-- Two packets stand at one input of a router, on the network proper (R404). -/
def Packet.sameInput (p q : Packet) : Bool :=
  p.router == q.router && p.input == q.input && !p.lane && !q.lane && p.tok.cls != 0 && q.tok.cls != 0

/-- A packet comes to a router: at the head of its input where no other stands there. -/
def State.addPacket (s : State) (p : Packet) : State :=
  { s with net := s.net ++ [{ p with headAt := if s.net.any p.sameInput then none else some s.cycle }] }

/-- A packet leaves its input; the next there comes to its head. -/
def State.dropPacket (s : State) (p : Packet) : State :=
  { s with net := updFirst p.sameInput (fun q => { q with headAt := q.headAt.orElse fun _ => some s.cycle }) (s.net.filter (·.id != p.id)) }

/-- Move what can move from the waiting Emits into the output buffer. -/
def Elem.flush (e : Elem) (keeps : Bool) : Elem :=
  let x := flushEmits keeps e.emitq false { e with emitq := [] }
  { x.2 with emitq := x.1 }

/-- Whether `k` Emits may take entries together. -/
def Elem.roomFor (e : Elem) (keeps : Bool) (cls k : Nat) : Bool :=
  e.out.length + k ≤ (if cls == 0 || !keeps then 16 else 14)

/-- Whether an Emit takes its entry at once: there is room, and no Emit of its sort waits before it (R109). -/
def Elem.emitsNow (e : Elem) (keeps : Bool) (cls : Nat) : Bool :=
  e.room keeps cls && !e.emitq.any fun o => o.tok.cls == 0 || cls != 0

/-- Emit (R7): a token takes an entry for its destinations (index, word, class), at once or when one frees; a token without
destinations takes none (R43). -/
def State.emitTo (s : State) (n elem slot : Nat) (t : Tok) (dests : List (Nat × Nat × Nat)) : State :=
  if dests.isEmpty then s
  else
    let (id, s) := s.newId
    let keeps := s.keepsZero n elem
    let o : OutEntry := { id := id, slot := slot, tok := t, dests := dests, sent := [] }
    s.modElem n elem fun e =>
      if e.emitsNow keeps t.cls.toNat then { e with out := e.out ++ [o] } else { e with emitq := e.emitq ++ [o] }

/-- What a firing holds back becomes visible (R8): sticky bits of its context and slots of its frame. -/
def Late.apply (l : Late) (s : State) : State :=
  let s := s.modCtx l.tag.ctx fun x => { x with csrs := { x.csrs with
    fflags := x.csrs.fflags ||| l.ff, jflags := x.csrs.jflags ||| l.jf } }
  s.modFrame l.tag fun f => { f with slots := l.slots.foldl (fun m p => Assoc.set none m p.1 p.2) f.slots }

/-- The waiting Emits of an element take what entries there are (R109); with the last Emit of a firing its effects become
visible (R8). -/
def State.flushElem (s : State) (n elem : Nat) : State :=
  let e := s.elem n elem
  let e' := e.flush (s.keepsZero n elem)
  let left := e'.emitq.map (·.id)
  let gone := e.emitq.filter fun o => !left.contains o.id
  (gone.filterMap (·.late)).foldl (fun s l => l.apply s)
    (s.setElem n elem { e' with out := e'.out.map fun o => if gone.any (·.id == o.id) then { o with late := none } else o })

/-- What an entry of the output buffer still owes becomes visible: the second of a firing's two ORs (R435). -/
def State.payLate (s : State) (n elem entry : Nat) : State :=
  match (s.elem n elem).out.find? (·.id == entry) with
  | some o => match o.late with
    | some l => l.apply (s.modElem n elem fun e => { e with out := updFirst (·.id == entry) (fun o => { o with late := none }) e.out })
    | none => s
  | none => s

/-- What a firing that ran from `s` to `t` did to its context's sticky bits and its frame's slots, taken back until its last
Emit, which waits as the entry `last` with `hold` concordance entries (R113), takes its place (R8). -/
def State.keepBack (s t : State) (f : Firing) (last hold : Nat) : State :=
  let a := (s.ctx f.tag.ctx).csrs
  let b := (t.ctx f.tag.ctx).csrs
  let old := match s.frame f.tag with | some x => x.slots | none => []
  let new := match t.frame f.tag with | some x => x.slots | none => []
  let wrote := ((new.map (·.1) ++ old.map (·.1)).eraseDups.filter fun k => Assoc.get none new k != Assoc.get none old k).map fun k =>
    (k, Assoc.get none new k)
  let l : Late := { ff := b.fflags &&& ~~~a.fflags, jf := b.jflags &&& ~~~a.jflags, tag := f.tag, slots := wrote, hold := hold }
  let t := t.modCtx f.tag.ctx fun x => { x with csrs := { x.csrs with fflags := a.fflags, jflags := a.jflags } }
  let t := if wrote.isEmpty then t else t.modFrame f.tag fun x => { x with slots := old }
  t.modElem f.n f.elem fun e => { e with emitq := e.emitq.map fun o => if o.id == last then { o with late := some l } else o }

/-- A firing that set bits of both kinds: JFLAGS by its first OR, FFLAGS by the second, which `first`, its first token in the
output buffer, brings before it leaves (R435). -/
def State.splitOrs (s t : State) (f : Firing) (first : Nat) : State :=
  let a := (s.ctx f.tag.ctx).csrs
  let b := (t.ctx f.tag.ctx).csrs
  let ff := b.fflags &&& ~~~a.fflags
  if ff = 0 || b.jflags == a.jflags then t
  else
    let l : Late := { ff := ff, jf := 0, tag := f.tag, slots := [] }
    (t.modCtx f.tag.ctx fun x => { x with csrs := { x.csrs with fflags := a.fflags } }).modElem f.n f.elem fun e =>
      { e with out := e.out.map fun o => if o.id == first then { o with late := some l } else o }

/-- The Emits of a firing or operation that ran from `s` to `t`: what it has done is visible from its last one on (R8, R435).
`keep` is false for one whose effects are all held back already. -/
def State.lastEmit (s t : State) (f : Firing) (hold : Nat) : State :=
  let e := t.elem f.n f.elem
  match (e.emitq.filter fun o => s.fresh ≤ o.id).getLast?, (e.out.filter fun o => s.fresh ≤ o.id).head? with
  | some o, _ => s.keepBack t f o.id hold
  | none, some o => s.splitOrs t f o.id
  | none, none => t

/-- A firing that waits in its slot for room elsewhere (R306, R329): it is a matched set again and the element starts other
firings meanwhile. -/
def State.requeue (s : State) (f : Firing) : State :=
  s.modElem f.n f.elem fun e => { e with ready := e.ready ++ [f] }

/-- The events an element's counters count (R443): those of the record that is armed here, else its selects. -/
def Elem.sel0 (e : Elem) : Nat := match e.armed with | some a => a.2.1 | none => field e.ctrsel0.toNat 7 0
def Elem.sel1 (e : Elem) : Nat := match e.armed with | some a => a.2.2.1 | none => field e.ctrsel1.toNat 7 0

/-- Count an event of R444 at an element whose counters are armed or selected, while the halt line is down (R443). -/
def State.count (s : State) (ctx : BitVec 6) (n elem code k : Nat) : State :=
  if s.halted ctx then s
  else s.modElem n elem fun e =>
    let add (sel : Nat) (c : BitVec 48) := if sel = code ∧ code ≠ 0 then BitVec.ofNat 48 (satAdd 48 c.toNat k) else c
    { e with ctr0 := add e.sel0 e.ctr0, ctr1 := add e.sel1 e.ctr1 }

end Sys2Proof.Machine
end

