-- ==== Sys2Proof/Machine/Flags.lean ====
section
/-! DEFINITION. Captures (R168, R352), exception classes and dispositions (R55, R86 to R88, R178), error tokens (R89, R91,
R92). A firing's exceptions are one number: bit 8j + c is class c raised at coefficient j. -/

namespace Sys2Proof.Machine

/-- Exception classes in the order of FFLAGS (R55), which is the order of R88. -/
def clsIV : Nat := 0
def clsDZ : Nat := 1
def clsOF : Nat := 2
def clsUF : Nat := 3
def clsNX : Nat := 4
def clsPOISON : Nat := 5
def clsPROT : Nat := 6
def clsFMT : Nat := 7

/-- Flag(class, j) (R7). -/
def flag (c j : Nat) : Nat := 2 ^ (8 * j + c)

/-- Flags of R86 charged to coefficient j. -/
def chargeTo (j : Nat) (fl : Nat) : Nat := fl * 2 ^ (8 * j)

/-- The disposition code of a class (R55, R87): 0 IGNORE, 1 FLAG, 2 TOKEN, 3 HALT. -/
def disposition (exc : BitVec 16) (c : Nat) : Nat := field exc.toNat (2 * c + 1) (2 * c)

/-- The cause code that TOKEN puts into an error token (R92). -/
def causeOf (c : Nat) : Nat := c + 1

/-- The halting cause of a class (R87, R356). -/
def haltCause (c : Nat) : Nat :=
  if c = clsPOISON then 0x0004 else if c = clsPROT then 0x0003 else if c = clsFMT then 0x000D else 0x0005

/-- The classes raised, for any coefficient. -/
def classesOf (fl : Nat) : List Nat := (List.range 8).filter fun c => (List.range 8).any fun j => bitOf fl (8 * j + c)

/-- Whether a class acts: at coefficient 0, or at one whose JTRAP bit is set (R178). -/
def acts (jtrap : BitVec 40) (fl c : Nat) : Bool :=
  (List.range 8).any fun j => bitOf fl (8 * j + c) && (j == 0 || (c < 5 && bitOf jtrap.toNat (5 * j + c)))

/-- What the dispositions make of a firing's exceptions (R88). -/
inductive Verdict where
  | go | token (cause : Nat) | halt (cause : Nat)
  deriving DecidableEq, Repr

/-- R88: the first HALT class wins, else the first TOKEN class. -/
def verdict (cap : Capture) (fl : Nat) : Verdict :=
  let act := (classesOf fl).filter (acts cap.jtrap fl)
  match act.find? (fun c => disposition cap.exc c == 3) with
  | some c => .halt (haltCause c)
  | none => match act.find? (fun c => disposition cap.exc c == 2) with
    | some c => .token (causeOf c)
    | none => .go

/-- Set the sticky bits of every class that is not IGNORE; on a jet lane the JFLAGS bits too (R55, R178, R435). -/
def State.setFlags (s : State) (c : BitVec 6) (cap : Capture) (jetLane : Bool) (fl : Nat) : State :=
  if fl = 0 then s
  else
    let cs := (classesOf fl).filter fun k => disposition cap.exc k != 0
    let ff := cs.foldl (fun a k => a ||| 2 ^ k) 0
    let jf := if jetLane then
        (List.range 8).foldl (fun a j => (cs.filter fun k => k < 5 && bitOf fl (8 * j + k)).foldl (fun a k => a ||| 2 ^ (5 * j + k)) a) 0
      else 0
    s.modCtx c fun x => { x with csrs := { x.csrs with
      fflags := x.csrs.fflags ||| BitVec.ofNat 8 ff, jflags := x.csrs.jflags ||| BitVec.ofNat 40 jf } }

/-- The exceptions of a firing that ran from `s` to `t`: those of one that goes on as an operation, the last of `t`, are visible with
its last Emit (R8, R435); those of one that has ended, at once; one that waits in its slot has raised none yet. -/
def State.owes (s t : State) (f : Firing) (cap : Capture) (jetLane : Bool) (fl : Nat) : State :=
  match (if s.ops.length < t.ops.length then t.ops.getLast? else none) with
  | some o => { t with ops := t.ops.dropLast ++ [{ o with excs := o.excs ||| fl }] }
  | none => if (t.elem f.n f.elem).ready.any (·.id == f.id) then t else t.setFlags f.tag.ctx cap jetLane fl

/-- The payload of an error token (R91). -/
def errPayload (n node cause addr : Nat) : List Byte :=
  leBytes 8 (coreIn n * 2 ^ 46 + dieOf n * 2 ^ 42 + node * 2 ^ 24 + cause) ++ leBytes 8 addr

/-- ABSORBED of an error payload (R91). -/
def absorbedOf (data : List Byte) : Nat := field (leNat (data.take 8)) 23 8

/-- Add to ABSORBED, saturating (R93). -/
def absorb (k : Nat) (data : List Byte) : List Byte :=
  let w := leNat (data.take 8)
  let a := min (field w 23 8 + k) 65535
  leBytes 8 (w - field w 23 8 * 2 ^ 8 + a * 2 ^ 8) ++ data.drop 8

/-- CAUSE of an error payload. -/
def causeIn (data : List Byte) : Nat := leNat (data.take 1)

/-- Source node of an error payload. -/
def nodeIn (data : List Byte) : Nat := field (leNat (data.take 8)) 41 24

/-- The rounding mode of a code, RNE for the illegal ones that RMODE never holds (R54). -/
def rmodeOf (x : BitVec 3) : Rm :=
  match x.toNat with
  | 2 => .rtz | 3 => .rup | 4 => .rdn | 5 => .rna | 6 => .sr | _ => .rne

/-- What a firing captures when it fires (R25, R168, R352); one that waits with its Emit keeps what it captured. -/
def State.capture (s : State) (f : Firing) (n : Node) : Capture :=
  match f.held with
  | some h => h.cap
  | none =>
  let c := (s.ctx f.tag.ctx).csrs
  let own := s.instAt f.tag.ctx f.n f.elem f.slot
  let fj := match s.frame f.tag with | some x => x.jord | none => 0
  { rm := if n.rm = .ctx then rmodeOf c.rmode else n.rm,
    exc := match own with | some (_, k, _) => if k.excv then k.exc else c.excmode | none => c.excmode,
    jtrap := c.jtrap,
    cap := if c.jord = 0 then fj else if c.jord.toNat < fj.toNat then c.jord else fj,
    key := c.rngkey }

end Sys2Proof.Machine
end

