-- ==== Sys2Proof/Machine/Float.lean ====
section
/-! DEFINITION. Floating-point numbers (R68 to R72), exact arithmetic on them, and the one rounding Round of R7 with its
overflow, underflow and stochastic rules (R69, R72, R78 to R80). -/

namespace Sys2Proof.Machine

/-- Exponent bits of a float format (R68, R71). -/
def expBits : Fmt → Nat
  | .D => 11 | .S => 8 | .H => 5 | .B => 8 | _ => 4

/-- Fraction bits of a float format. -/
def fracBits : Fmt → Nat
  | .D => 52 | .S => 23 | .H => 10 | .B => 7 | _ => 3

/-- Precision: the fraction bits and the leading bit. -/
def prec (f : Fmt) : Nat := fracBits f + 1

/-- Exponent bias. -/
def bias (f : Fmt) : Nat := 2 ^ (expBits f - 1) - 1

/-- The exponent of the smallest normal. -/
def emin (f : Fmt) : Int := 1 - (bias f : Int)

/-- The exponent of the largest finite value: F8 uses the all-ones exponent for numbers (R71). -/
def emax (f : Fmt) : Int := if f = .Q then 8 else bias f

/-- Width of a format in bits. -/
def fbits (f : Fmt) : Nat := 1 + expBits f + fracBits f

/-- The default NaN (R68, R72). -/
def defNan (f : Fmt) : Nat :=
  if f = .Q then 0x7F else (2 ^ expBits f - 1) * 2 ^ fracBits f + 2 ^ (fracBits f - 1)

/-- The sign bit of a pattern. -/
def signOf (f : Fmt) (x : Nat) : Bool := bitOf x (fbits f - 1)

/-- A pattern with a sign bit. -/
def withSign (f : Fmt) (s : Bool) (x : Nat) : Nat := x + (if s then 2 ^ (fbits f - 1) else 0)

/-- The largest finite pattern, unsigned. -/
def maxFin (f : Fmt) : Nat :=
  if f = .Q then 0x7E else (2 ^ expBits f - 1) * 2 ^ fracBits f - 1

/-- The pattern of +∞; F8 has none (R72). -/
def infPat (f : Fmt) : Nat := (2 ^ expBits f - 1) * 2 ^ fracBits f

/-- A number exactly or up to a positive remainder below its last bit: (−1)^s × (m + δ) × 2^e with δ = 0, or 0 < δ < 1
where `st` is set. -/
inductive XV where
  | nan
  | inf (s : Bool)
  | num (s : Bool) (m : Nat) (e : Int) (st : Bool)
  deriving DecidableEq, Repr

/-- Exact +0. -/
def XV.zero : XV := .num false 0 0 false

/-- An exact integer. -/
def XV.int (x : Int) : XV := .num (x < 0) x.natAbs 0 false

/-- Flags of R86 as bits: IV 1, DZ 2, OF 4, UF 8, NX 16; POISON 32, PROT 64, FMT 128 follow (R55). -/
abbrev Flags := Nat

/-- A value with the flags raised on the way to it. -/
abbrev FP := XV × Flags

/-- Whether a pattern is a NaN. -/
def isNanPat (f : Fmt) (x : Nat) : Bool :=
  let b := x % 2 ^ (fbits f - 1)
  if f = .Q then b == 0x7F else infPat f < b

/-- Whether a pattern is a signalling NaN (R70); F8 has none. -/
def isSig (f : Fmt) (x : Nat) : Bool := f != .Q && isNanPat f x && !bitOf x (fracBits f - 1)

/-- Whether a pattern is an infinity. -/
def isInfPat (f : Fmt) (x : Nat) : Bool := f != .Q && x % 2 ^ (fbits f - 1) == infPat f

/-- The exact value of a pattern. -/
def valueOf (f : Fmt) (x : Nat) : XV :=
  if isNanPat f x then .nan
  else if isInfPat f x then .inf (signOf f x)
  else
    let ex := field x (fbits f - 2) (fracBits f)
    let fr := x % 2 ^ fracBits f
    if ex = 0 then (if fr = 0 then .num (signOf f x) 0 0 false else .num (signOf f x) fr (emin f - fracBits f) false)
    else .num (signOf f x) (2 ^ fracBits f + fr) ((ex : Int) - bias f - fracBits f) false

/-- An operand: its value, with IV for a signalling NaN (R70). -/
def opnd (f : Fmt) (x : Nat) : FP := (valueOf f x, if isSig f x then 1 else 0)

/-- Bits of a positive number. -/
def bitLen (m : Nat) : Nat := if m = 0 then 0 else Nat.log2 m + 1

/-- (m + δ) × 2^e in units of 2^q: the integer of the rounding mode, and whether it differs from the value (R78, R80). -/
def roundUnits (rm : Rm) (draw : Nat) (s : Bool) (m : Nat) (e q : Int) (st : Bool) : Nat × Bool :=
  let far := ((bitLen m : Int) + 40 < q - e)
  let sh := if far then 64 else (q - e).toNat
  let m' := if far then 1 else m
  let st' := st || (far && m != 0)
  if q ≤ e then
    let k := m * 2 ^ (e - q).toNat
    (if st && ((rm == .rup && !s) || (rm == .rdn && s)) then k + 1 else k, st)
  else
    let k := m' / 2 ^ sh
    let r := m' % 2 ^ sh
    let h := 2 ^ (sh - 1)
    let inx := r != 0 || st'
    let up : Bool := match rm with
      | .rne | .ctx => h < r || (r == h && (st' || k % 2 == 1))
      | .rna => h ≤ r
      | .rtz => false
      | .rup => inx && !s
      | .rdn => inx && s
      | .sr => inx && 2 ^ 32 ≤ r * 2 ^ 32 / 2 ^ sh + draw
    (if up then k + 1 else k, inx)

/-- The result of a value beyond the largest finite one (R72, R79). -/
def overflow (f : Fmt) (rm : Rm) (s : Bool) : Nat :=
  let toInf : Bool := match rm with
    | .rtz => false
    | .rup => !s
    | .rdn => s
    | _ => true
  withSign f s (if f != .Q && toInf then infPat f else maxFin f)

/-- The pattern of k × 2^q, which is a value of the format or zero. -/
def patternOf (f : Fmt) (k : Nat) (q : Int) : Nat :=
  if k = 0 then 0
  else
    let top := (bitLen k : Int) - 1 + q
    if top < emin f then k * 2 ^ (q - (emin f - fracBits f)).toNat
    else
      let fr := if bitLen k ≤ prec f then k * 2 ^ (prec f - bitLen k) else k / 2 ^ (bitLen k - prec f)
      (top + bias f).toNat * 2 ^ fracBits f + fr % 2 ^ fracBits f

/-- Round(f, x, rm) (R7): the pattern, and OF, UF and NX as R69, R72, R79 and R86 give them. `draw` is the 32-bit draw
that SR takes (R80). -/
def roundX (f : Fmt) (rm : Rm) (draw : Nat) : XV → Nat × Flags
  | .nan => (defNan f, 0)
  | .inf s => if f = .Q then (withSign f s (maxFin f), 4) else (withSign f s (infPat f), 0)
  | .num s m e st =>
    if m = 0 ∧ st = false then (withSign f s 0, 0)
    else
      let top : Int := (bitLen m : Int) - 1 + e
      if emax f + 1 < top then (overflow f rm s, 20)
      else
        let qn := top - fracBits f
        let q := if top < emin f then emin f - fracBits f else qn
        let (k, inx) := roundUnits rm draw s m e q st
        let ktop : Int := (bitLen k : Int) - 1 + q
        if k != 0 && (emax f < ktop || (f == .Q && patternOf f k q == 0x7F)) then (overflow f rm s, 20)
        else
          let (kn, _) := roundUnits rm draw s m e qn st
          let tiny := kn != 0 && (bitLen kn : Int) - 1 + qn < emin f
          (withSign f s (patternOf f k q), (if inx then 16 else 0) + (if inx && tiny then 8 else 0))

/-- Sign of a value. -/
def XV.sign : XV → Bool
  | .nan => false
  | .inf s => s
  | .num s _ _ _ => s

/-- Negation. -/
def XV.neg : XV → XV
  | .nan => .nan
  | .inf s => .inf (!s)
  | .num s m e st => .num (!s) m e st

/-- An exact product (R86): 0 × ∞ raises IV. -/
def mulP (a b : FP) : FP :=
  let fl := a.2 ||| b.2
  match a.1, b.1 with
  | .nan, _ => (.nan, fl)
  | _, .nan => (.nan, fl)
  | .inf s, .inf t => (.inf (s != t), fl)
  | .inf s, .num t m _ st => if m = 0 && !st then (.nan, fl ||| 1) else (.inf (s != t), fl)
  | .num t m _ st, .inf s => if m = 0 && !st then (.nan, fl ||| 1) else (.inf (s != t), fl)
  | .num s m e _, .num t m' e' _ => (.num (s != t) (m * m') (e + e') false, fl)

/-- An exact sum; the sign of an exact zero is that of IEEE 754 under the mode (R84), and ∞ − ∞ raises IV. -/
def addP (rm : Rm) (a b : FP) : FP :=
  let fl := a.2 ||| b.2
  match a.1, b.1 with
  | .nan, _ => (.nan, fl)
  | _, .nan => (.nan, fl)
  | .inf s, .inf t => if s = t then (.inf s, fl) else (.nan, fl ||| 1)
  | .inf s, _ => (.inf s, fl)
  | _, .inf s => (.inf s, fl)
  | .num s m e _, .num t m' e' _ =>
    if m = 0 ∧ m' = 0 then (.num (if s = t then s else rm == .rdn) 0 0 false, fl)
    else if m = 0 then (.num t m' e' false, fl)
    else if m' = 0 then (.num s m e false, fl)
    else
      let b0 := min e e'
      let x : Int := (if s then -1 else 1) * (m * 2 ^ (e - b0).toNat : Nat)
      let y : Int := (if t then -1 else 1) * (m' * 2 ^ (e' - b0).toNat : Nat)
      if x + y = 0 then (.num (rm == .rdn) 0 0 false, fl)
      else (.num (x + y < 0) (x + y).natAbs b0 false, fl)

/-- A quotient to 200 bits and a remainder mark; 0/0 and ∞/∞ raise IV, a finite nonzero value by zero raises DZ (R86). -/
def divP (a b : FP) : FP :=
  let fl := a.2 ||| b.2
  match a.1, b.1 with
  | .nan, _ => (.nan, fl)
  | _, .nan => (.nan, fl)
  | .inf _, .inf _ => (.nan, fl ||| 1)
  | .inf s, .num t _ _ _ => (.inf (s != t), fl)
  | .num s _ _ _, .inf t => (.num (s != t) 0 0 false, fl)
  | .num s m e _, .num t m' e' _ =>
    if m' = 0 then (if m = 0 then (.nan, fl ||| 1) else (.inf (s != t), fl ||| 2))
    else if m = 0 then (.num (s != t) 0 0 false, fl)
    else
      let k := 200 + bitLen m'
      (.num (s != t) (m * 2 ^ k / m') (e - e' - k) (m * 2 ^ k % m' != 0), fl)

/-- Integer square root, bit by bit from 2^b down. -/
def isqrtFrom (x : Nat) : Nat → Nat → Nat
  | 0, r => r
  | b + 1, r => isqrtFrom x b (if (r + 2 ^ b) * (r + 2 ^ b) ≤ x then r + 2 ^ b else r)

/-- Integer square root. -/
def isqrt (x : Nat) : Nat := isqrtFrom x (bitLen x / 2 + 1) 0

/-- A square root to 200 bits and a remainder mark; a negative nonzero operand raises IV, √−0 = −0 (R86, R137). -/
def sqrtP (a : FP) : FP :=
  match a.1 with
  | .nan => (.nan, a.2)
  | .inf s => if s then (.nan, a.2 ||| 1) else (.inf false, a.2)
  | .num s m e _ =>
    if m = 0 then (.num s 0 0 false, a.2)
    else if s then (.nan, a.2 ||| 1)
    else
      let k := 400 + (e % 2).toNat
      let x := m * 2 ^ k
      let r := isqrt x
      (.num false r ((e - k) / 2) (r * r != x), a.2)

/-- 1/√a to 200 bits; ±0 gives ±∞ with DZ (R86, R137). -/
def rsqrtP (a : FP) : FP :=
  match a.1 with
  | .nan => (.nan, a.2)
  | .inf s => if s then (.nan, a.2 ||| 1) else (.num false 0 0 false, a.2)
  | .num s m e _ =>
    if m = 0 then (.inf s, a.2 ||| 2)
    else if s then (.nan, a.2 ||| 1)
    else
      let k := 800 + 2 * bitLen m + (e % 2).toNat
      let x := 2 ^ k / m
      let r := isqrt x
      (.num false r ((-e - k) / 2) (r * r != x || 2 ^ k % m != 0), a.2)

/-- Round a flagged value and join the flags. -/
def roundP (f : Fmt) (rm : Rm) (draw : Nat) (a : FP) : Nat × Flags :=
  let r := roundX f rm draw a.1
  (r.1, r.2 ||| a.2)

/-- Compare two patterns that are not NaN: −1, 0 or 1; −0 equals +0. -/
def cmpX : XV → XV → Int
  | .inf s, .inf t => if s = t then 0 else if s then -1 else 1
  | .inf s, _ => if s then -1 else 1
  | _, .inf s => if s then 1 else -1
  | .num s m e _, .num t m' e' _ =>
    let b0 := min e e'
    let x : Int := (if s then -1 else 1) * (m * 2 ^ (e - b0).toNat : Nat)
    let y : Int := (if t then -1 else 1) * (m' * 2 ^ (e' - b0).toNat : Nat)
    if m = 0 ∧ m' = 0 then 0
    else if m = 0 then (if t then 1 else -1)
    else if m' = 0 then (if s then -1 else 1)
    else if s != t then (if s then -1 else 1)
    else if x < y then -1 else if x = y then 0 else 1
  | _, _ => 0

/-- The integer nearest a value under a rounding mode (R142): the integer, and whether it differs; none for a NaN or an
infinity. -/
def toIntX (rm : Rm) (draw : Nat) : XV → Option (Int × Bool)
  | .num s m e st =>
    if 4096 < e then some ((if s then -1 else 1) * (2 ^ 4096 : Nat), false)
    else
      let r := roundUnits rm draw s m e 0 st
      some ((if s then -1 else 1) * (r.1 : Int), r.2)
  | _ => none

/-- A value converted to an integer type (R142): pattern and flags. -/
def toIntP (w : Nat) (uns : Bool) (rm : Rm) (draw : Nat) (a : FP) : Nat × Flags :=
  match a.1 with
  | .nan => (0, a.2 ||| 1)
  | .inf s => (ofInt w (if s then intMin w uns else intMax w uns), a.2 ||| 1)
  | x => match toIntX rm draw x with
    | some (v, inx) =>
      let c := clampInt w uns v
      (ofInt w c.1, a.2 ||| (if c.2 then 1 else if inx then 16 else 0))
    | none => (0, a.2)

/-- FMIN (`mx` false) and FMAX of two patterns (R138): the pattern and flags, and which operand was taken (0 or 1, 2 for
the default NaN). -/
def minMax (f : Fmt) (mx : Bool) (a b : Nat) : Nat × Flags × Nat :=
  let fl := if isSig f a || isSig f b then 1 else 0
  if isNanPat f a && isNanPat f b then (defNan f, fl, 2)
  else if isNanPat f a then (b, fl, 1)
  else if isNanPat f b then (a, fl, 0)
  else
    let c := cmpX (valueOf f a) (valueOf f b)
    let za := valueOf f a == .num true 0 0 false
    let zb := valueOf f b == .num true 0 0 false
    let less : Bool := c == -1 || (c == 0 && za && !zb)
    let more : Bool := c == 1 || (c == 0 && !za && zb)
    if (if mx then less else more) then (b, fl, 1) else (a, fl, 0)

end Sys2Proof.Machine
end

