-- ==== Sys2Proof/Machine/Hash.lean ====
section
/-! DEFINITION. SHA-384 (R23, R391, R454; FIPS 180-4) and the counter-based draw function (R152). -/

namespace Sys2Proof.Machine

/-- Modulus of 64-bit arithmetic. -/
def m64 : Nat := 2 ^ 64

/-- Rotate a 64-bit number right. -/
def rotr64 (x k : Nat) : Nat := (x >>> k ||| (x <<< (64 - k))) % m64

/-- Round constants 0 to 19 of SHA-512: fraction bits of cube roots of primes. -/
def shaK0 : List Nat :=
  [ 0x428A_2F98_D728_AE22, 0x7137_4491_23EF_65CD, 0xB5C0_FBCF_EC4D_3B2F, 0xE9B5_DBA5_8189_DBBC,
    0x3956_C25B_F348_B538, 0x59F1_11F1_B605_D019, 0x923F_82A4_AF19_4F9B, 0xAB1C_5ED5_DA6D_8118,
    0xD807_AA98_A303_0242, 0x1283_5B01_4570_6FBE, 0x2431_85BE_4EE4_B28C, 0x550C_7DC3_D5FF_B4E2,
    0x72BE_5D74_F27B_896F, 0x80DE_B1FE_3B16_96B1, 0x9BDC_06A7_25C7_1235, 0xC19B_F174_CF69_2694,
    0xE49B_69C1_9EF1_4AD2, 0xEFBE_4786_384F_25E3, 0x0FC1_9DC6_8B8C_D5B5, 0x240C_A1CC_77AC_9C65 ]

/-- Round constants 20 to 39 of SHA-512: fraction bits of cube roots of primes. -/
def shaK1 : List Nat :=
  [ 0x2DE9_2C6F_592B_0275, 0x4A74_84AA_6EA6_E483, 0x5CB0_A9DC_BD41_FBD4, 0x76F9_88DA_8311_53B5,
    0x983E_5152_EE66_DFAB, 0xA831_C66D_2DB4_3210, 0xB003_27C8_98FB_213F, 0xBF59_7FC7_BEEF_0EE4,
    0xC6E0_0BF3_3DA8_8FC2, 0xD5A7_9147_930A_A725, 0x06CA_6351_E003_826F, 0x1429_2967_0A0E_6E70,
    0x27B7_0A85_46D2_2FFC, 0x2E1B_2138_5C26_C926, 0x4D2C_6DFC_5AC4_2AED, 0x5338_0D13_9D95_B3DF,
    0x650A_7354_8BAF_63DE, 0x766A_0ABB_3C77_B2A8, 0x81C2_C92E_47ED_AEE6, 0x9272_2C85_1482_353B ]

/-- Round constants 40 to 59 of SHA-512: fraction bits of cube roots of primes. -/
def shaK2 : List Nat :=
  [ 0xA2BF_E8A1_4CF1_0364, 0xA81A_664B_BC42_3001, 0xC24B_8B70_D0F8_9791, 0xC76C_51A3_0654_BE30,
    0xD192_E819_D6EF_5218, 0xD699_0624_5565_A910, 0xF40E_3585_5771_202A, 0x106A_A070_32BB_D1B8,
    0x19A4_C116_B8D2_D0C8, 0x1E37_6C08_5141_AB53, 0x2748_774C_DF8E_EB99, 0x34B0_BCB5_E19B_48A8,
    0x391C_0CB3_C5C9_5A63, 0x4ED8_AA4A_E341_8ACB, 0x5B9C_CA4F_7763_E373, 0x682E_6FF3_D6B2_B8A3,
    0x748F_82EE_5DEF_B2FC, 0x78A5_636F_4317_2F60, 0x84C8_7814_A1F0_AB72, 0x8CC7_0208_1A64_39EC ]

/-- Round constants 60 to 79 of SHA-512: fraction bits of cube roots of primes. -/
def shaK3 : List Nat :=
  [ 0x90BE_FFFA_2363_1E28, 0xA450_6CEB_DE82_BDE9, 0xBEF9_A3F7_B2C6_7915, 0xC671_78F2_E372_532B,
    0xCA27_3ECE_EA26_619C, 0xD186_B8C7_21C0_C207, 0xEADA_7DD6_CDE0_EB1E, 0xF57D_4F7F_EE6E_D178,
    0x06F0_67AA_7217_6FBA, 0x0A63_7DC5_A2C8_98A6, 0x113F_9804_BEF9_0DAE, 0x1B71_0B35_131C_471B,
    0x28DB_77F5_2304_7D84, 0x32CA_AB7B_40C7_2493, 0x3C9E_BE0A_15C9_BEBC, 0x431D_67C4_9C10_0D4C,
    0x4CC5_D4BE_CB3E_42B6, 0x597F_299C_FC65_7E2A, 0x5FCB_6FAB_3AD6_FAEC, 0x6C44_198C_4A47_5817 ]

/-- The round constants. -/
def shaK : List Nat := shaK0 ++ shaK1 ++ shaK2 ++ shaK3

/-- Initial value of SHA-384: fraction bits of the square roots of the ninth to the sixteenth prime. -/
def shaInit : List Nat :=
  [ 0xCBBB_9D5D_C105_9ED8, 0x629A_292A_367C_D507, 0x9159_015A_3070_DD17, 0x152F_ECD8_F70E_5939,
    0x6733_2667_FFC0_0B31, 0x8EB4_4A87_6858_1511, 0xDB0C_2E0D_64F9_8FA7, 0x47B5_481D_BEFA_4FA4 ]

/-- One round on the eight working variables. -/
def shaRound (v : List Nat) (k w : Nat) : List Nat :=
  match v with
  | [a, b, c, d, e, f, g, h] =>
    let s1 := rotr64 e 14 ^^^ rotr64 e 18 ^^^ rotr64 e 41
    let ch := (e &&& f) ^^^ ((m64 - 1 - e) &&& g)
    let t1 := (h + s1 + ch + k + w) % m64
    let s0 := rotr64 a 28 ^^^ rotr64 a 34 ^^^ rotr64 a 39
    let mj := (a &&& b) ^^^ (a &&& c) ^^^ (b &&& c)
    [(t1 + s0 + mj) % m64, a, b, c, (d + t1) % m64, e, f, g]
  | _ => v

/-- The rounds of one block; `w` holds the sixteen schedule words from the present one on. -/
def shaRounds : List Nat → List Nat → List Nat → List Nat
  | [], _, v => v
  | k :: ks, w, v =>
    match w with
    | w0 :: w1 :: r =>
      let x := r.getD 12 0
      let n := ((rotr64 x 19 ^^^ rotr64 x 61 ^^^ x >>> 6) + r.getD 7 0 +
        (rotr64 w1 1 ^^^ rotr64 w1 8 ^^^ w1 >>> 7) + w0) % m64
      shaRounds ks (w1 :: r ++ [n]) (shaRound v k w0)
    | _ => v

/-- The number that big-endian bytes hold. -/
def beNat (bs : List Byte) : Nat := bs.foldl (fun a b => a * 256 + b.toNat) 0

/-- The big-endian bytes of a number. -/
def beBytes (k x : Nat) : List Byte := (leBytes k x).reverse

/-- One block of 128 bytes. -/
def shaBlock (h : List Nat) (block : List Byte) : List Nat :=
  let v := shaRounds shaK ((chunksOf 8 16 block).map beNat) h
  (List.zip h v).map fun p => (p.1 + p.2) % m64

/-- SHA-384 of a byte string. -/
def sha384 (msg : List Byte) : List Byte :=
  let pad := (128 - (msg.length + 17) % 128) % 128
  let full := msg ++ [0x80] ++ List.replicate pad 0 ++ beBytes 16 (8 * msg.length)
  let h := (chunksOf 128 (full.length / 128) full).foldl shaBlock shaInit
  (h.take 6).flatMap (beBytes 8)

/-- mix of R152. -/
def mix64 (x : Nat) : Nat :=
  let x := x ^^^ x >>> 32
  let x := x * 0x8F2D_6B1E_57C9_A4B3 % m64
  let x := x ^^^ x >>> 29
  let x := x * 0xE61B_3F79_0D45_C28D % m64
  x ^^^ x >>> 32

/-- Draw64 of R152; `tag` is the 48-bit tag with ITER in its low 16 bits. -/
def draw64 (key tag node e j s salt ext : Nat) : Nat :=
  let tag' := if s = 3 then tag else tag - tag % 65536 + (tag + e) % 65536
  let e' := if s = 3 then e else 0
  let v := node + e' * 2 ^ 18 + j * 2 ^ 24 + s * 2 ^ 27 + salt * 2 ^ 29
  let x := key ^^^ tag' * 0x9E37_79B9_7F4A_7C15 % m64
  let x := mix64 (x ^^^ v ^^^ ext * 0xD6E8_FEB8_6659_FD93 % m64)
  mix64 ((x + (key <<< 32 ||| key >>> 32) % m64) % m64)

end Sys2Proof.Machine
end

