-- ==== Sys2Proof/Machine/Operands.lean ====
section
/-! DEFINITION. What a firing reads and emits: operand elements in every form (tokens, immediates, jets, constant pool),
TAGOP (R36, R95, R207), forwarding of error tokens (R110), the end of a firing (R7, R88), and `fire`, the frame of every
node instruction. -/

namespace Sys2Proof.Machine

/-- What an instruction's body sees of its firing: the matched set, the node, its opcode, what was captured. -/
structure Fire where
  f   : Firing
  n   : Node
  opc : Nat
  cap : Capture
  deriving DecidableEq, Repr

/-- An emission: the output, and the token before TAGOP acts. `keepTag` marks a token whose tag TAGOP does not touch. -/
structure Out where
  out     : Nat
  tok     : Tok
  keepTag : Bool := false
  deriving DecidableEq, Repr

/-- One output from a token. -/
def out0 (t : Tok) : List Out := [{ out := 0, tok := t }]

/-- The token of the matched set on a port. -/
def Fire.port? (x : Fire) (p : Nat) : Option Tok := x.f.inputs.find? (·.port.toNat == p)

/-- The token on a port, empty where there is none. -/
def Fire.port (x : Fire) (p : Nat) : Tok := (x.port? p).getD { tag := x.f.tag, data := [] }

/-- The outputs carry EOS: some input does on the last iteration of the matched range (R97), or the instruction gives it (R126). -/
def Fire.eos (x : Fire) : Bool := x.f.inputs.any (·.eos) || x.opc == 0x014

/-- The writes the matched set depends on (R290). -/
def Fire.deps (x : Fire) : List Nat := x.f.inputs.foldl (fun l t => joinDeps l t.deps) []

/-- A token over the matched range (R95). -/
def Fire.tok (x : Fire) (fmt : Fmt) (len jet : Nat) (data : List Byte) : Tok :=
  { tag := x.f.tag, fmt := fmt, run := BitVec.ofNat 5 (len - 1), jet := BitVec.ofNat 3 jet, eos := x.eos, data := data,
    deps := x.deps }

/-- Element `k` of plane `p` of a token, read at `w` bytes; bytes beyond the payload are free (log 11). -/
def Tok.elem (t : Tok) (w p k : Nat) : Nat :=
  leNat ((t.data.drop ((p * t.len + k) * w)).take w ++
    freeBytes ((p * t.len + k) * w) (w - ((t.data.drop ((p * t.len + k) * w)).take w).length))

/-- Bytes of an element of a node's format, with the integer width of MOD[5:4] (R130). -/
def nodeSize (n : Node) : Nat := if n.fmt = .I then intWidth n / 8 else n.fmt.size

/-- The operand that IMM forms (R39), as a pattern. -/
def immPattern (n : Node) : Nat :=
  match n.fmt with
  | .I => ofInt (intWidth n) (if isUns n then (im n : Int) else toSigned 32 (im n))
  | .D => (roundX .D .rne 0 (valueOf .S (im n))).1
  | .S => im n
  | .H | .B => im n % 65536
  | _ => im n % 256

/-- Element `k` of the operand at position `p`: from the port's token, or the immediate in the last position (R39). -/
def Fire.arg (x : Fire) (p k : Nat) : Nat :=
  if x.n.immp && p + 1 == x.n.arity.toNat then immPattern x.n else (x.port p).elem (nodeSize x.n) 0 k

/-- Element `k` of an I32 operand, immediate or token (R131). -/
def Fire.argI32 (x : Fire) (p k : Nat) : Int :=
  toSigned 32 (if x.n.immp && p + 1 == x.n.arity.toNat then im x.n else (x.port p).elem 4 0 k)

/-- A predicate element (R98). -/
def Fire.pred (x : Fire) (p k : Nat) : Bool := (x.port p).elem 4 0 k != 0

/-- An address element (R131). -/
def Fire.i64 (x : Fire) (p k : Nat) : Nat := (x.port p).elem 8 0 k

/-- Elements as payload bytes. -/
def elems (w : Nat) (xs : List Nat) : List Byte := xs.flatMap (leBytes w)

/-- One 32-bit element, RUN 0. -/
def Fire.one32 (x : Fire) (v : Nat) : Tok := x.tok .I 1 0 (leBytes 4 v)

/-- One 64-bit element, RUN 0. -/
def Fire.one64 (x : Fire) (v : Nat) : Tok := x.tok .I 1 0 (leBytes 8 v)

/-- An ordering token over the matched range (R96). -/
def Fire.order (x : Fire) : Tok := x.tok .I x.f.len 0 []

/-- An instruction whose regular result covers the matched range element by element. -/
def elementwise (opc : Nat) : Bool :=
  (opc < 0x0A3 && opc != 0x011) || (0x0B0 ≤ opc && opc < 0x0E0) || (0x120 ≤ opc && opc ≤ 0x12A) || opc == 0x135 || opc == 0x136 || opc == 0x1A4

/-- Iterations beyond the first that the regular result of a firing covers (R89, log 44): the matched range, a broadcast or
joined run, or none. -/
def Fire.outSpan (x : Fire) : Nat :=
  if x.opc = 0x010 ∨ x.opc = 0x00F then field (md x.n) 4 0 else if elementwise x.opc then x.f.len - 1 else 0

/-- ErrTok (R7, R89): a new error token at the first iteration of the matched range, in place of the regular result. -/
def Fire.errTok (x : Fire) (cause addr : Nat) : Tok :=
  { x.tok .X 1 0 (errPayload x.f.n x.f.img.nodeid.toNat cause addr) with span := x.outSpan }

/-- The group, kernel and instance of a firing. -/
def Fire.own (x : Fire) (s : State) : Option (Group × Kernel × KInst) := s.instAt x.f.tag.ctx x.f.n x.f.elem x.f.slot

/-- Bytes of the constant pool (R27). -/
def Fire.pool (x : Fire) (s : State) (off k : Nat) : List Byte :=
  match x.own s with
  | some (g, _, _) => (g.pool.drop off).take k
  | none => []

/-- Outputs of the instruction, the ordering output included (R43, R255). -/
def Fire.outputs (x : Fire) : Nat :=
  match rowOf x.opc with
  | some r => r.outs x.n + ofBool (r.ordOut x.n)
  | none => 0

/-! ### Classes -/

/-- The barrier that a BARA or BART node of an instance names (R330). -/
def barOf (ctx n scope ident : Nat) (coll : Bool) : BarId :=
  { coll := coll, ctx := ctx, scope := scope,
    inst := match scope with | 0 => n | 1 => quadOf n | 2 => dieOf n | _ => 0, ident := ident }

/-- Barriers of which an instance is a party (R331). -/
def partyOf (g : Group) (i : KInst) : List BarId :=
  i.nodes.filterMap fun p => match g.nodes[p.1]? with
    | some (iw, _) =>
      let o := field iw.toNat 63 55
      if o = 0x167 ∨ o = 0x169 then
        some (barOf g.ctx.toNat i.n (field iw.toNat 34 32) (field iw.toNat 3 0) false)
      else none
    | none => none

/-- An instance waits at a generation of a barrier: by a BART that arrived there, or by a BARW with its ticket (R322); a BARA does not
wait (R337). -/
def State.waitsAt (s : State) (b : BarId) (gen : Gen) (w : InstId) : Bool :=
  s.ops.any fun o =>
    ((o.opc == 0x169 && gen.ops.contains o.id) ||
      (o.kind == .barWait && o.nums == [gen.gen % 2 ^ 32] &&
        barOf o.fir.tag.ctx.toNat o.fir.n (field (md o.instr) 2 0) (field (im o.instr) 3 0) false == b)) &&
    match s.instAt o.fir.tag.ctx o.fir.n o.fir.elem o.fir.slot with
    | some (g, _, i) => w == { serial := g.serial, kernel := i.kernel, replica := i.replica }
    | none => false

/-- One round of class inheritance (R322): the classes that waiting groups pass to the parties they wait for; 3 where a group
inherits nothing. -/
def State.inheritOnce (s : State) (inh : List (Nat × Nat)) : List (Nat × Nat) :=
  inh.map fun (serial, c) => match s.group serial with
    | none => (serial, c)
    | some h =>
      let gives := s.bars.flatMap fun b =>
        if b.id.coll || b.id.ctx != h.ctx.toNat then [] else b.gens.flatMap fun gen =>
          let late := h.insts.any fun i => i.state != .evicted && (partyOf h i).contains b.id &&
            !gen.who.contains { serial := serial, kernel := i.kernel, replica := i.replica }
          if late then (gen.who.filter (s.waitsAt b.id gen)).filterMap fun w => (s.group w.serial).map fun g =>
            max (min g.cls.toNat (((inh.find? (·.1 == w.serial)).map (·.2)).getD 3)) 1
          else []
      (serial, gives.foldl min c)

/-- Repeat the inheritance along chains of waits. -/
def State.inherit (s : State) : Nat → List (Nat × Nat) → List (Nat × Nat)
  | 0, l => l
  | k + 1, l => s.inherit k (s.inheritOnce l)

/-- Group class of a kernel (R321). -/
def groupClass (g : Group) (k : Kernel) : Nat := max g.cls.toNat k.cls.toNat

/-- Effective class of a firing (R321, R322): the lesser of the group class and what the group inherits; 3 where no group
holds the slot. -/
def State.effClass (s : State) (own : Option (Group × Kernel × KInst)) : Nat :=
  match own with
  | none => 3
  | some (g, k, _) =>
    let inh := s.inherit s.groups.length ((s.groups.filter (·.ctx == g.ctx)).map fun h => (h.serial, 3))
    min (groupClass g k) (((inh.find? (·.1 == g.serial)).map (·.2)).getD 3)

/-! ### TAGOP -/

/-- The most recently opened instance whose parent is an instance and iteration (R206, R207). -/
def Frame.child (f : Frame) (q t : Nat) (space : Option Nat) : Option Inst :=
  (f.insts.filter fun i => i.parent == some (q, t) &&
    (match space with | some x => i.space == x | none => true)).foldl
      (fun b i => match b with | some y => if y.opened < i.opened then some i else b | none => some i) none

/-- Cut a token into the maximal runs in which the given iterations rise by one (R95). -/
def regroup (t : Tok) : Nat → Nat → List (BitVec 16) → List Tok
  | 0, _, _ => []
  | fuel + 1, off, its =>
    match its with
    | [] => []
    | i :: _ =>
      let k := ((List.range its.length).takeWhile fun j => its[j]? == some (i + BitVec.ofNat 16 j)).length
      let k := max k 1
      let p := t.slice off k
      { p with tag := t.tag.atIter i } :: regroup t fuel (off + k) (its.drop k)

/-- The callee frame that an ARG with an error token on its data port names, at ITER 0 (R208, R221). -/
def Fire.calleeTag (x : Fire) : Option Tag :=
  match x.port? 1 with
  | some t => if t.isErr then none else
      let g := Tag.ofBits (t.elem 8 0 0 >>> 16)
      some { x.f.tag with frame := g.frame, space := g.space, iter := 0 }
  | none => none

/-- ITER that code 010 gives element `k` (R95): the low 16 bits of input 1, whose token is `p`, or of the immediate that stands
there (R39), a 32-bit integer for FSCALE and FPOWN. Where no element stands at port 1 (an error token there, or a MERGE firing of
another port) the manual gives no ITER: it is free (log 11). -/
def Fire.newIter (x : Fire) (p : Tok) (k : Nat) : Nat :=
  if x.n.immp && x.n.arity == 2 then (if x.opc = 0x07F ∨ x.opc = 0x0BA then im x.n else immPattern x.n)
  else if p.isErr || p.esize = 0 then leNat (freeBytes (2 * k) 2) else p.elem p.esize 0 k

/-- TAGOP on an emitted token (R36, R95, R207, R208): the tokens it becomes, or none for a halting fault TAGSPACE. CALL, ARG and
RET place their own results; what is left to the codes 101 and 110 here is an error token (R110). Under code 011 a run with an
element that has no child instance emits none of its elements (log 53). -/
def Fire.tagop (x : Fire) (s : State) (t : Tok) : Option (List Tok) :=
  match x.n.tagop with
  | .keep => some [t]
  | .callee => match x.calleeTag with
    | some g => some [{ t with tag := g }]
    | none => some [t]
  | .caller => match (s.frame t.tag).bind (·.ret) with
    | some (frame, space, iter) =>
      some [{ t with tag := { t.tag with frame := BitVec.ofNat 14 frame, space := BitVec.ofNat 8 space, iter := BitVec.ofNat 16 iter }, span := 0 }]
    | none => none
  | .next => some [{ t with tag := t.tag.atIter (t.tag.iter + 1) }]
  | .iter =>
    let p := x.port 1
    let d := (iterDiff x.f.tag.iter t.tag.iter).toNat
    let off := if t.tag.sameKey x.f.tag && d + t.len ≤ p.len then d else 0
    let its (n : Nat) : List (BitVec 16) := (List.range n).map fun k => BitVec.ofNat 16 (x.newIter p (off + k))
    if t.isErr then
      let l := its (if p.isErr then 1 else max 1 (min t.reach (p.len - off)))
      let rising (i : BitVec 16) : Nat := ((List.range l.length).takeWhile fun j => l[j]? == some (i + BitVec.ofNat 16 j)).length
      some ((l.head?).toList.map fun i => { t with tag := t.tag.atIter i, span := rising i - 1 })
    else some (regroup t 32 0 (its t.len))
  | .enter => match s.frame t.tag with
    | none => none
    | some fr =>
      let f (k : Nat) : Option Tok := (fr.child t.tag.space.toNat (t.tag.iter + BitVec.ofNat 16 k).toNat none).map fun i =>
        { t.slice k 1 with tag := { t.tag with space := BitVec.ofNat 8 i.num, iter := 0 }, span := 0 }
      (List.range t.len).mapM f
  | .exit => match s.frame t.tag with
    | none => none
    | some fr => match (fr.inst t.tag.space.toNat).bind (·.parent) with
      | some (q, i) => if t.run = 0 then some [{ t with tag := { t.tag with space := BitVec.ofNat 8 q, iter := BitVec.ofNat 16 i }, span := 0 }] else none
      | none => none

/-! ### Ending a firing -/

/-- The firing as an operation, for the records of a fault (R354). -/
def Fire.asOp (x : Fire) (book : Nat := 0) (fl : Nat := 0) : Op :=
  { id := x.f.id, kind := .mem, fir := x.f, instr := x.n, opc := x.opc, cap := x.cap, book := book, flags := fl }

/-- Fault(cause) (R7): the firing ends with no further effect. -/
def Fire.fault (x : Fire) (s : State) (cause : Nat) (addr : Nat := 0) (async : Bool := false) (code : Nat := 0)
    (book : Nat := 0) (fl : Nat := 0) : State :=
  s.raise x.f.tag.ctx 0 (faultRec s x.f (im x.n) book cause addr async code) (some (x.asOp book fl))

/-- Put one token into the output buffer for the destinations of an output, with the class of R38 and R116. -/
def Fire.put (x : Fire) (s : State) (out : Nat) (t : Tok) : State :=
  let ds := (x.f.img.dests).filter fun d => x.outputs == 1 || d.1 == out
  let c := if x.n.cf then x.n.cls.toNat else s.effClass (x.own s)
  let cls (d : Nat) : Nat := if x.opc = 0x002 ∧ x.n.cf then (if d = 0 then c else field (md x.n) (2 * d - 1) (2 * d - 2)) else c
  let t := { t with cls := BitVec.ofNat 2 c, deps := s.live t.deps }
  let s := s.emitTo x.f.n x.f.elem x.f.slot t (ds.map fun d => (d.1, d.2, cls d.1))
  if t.isErr && causeIn t.data != 0 && nodeIn t.data == x.f.img.nodeid.toNat && absorbedOf t.data == 0 then
    s.count x.f.tag.ctx x.f.n x.f.elem 0x0D 1
  else s

/-- The tokens that an output becomes, TAGOP applied. -/
def Fire.tagged (x : Fire) (s : State) (o : Out) : Option (List Tok) :=
  if o.keepTag then some [o.tok] else x.tagop s o.tok

/-- TAGOP finds its instance for every one of some outputs: their emission does not end in Fault. -/
def Fire.emitsAll (x : Fire) (s : State) (os : List Out) : Bool := os.all fun o => (x.tagged s o).isSome

/-- Emit outputs in order, TAGOP applied; a TAGOP that finds no instance is a halting fault TAGSPACE, which ends the firing
(R7, R207). -/
def Fire.emitAll (x : Fire) (s : State) : List Out → State
  | [] => s
  | o :: r => match x.tagged s o with
    | none => x.fault s 0x0006
    | some ts => x.emitAll (ts.foldl (fun s t => x.put s o.out t) s) r

/-- Iterations beyond the first that the tokens of an output cover (R89, log 44). -/
def spanOf (os : List Out) (j : Nat) : Nat :=
  let ts := (os.filter (·.out == j)).map (·.tok)
  match ts with
  | [] => 0
  | t :: _ => min 31 (ts.foldl (fun m u => max m ((iterDiff t.tag.iter u.tag.iter).toNat + u.reach)) 1 - 1)

/-- An error token on every output (R88, R89), each at the tag of the token it replaces. -/
def Fire.errOuts (x : Fire) (cause addr : Nat) (os : List Out := []) : List Out :=
  (List.range x.outputs).map fun j => match os.find? (·.out == j) with
    | some o => { out := j, keepTag := o.keepTag, tok := { x.errTok cause addr with tag := o.tok.tag, span := spanOf os j } }
    | none => { out := j, tok := x.errTok cause addr }

/-- The order cap K (R168). -/
def Fire.capK (x : Fire) : Nat := x.cap.cap.toNat

/-- A token with the coefficients above order `k` dropped (R169). -/
def Tok.upTo (t : Tok) (k : Nat) : Tok :=
  if t.jet.toNat ≤ k then t
  else { t with jet := BitVec.ofNat 3 k, data := t.data.take ((k + 1) * t.len * t.esize) }

/-- The data ports of the firing's node (R98). -/
def Fire.dataPorts (x : Fire) : List Nat :=
  match rowOf x.opc with
  | some r => (((r.ports x.n).zipIdx).filter (·.1 == .data)).map (·.2)
  | none => []

/-- The firing with its data operands capped at K on a jet lane (R169). -/
def Fire.capped (x : Fire) : Fire :=
  { x with f := { x.f with inputs := x.f.inputs.map fun t =>
    if x.n.lane == .jet && x.dataPorts.contains t.port.toNat then t.upTo x.capK else t } }

/-- A jet operand meets a firing whose K is 0 (R170). -/
def Fire.jetClash (x : Fire) : Bool :=
  x.n.lane == .jet && x.capK == 0 && x.f.inputs.any fun t => t.jet != 0 && x.dataPorts.contains t.port.toNat

/-- What a firing emits once its flags are set (R87, R88): outputs, error tokens in their place, or the halting fault. -/
def Fire.ends (x : Fire) (s : State) (os : List Out) (fl : Nat) (addr : Nat := 0) : State :=
  match verdict x.cap fl with
  | .halt c => x.fault s c addr (fl := fl)
  | .token c => x.emitAll s (x.errOuts c addr os)
  | .go => x.emitAll s os

/-- The end of a firing (R7, R87, R88): flags, then outputs, error tokens in their place, or the halting fault. -/
def Fire.finish (x : Fire) (s : State) (os : List Out) (fl : Nat) (addr : Nat := 0) : State :=
  x.ends (s.setFlags x.f.tag.ctx x.cap (x.n.lane == .jet) fl) os fl addr

/-- The firing ends by Fault (R7): a class whose disposition is HALT acts. -/
def Fire.halts (x : Fire) (fl : Nat) : Bool := match verdict x.cap fl with | .halt _ => true | _ => false

/-- What `fail` emits once its flag is set. -/
def Fire.failEnds (x : Fire) (s : State) (cls : Nat) (addr : Nat) : State :=
  match verdict x.cap (flag cls 0) with
  | .halt c => x.fault s c addr
  | _ => x.emitAll s (x.errOuts (causeOf cls) addr)

/-- As `finish`, where the instruction has no default result: an error token whatever the disposition but HALT (R45, R226). -/
def Fire.fail (x : Fire) (s : State) (cls : Nat) (addr : Nat := 0) : State :=
  x.failEnds (s.setFlags x.f.tag.ctx x.cap (x.n.lane == .jet) (flag cls 0)) cls addr

/-- Graph order of a node of the firing's folio (R29). -/
def Fire.rank (x : Fire) (s : State) (node : Nat) : Nat :=
  match x.own s with
  | some (g, _, _) => (g.order.findIdx? (· == node)).getD node
  | none => node

/-- The error token that a matched set forwards (R110): the earliest node in graph order, then the lowest port. -/
def Fire.firstErr (x : Fire) (s : State) : Option Tok :=
  leastBy (fun a b => let i := x.rank s (nodeIn a.data); let j := x.rank s (nodeIn b.data);
      i < j || (i == j && a.port.toNat < b.port.toNat)) (x.f.inputs.filter (·.isErr))

/-- A copy of an error token at the matched tag (R110), which stands for what the error tokens of the set do. -/
def Fire.forwardTok (x : Fire) (e : Tok) : Tok :=
  { x.tok .X 1 0 e.data with span := if elementwise x.opc && x.opc != 0x010 && x.opc != 0x00F then
      (x.f.inputs.filter (·.isErr)).foldl (fun a t => max a t.span) x.outSpan else x.outSpan }

/-- Forward an error token to every output (R110). -/
def Fire.forward (x : Fire) (s : State) (e : Tok) : State :=
  x.emitAll s ((List.range x.outputs).map fun j => { out := j, tok := x.forwardTok e })

/-- The context of a firing is a supervisor context. -/
def Fire.sup (x : Fire) (s : State) : Bool := (s.ctx x.f.tag.ctx).sup

/-- The node is a supervisor instruction in this form (R45). -/
def Fire.needsSup (x : Fire) : Bool :=
  match rowOf x.opc with
  | some r => r.sup x.n
  | none => false

/-- The frame of a node instruction: the loaded matched set is consumed, the modes are captured, an error token is
forwarded unless the instruction has its own rule (`errs`), a supervisor instruction is checked (R45), and the body acts. -/
def fire (opc : Nat) (n : Node) (s : State) (errs : Bool) (body : Fire → State → State) :
    Host.Outcome State Fault Refusal :=
  match s.firing with
  | none => .fault .noMatchedSet
  | some f =>
    let x : Fire := { f := f, n := n, opc := opc, cap := s.capture f n }
    let s := { s with firing := none }
    .next (match (if errs then none else x.firstErr s) with
      | some e => x.forward s e
      | none => if x.needsSup && !x.sup s then x.fail s clsPROT else body x s)

/-- The exception of R170 on a firing that moves its data operands. -/
def Fire.jetFlag (x : Fire) : Nat := if x.jetClash then flag clsFMT 0 else 0

/-- An instruction that moves its data operands: they come capped at K (R169), and where K is 0 a jet raises FMT, its c_0 alone
being read if the firing goes on (R170). -/
def Fire.moved (x : Fire) (s : State) (body : Fire → State → State) : State :=
  if x.jetClash then
    match verdict x.cap x.jetFlag with
    | .go => s.owes (body x.capped s) x.f x.cap true x.jetFlag
    | _ => x.finish s [] x.jetFlag
  else body x.capped s

/-- The frame of an instruction that moves its data operands. -/
def fireMove (opc : Nat) (n : Node) (s : State) (errs : Bool) (body : Fire → State → State) :
    Host.Outcome State Fault Refusal :=
  fire opc n s errs fun x s => x.moved s body

/-- The frame of an instruction that writes its jets out, each at its own order (R270, R281); where K is 0, its c_0 alone (R170). -/
def fireStore (opc : Nat) (n : Node) (s : State) (body : Fire → State → State) : Host.Outcome State Fault Refusal :=
  fire opc n s false fun x s => x.moved s fun y s => body (if x.capK = 0 then y else x) s

/-- As `firePure`, of an instruction that moves its data operands. -/
def moveData (opc : Nat) (n : Node) (s : State) (body : Fire → State → List Out × Nat) :
    Host.Outcome State Fault Refusal :=
  fire opc n s false fun x s => let r := body x.capped s; x.finish s r.1 (r.2 ||| x.jetFlag)

/-- A node instruction whose body only computes outputs and exceptions. -/
def firePure (opc : Nat) (n : Node) (s : State) (body : Fire → State → List Out × Nat) :
    Host.Outcome State Fault Refusal :=
  fire opc n s false fun x s => let r := body x s; x.finish s r.1 r.2

end Sys2Proof.Machine
end

