-- ==== Sys2Proof/Machine/Matching.lean ====
section
/-! DEFINITION. The concordance (R98 to R107, R113): ports of a slot, acceptance and format steering, entries and the
stacks, and the forming of matches: pairs by range (R100), whole matches, blocks and groups (R123, R127), reordering (R279). -/

namespace Sys2Proof.Machine

/-- What a configured slot is: opcode, row and node (its destinations stand in the slot's own fields). -/
def Slot.info (x : Slot) : Option (Nat × Row × Node) :=
  match rowOf (field x.iw.toNat 63 55), fieldsOf x.iw.toNat [] with
  | some r, some n => some (field x.iw.toNat 63 55, r, n)
  | _, _ => none

/-- A slot of an element. -/
def Elem.slot (e : Elem) (k : Nat) : Slot := Assoc.get {} e.slots k

/-- The token-fed ports of a node with their kinds: operands, then the ordering port (R39, R100). SMAXT's ARITY 1 counts its
data port beside the immediate (R161). -/
def tokenPorts (r : Row) (n : Node) : List (Nat × PortKind) :=
  ((List.range (n.arity.toNat - (if r.opc = 0x1A5 then 0 else ofBool n.immp))).map fun p => (p, ((r.ports n)[p]?).getD .data)) ++
  (if r.ordPort n then [(3, .control)] else [])

/-- How a slot matches. -/
inductive MatchRule where
  | each | pairs | whole | block (size : Nat) | scan (size : Nat) | reord
  deriving DecidableEq, Repr

/-- The matching rule of a node (R100, R119, R123, R127, R145, R161, R162, R164, R230, R270, R279, R394). -/
def matchRule (opc : Nat) (n : Node) : MatchRule :=
  let grp : Bool := bitOf (im n) 5
  if opc = 0x004 then .each
  else if opc = 0x00F then .block (field (md n) 4 0 + 1)
  else if opc = 0x0A3 then .block 64
  else if (opc = 0x011 ∨ opc = 0x1A6) ∧ grp then .block (2 ^ field (im n) 4 0)
  else if opc = 0x1A5 then .block (2 ^ field (md n) 3 0)
  else if opc = 0x012 ∧ grp then .scan (2 ^ field (im n) 4 0)
  else if opc = 0x131 then .reord
  else if opc = 0x1A1 ∨ opc = 0x123 ∨ opc = 0x18A ∨ opc = 0x18B ∨ (0x100 ≤ opc ∧ opc ≤ 0x10B) then .whole
  else .pairs

/-- The block or group of an iteration: its first iteration. -/
def baseOf (size : Nat) (i : BitVec 16) : Nat := i.toNat - i.toNat % size

/-- A stand-in firing for a fault at a slot that no firing raised: the token's tag and the slot's image. -/
def State.atSlot (s : State) (n elem slot : Nat) (t : Tok) : Firing :=
  { n := n, elem := elem, slot := slot, tag := t.tag, img := (s.elem n elem).slot slot }

/-- A halting fault at a slot (R102, R107, R47). -/
def State.slotFault (s : State) (n elem slot : Nat) (t : Tok) (cause : Nat) : State :=
  let f := s.atSlot n elem slot t
  s.raise t.tag.ctx 0 (faultRec s f (field f.img.iw.toNat 31 0) 0 cause 0 false 0)

/-! ### Entries, quota and stacks -/

/-- The gathered block that an entry shares its concordance entries with: its first iteration, and whether the block shares
one entry for each 32 elements (REORD, R279) and not one in all (JOIN and GPACK, R123, R145). -/
def Elem.sharedBlock (e : Elem) (x : Entry) : Option (Nat × Bool) :=
  match (e.slot x.slot).info with
  | some (opc, _, nd) => match matchRule opc nd with
    | .block z => if opc = 0x00F ∨ opc = 0x0A3 then some (baseOf z x.tok.tag.iter, false) else none
    | .reord => some (0, true)
    | _ => none
  | none => none

/-- A REDUCE or ARGMX group that its fold has reached up to this entry: the entry waits no longer (R127). -/
def Elem.reached (e : Elem) (x : Entry) : Bool :=
  match (e.slot x.slot).info with
  | some (opc, _, nd) => match matchRule opc nd with
    | .block z =>
      let base := baseOf z x.tok.tag.iter
      let before := e.conc.filter fun y => y.slot == x.slot && y.tok.tag.sameKey x.tok.tag && y.tok.port == 0 &&
        baseOf z y.tok.tag.iter == base && y.tok.tag.iter.toNat < x.tok.tag.iter.toNat
      (opc == 0x011 || opc == 0x1A6) && before.foldl (fun a y => a + y.tok.reach) 0 == x.tok.tag.iter.toNat - base
    | _ => false
  | none => false

/-- What tells the shared entry of a block of JOIN, GPACK or REORD: slot, key, block, and whether it is REORD's. -/
def Elem.mark (e : Elem) (x : Entry) : Option (Nat × Nat × Nat × Bool) :=
  (e.sharedBlock x).map fun b => (x.slot, x.tok.tag.bits / 65536, b.1, b.2)

/-- The entries that stand in one concordance entry with an entry: the elements of its block of JOIN or GPACK (R123, R145),
else itself alone. -/
def Elem.mates (e : Elem) (x : Entry) : List Entry :=
  match e.mark x with
  | some (k, t, b, false) => e.conc.filter fun y => e.mark y == some (k, t, b, false)
  | _ => [x]

/-- Entries that tokens hold, with what a block of JOIN, GPACK or REORD shares counted as its rule gives. -/
def Elem.entries (e : Elem) (xs : List Entry) : Nat :=
  let blocks := (xs.filterMap e.mark).eraseDups
  (xs.filter fun x => (e.mark x).isNone && !e.reached x).length +
    (blocks.map fun b => if b.2.2.2 then ((xs.filter fun x => e.mark x == some b).foldl (fun a x => a + x.tok.len) 0 + 31) / 32 else 1).foldl
      (· + ·) 0

/-- The entries that an element may hold (R14, R104): its quota, of the 256 there are. -/
def Elem.quota (e : Elem) : Nat := min 256 e.equota.toNat

/-- Entries that a matched set holds until its firing ends (R113): one for a gathered block of JOIN, GPACK or REORD, else one
for each token. -/
def Elem.held (e : Elem) (f : Firing) : Nat :=
  match (e.slot f.slot).info with
  | some (opc, _, _) => if opc = 0x00F ∨ opc = 0x0A3 ∨ opc = 0x131 then 1 else f.inputs.length
  | none => f.inputs.length

/-- The operations whose firing runs at an element. -/
def State.opsAt (s : State) (n elem : Nat) : List Op := s.ops.filter fun o => o.fir.n == n && o.fir.elem == elem

/-- Concordance entries that WAITING tokens hold, the trigger of a deferred slot read (R202) among them: what the quota of R104
is held against (R425 to R427, log 54). -/
def State.waiting (s : State) (n elem : Nat) : Nat :=
  let e := s.elem n elem
  e.entries (e.conc.filter (!·.spilled)) + ((s.opsAt n elem).filter (·.kind == .slotRead)).length

/-- Concordance entries in use (R113): besides the WAITING ones those of MATCHED tokens whose firing has not ended, one whose last
Emit waits included. A refill finds an entry free only beside all of them (R105). -/
def State.occupancy (s : State) (n elem : Nat) : Nat :=
  let e := s.elem n elem
  s.waiting n elem + (e.ready.map e.held).foldl (· + ·) 0 + (e.emitq.map fun o => match o.late with | some l => l.hold | none => 0).foldl (· + ·) 0 +
    (((s.opsAt n elem).filter (·.kind != .slotRead)).map fun o => e.held o.fir).foldl (· + ·) 0

/-- Bytes of token-buffer space that pipes homed on a core set aside (R300). -/
def State.pipeSpace (s : State) (n : Nat) : Nat :=
  s.groups.foldl (fun a g => if g.state == .drained then a else
    g.pipes.foldl (fun a p => if p.home = n then a + p.cap * 320 else a) a) 0

/-- Whether the WAITING and MATCHED payloads over 64 bytes fit the core's token-buffer granules beside the pipes (R57, R104). -/
def State.payloadRoom (s : State) (n : Nat) : Bool :=
  let big (a : Nat) (t : Tok) : Nat := if 64 < t.data.length then a + t.data.length else a
  let used := (List.range 90).foldl (fun a e =>
    let x := s.elem n e
    let a := (x.conc.filter (!·.spilled)).foldl (fun a y => big a y.tok) a
    x.ready.foldl (fun a f => f.inputs.foldl big a) a) 0
  let used := (s.ops.filter (·.fir.n == n)).foldl (fun a o => o.fir.inputs.foldl big a) used
  used + s.pipeSpace n ≤ field (s.core n).partw.toNat 31 24 * 65536

/-- An element within its quota, and its core's payload space where `big`. -/
def State.fits (s : State) (n elem : Nat) (big : Bool) : Bool :=
  s.waiting n elem ≤ (s.elem n elem).quota && (!big || s.payloadRoom n)

/-- The acceptance number of the concordance entry of a token: that of the first element of its block. -/
def Elem.entrySeq (e : Elem) (x : Entry) : Nat := (e.mates x).foldl (fun a y => min a y.seq) x.seq

/-- A token of the most recently accepted WAITING entry; over the payload space alone, of those with a payload over 64 bytes. -/
def State.newest (s : State) (n elem : Nat) : Option Entry :=
  let e := s.elem n elem
  let full := e.quota < s.waiting n elem
  leastBy (fun a b => e.entrySeq b < e.entrySeq a) (e.conc.filter fun x => !x.spilled && !e.reached x && (full || 64 < x.tok.data.length))

/-- Spill the most recently accepted entries until the element is within quota and its payloads have room (R104, R105), the
elements of a block with the entry that they share; a token that finds the stacks full is dropped with a RESIDENCY fault (R107). -/
def State.settle (s : State) (n elem : Nat) (big : Bool) : Nat → State
  | 0 => s
  | fuel + 1 =>
    if s.fits n elem big then s
    else match s.newest n elem with
      | none => s
      | some x =>
        let e := s.elem n elem
        let out := (e.mates x).filter (!·.spilled)
        let s := if e.entries (out ++ e.conc.filter (·.spilled)) ≤ e.sshare.toNat then
            (s.setElem n elem { e with conc := e.conc.map fun y => if out.any (·.seq == y.seq) then { y with spilled := true } else y }).count
              x.tok.tag.ctx n elem 0x08 out.length
          else (s.setElem n elem { e with conc := e.conc.filter (·.seq != x.seq) }).slotFault n elem x.slot x.tok 0x0007
        s.settle n elem big fuel

/-- Settle an element, whatever it holds. -/
def State.settleAll (s : State) (n elem : Nat) (big : Bool) : State := s.settle n elem big ((s.elem n elem).conc.length + 1)

/-- Put an entry into the concordance; an element of a block whose entry is SPILLED joins it there (R123). -/
def State.addEntry (s : State) (n elem slot : Nat) (t : Tok) : State :=
  let (id, s) := s.newId
  s.modElem n elem fun e =>
    let x : Entry := { slot := slot, spilled := false, seq := id, tok := t }
    { e with conc := e.conc ++ [{ x with spilled := (e.mates x).any fun y => y.seq != id && y.spilled }] }

/-- Accept a token: it becomes WAITING where there is room, else SPILLED (R104). -/
def State.acceptTok (s : State) (n elem slot : Nat) (t : Tok) : State :=
  (s.addEntry n elem slot t).settleAll n elem (64 < t.data.length)

/-- The pieces of an entry before `off` and from `off + k` on (R103). -/
def Entry.pieces (x : Entry) (off k : Nat) : List Tok :=
  if x.tok.isErr then []
  else (if 0 < off then [x.tok.slice 0 off] else []) ++
    (if off + k < x.tok.len then [x.tok.slice (off + k) (x.tok.len - off - k)] else [])

/-- Replace entries, each with the offset and the length that a match takes of it, by the pieces that are left, tokens with
entries of their own (R103); they come in window order (R425). -/
def State.cutEntries (s : State) (n elem slot : Nat) (cuts : List (Entry × Nat × Nat)) : State :=
  let s := s.modElem n elem fun e => { e with conc := e.conc.filter fun x => !cuts.any (·.1.seq == x.seq) }
  let left := cuts.flatMap fun c => c.1.pieces c.2.1 c.2.2
  (left.mergeSort fun a b => !iterBefore b.tag.iter a.tag.iter).foldl (fun s t => s.addEntry n elem slot t) s

/-! ### Forming matches -/

/-- Entries, one for each port, that cover an iteration of a key. -/
def entriesAt (conc : List Entry) (slot : Nat) (key : Tag) (ports : List Nat) (it : BitVec 16) : Option (List Entry) :=
  ports.mapM fun p => conc.find? fun x =>
    x.slot == slot && x.tok.port.toNat == p && x.tok.tag.sameKey key && x.tok.covers it

/-- Offset of an iteration in a token. -/
def Tok.offset (t : Tok) (it : BitVec 16) : Nat := (iterDiff t.tag.iter it).toNat

/-- Length of the range matched from an iteration on (R100, R111): up to the lowest last iteration among the entries that
are no error tokens. -/
def matchedLen (es : List Entry) (it : BitVec 16) : Nat :=
  match (es.filter (!·.tok.isErr)).map fun x => x.tok.len - x.tok.offset it with
  | [] => 1
  | k :: r => r.foldl min k

/-- Record a matched set: a firing that is ready. -/
def State.ready (s : State) (n elem slot : Nat) (tag : Tag) (len : Nat) (inputs : List Tok) (part : Nat) (seq : Nat := 0) : State :=
  let (id, s) := s.newId
  let f : Firing := { id := id, n := n, elem := elem, slot := slot, tag := tag, len := len, inputs := inputs,
                      ready := s.cycle, part := part, seq := seq }
  s.modElem n elem fun e => { e with ready := e.ready ++ [f] }

/-- Take the pieces of a match out of their entries and make the firing ready; heads and tails take entries of their own
(R104). -/
def State.form (s : State) (n elem slot : Nat) (es : List Entry) (it : BitVec 16) (k : Nat) : State :=
  let pieces := es.map fun x => if x.tok.isErr then x.tok else x.tok.slice (x.tok.offset it) k
  let s := s.cutEntries n elem slot (es.map fun x => (x, x.tok.offset it, k))
  match pieces with
  | [] => s
  | p :: _ => (s.ready n elem slot (p.tag.atIter it) k pieces 0 (es.foldl (fun a x => min a x.seq) s.fresh)).settleAll n elem true

/-- Take whole entries and make the firing ready. -/
def State.formWhole (s : State) (n elem slot : Nat) (es : List Entry) (tag : Tag) (len part : Nat) : State :=
  let s := es.foldl (fun s x => s.modElem n elem fun e => { e with conc := e.conc.filter (·.seq != x.seq) }) s
  s.ready n elem slot tag len (es.map (·.tok)) part

/-- The entries that cover a block or group from its first iteration to its last or to an EOS, in ascending order; an error token
covers what it replaced (R93, R421, log 44). -/
def coverFrom (conc : List Entry) (slot : Nat) (key : Tag) (base size : Nat) : Nat → Nat → Option (List Entry)
  | 0, _ => none
  | fuel + 1, off =>
    if size ≤ off then some []
    else match conc.find? fun x => x.slot == slot && x.tok.port == 0 && x.tok.tag.sameKey key &&
        x.tok.tag.iter == BitVec.ofNat 16 (base + off) with
      | none => none
      | some x => if x.tok.eos then some [x] else (coverFrom conc slot key base size fuel (off + x.tok.reach)).map (x :: ·)

/-- Remember an emitted block of a key, and forget those half the circle back (R102). -/
def Elem.close (e : Elem) (slot : Nat) (tag : Tag) (base : Nat) : Elem :=
  { e with closed := (slot, tag.atIter 0, base) :: e.closed.filter fun c =>
      c.1 != slot || c.2.1 != tag.atIter 0 || 0 ≤ iterDiff (BitVec.ofNat 16 c.2.2) (BitVec.ofNat 16 base) }

/-- A true predicate element somewhere in a token. -/
def Tok.anyTrue (t : Tok) : Bool := (List.range t.len).any fun k => (t.data.drop (4 * k)).take 4 != [0, 0, 0, 0]

/-- An EXPD mask without a true element: it stands alone (R164). -/
def Tok.emptyMask (t : Tok) : Bool := t.port == 0 && !t.isErr && !t.anyTrue

/-- The match of a whole token with those of equal key and ITER; an EXPD mask without a true element stands alone, and no data
token pairs with it (R164). -/
def wholeAt (opc : Nat) (conc : List Entry) (slot : Nat) (ports : List Nat) (x : Entry) : Option (List Entry) :=
  if opc = 0x1A1 ∧ x.tok.emptyMask = true then some [x]
  else
    let es := ports.mapM fun p => conc.find? fun y =>
      y.slot == slot && y.tok.port.toNat == p && y.tok.tag.sameKey x.tok.tag && y.tok.tag.iter == x.tok.tag.iter
    es.filter fun l => opc != 0x1A1 || !l.any (·.tok.emptyMask)

/-- The map f of a REORD descriptor (R278). -/
def reordMap (w0 w1 o : Nat) : Nat :=
  let a := field w0 11 0 + 1
  let b := field w0 23 12 + 1
  (o % a) * field w1 15 0 + (o / a % b) * field w1 31 16 + (o / (a * b)) * field w1 47 32

/-- T of a REORD descriptor. -/
def reordSize (w0 : Nat) : Nat := (field w0 11 0 + 1) * (field w0 23 12 + 1) * (field w0 35 24 + 1)

/-- The descriptor of a REORD slot, from the constant pool of the group that holds it. -/
def State.reordDesc (s : State) (ctx : BitVec 6) (n elem slot : Nat) (nd : Node) : Nat × Nat :=
  match s.instAt ctx n elem slot with
  | some (g, _, _) => (leNat ((g.pool.drop (im nd)).take 8), leNat ((g.pool.drop (im nd + 8)).take 8))
  | none => (0, 0)

/-- A REORD element that was never delivered: +0 (R279). -/
def zeroElem (key : Tag) (it : BitVec 16) (w : Nat) : Tok := { tag := key.atIter it, data := List.replicate w 0 }

/-- Bytes of an element of a REORD node. -/
def reordWidth (n : Node) : Nat := if n.fmt = .I then 2 ^ field (md n) 4 3 else n.fmt.size

/-- Output elements of a REORD block that can be emitted now, from index `o` on (R279): each with the entry that holds it,
none for one that reads as +0. -/
def reordRun (conc : List Entry) (slot : Nat) (key : Tag) (base w0 w1 : Nat) (zero : Nat → Bool) :
    Nat → Nat → List (Option Entry × BitVec 16)
  | 0, _ => []
  | fuel + 1, o =>
    let it := BitVec.ofNat 16 (base + reordMap w0 w1 o)
    let x := conc.find? fun x => x.slot == slot && x.tok.tag.sameKey key && !x.tok.isErr && x.tok.covers it
    if o < reordSize w0 && (x.isSome || zero (reordMap w0 w1 o)) then (x, it) :: reordRun conc slot key base w0 w1 zero fuel (o + 1) else []

/-- Index of the next output element of a REORD block, and whether the block is closed. -/
def Elem.reordNext (e : Elem) (slot : Nat) (key : Tag) (base : Nat) : Nat × Bool :=
  match e.reord.find? fun r => r.1 == slot && r.2.1 == key.atIter 0 && r.2.2.1 == base with
  | some r => (r.2.2.2 / 2, r.2.2.2 % 2 == 1)
  | none => (0, false)

/-- Note the next output element of a REORD block and whether it is closed; a finished block is forgotten. -/
def Elem.reordSet (e : Elem) (slot : Nat) (key : Tag) (base size next : Nat) (shut : Bool) : Elem :=
  { e with reord := (if next < size then [(slot, key.atIter 0, base, 2 * next + ofBool shut)] else []) ++
      e.reord.filter fun r => !(r.1 == slot && r.2.1 == key.atIter 0 && r.2.2.1 == base) }

/-- A REORD block is closed: every element up to the one that carries EOS is there, or was emitted. -/
def Elem.reordShut (e : Elem) (slot : Nat) (key : Tag) (base w0 w1 : Nat) : Bool :=
  let (o, shut) := e.reordNext slot key base
  let done := (List.range o).map (reordMap w0 w1)
  shut || e.notes.any fun m => m.1 == slot && m.2.1 == key.atIter 0 && baseOf (reordSize w0) (BitVec.ofNat 16 m.2.2) == base &&
    (List.range (m.2.2 + 1 - base)).all fun i => done.contains i ||
      e.conc.any fun y => y.slot == slot && y.tok.tag.sameKey key && !y.tok.isErr && y.tok.covers (BitVec.ofNat 16 (base + i))

/-- Form the REORD output that is ready for a block, one token of up to 32 elements; the last one of a closed block
carries EOS. -/
def State.formReord (s : State) (n elem slot : Nat) (nd : Node) (key : Tag) (base : Nat) : Option State :=
  let (w0, w1) := s.reordDesc key.ctx n elem slot nd
  let e := s.elem n elem
  let (o, _) := e.reordNext slot key base
  let shut := e.reordShut slot key base w0 w1
  let run := reordRun e.conc slot key base w0 w1 (fun _ => shut) 32 o
  if run.isEmpty then none
  else
    let fin := reordSize w0 ≤ o + run.length
    let toks := run.mapIdx fun k r =>
      let eos := fin && shut && k + 1 == run.length
      match r.1 with
      | some x => { x.tok.slice (x.tok.offset r.2) 1 with eos := eos }
      | none => { zeroElem key r.2 (reordWidth nd) with eos := eos }
    let s := run.foldl (fun s r => match (s.elem n elem).conc.find? fun y =>
        y.slot == slot && y.tok.tag.sameKey key && !y.tok.isErr && y.tok.covers r.2 with
      | some y => s.cutEntries n elem slot [(y, y.tok.offset r.2, 1)]
      | none => s) s
    let s := s.modElem n elem fun e => e.reordSet slot key base (reordSize w0) (o + run.length) shut
    let s := if fin then s.modElem n elem fun e => { e.close slot key base with
        notes := e.notes.filter fun m => !(m.1 == slot && m.2.1 == key.atIter 0 && baseOf (reordSize w0) (BitVec.ofNat 16 m.2.2) == base) }
      else s
    some (s.ready n elem slot (key.atIter (BitVec.ofNat 16 (base + o))) run.length toks base)

/-- The entries that a STX stores with, for a data entry: address and data of one ITER whole, and the ordering token that covers
them, which is split as R100 gives (R255, R270). -/
def storeAt (mine : List Entry) (d : Entry) : Option (List Entry) :=
  let last := if d.tok.isErr then d.tok.tag.iter else d.tok.tag.iter + BitVec.ofNat 16 d.tok.run.toNat
  match mine.find? (fun a => a.tok.port == 0 && a.tok.tag.iter == d.tok.tag.iter),
      mine.find? (fun o => o.tok.port == 3 && o.tok.covers d.tok.tag.iter && (o.tok.isErr || o.tok.covers last)) with
  | some a, some o => some [a, d, o]
  | _, _ => none

/-- A STX with an ordering port. -/
def storesInOrder (opc : Nat) (ports : List Nat) : Bool := opc == 0x123 && ports.contains 3

/-- The matches that the entries of a slot and key make possible, WAITING and SPILLED alike (R101), of the rules that do not
gather: each with its first iteration. -/
def candidates (conc : List Entry) (slot opc : Nat) (rule : MatchRule) (ports : List Nat) (key : Tag) : List (BitVec 16 × List Entry) :=
  let mine := conc.filter fun x => x.slot == slot && x.tok.tag.sameKey key
  mine.filterMap fun x =>
    let es := match rule with
      | .each => some [x]
      | .pairs => entriesAt mine slot key ports x.tok.tag.iter
      | .whole => if storesInOrder opc ports then (if x.tok.port = 1 then storeAt mine x else none) else wholeAt opc mine slot ports x
      | _ => none
    es.map fun l => (x.tok.tag.iter, l)

/-- Two matches take of one entry. -/
def sharesEntry (a b : List Entry) : Bool := a.any fun x => b.any (·.seq == x.seq)

/-- The match that forms next: one whose entries complete no other match that begins before it in window order (R101), and whose
entries may be used. -/
def nextMatch (usable : List Entry → Bool) (cs : List (BitVec 16 × List Entry)) : Option (BitVec 16 × List Entry) :=
  cs.find? fun c => usable c.2 && cs.all fun d => !(sharesEntry c.2 d.2 && iterBefore d.1 c.1)

/-- Form a match of a rule that does not gather. -/
def State.formMatch (s : State) (n elem slot opc : Nat) (rule : MatchRule) (ports : List Nat) (it : BitVec 16) (es : List Entry) : State :=
  match rule, es with
  | .pairs, es => s.form n elem slot es it (matchedLen es it)
  | .whole, [a, d, o] =>
    if storesInOrder opc ports then
      let len := if a.tok.isErr || d.tok.isErr || o.tok.isErr then 1 else d.tok.len
      let off := o.tok.offset d.tok.tag.iter
      let piece := if o.tok.isErr then o.tok else o.tok.slice off len
      let s := s.cutEntries n elem slot [(a, 0, 32), (d, 0, 32), (o, off, len)]
      (s.ready n elem slot d.tok.tag len [a.tok, d.tok, piece] 0).settleAll n elem true
    else s.formWhole n elem slot es a.tok.tag (if es.any (·.tok.isErr) then 1 else
      es.foldl (fun m y => if y.tok.port = 3 then m else max m y.tok.len) 1) 0
  | .whole, x :: _ => s.formWhole n elem slot es x.tok.tag (if es.any (·.tok.isErr) then 1 else
      es.foldl (fun m y => if y.tok.port = 3 then m else max m y.tok.len) 1) 0
  | _, x :: _ => s.formWhole n elem slot es x.tok.tag x.tok.len 0
  | _, [] => s

/-- Form the block or group of `z` iterations from `base` on, if it is complete (R123, R127); a temperature waits for it on
port 1 (R161). -/
def State.formBlock (s : State) (n elem slot opc z : Nat) (ports : List Nat) (usable : List Entry → Bool) (key : Tag) (base : Nat) :
    Option State :=
  let e := s.elem n elem
  match coverFrom e.conc slot key base z (z + 1) 0 with
  | none => none
  | some es =>
    let more := if ports.contains 1 then
        (e.conc.find? fun x => x.slot == slot && x.tok.port == 1 && x.tok.tag.sameKey key && x.tok.run == 0 &&
          x.tok.tag.iter.toNat == base).map ([·])
      else some []
    match more with
    | none => none
    | some m =>
      if usable (es ++ m) then
        let len := es.foldl (fun a y => a + y.tok.len) 0
        let s := s.formWhole n elem slot (es ++ m) (key.atIter (BitVec.ofNat 16 base)) len base
        some (if (opc = 0x00F ∨ opc = 0x0A3) ∧ es.any (·.tok.eos) = false then s else s.modElem n elem fun e => e.close slot key base)
      else none

/-- Form the next step of a SCAN's group: the token that its fold has reached (R127), or the first after what an error token
replaced. -/
def State.formScan (s : State) (n elem slot z : Nat) (usable : List Entry → Bool) (key : Tag) (base : Nat) : Option State :=
  let e := s.elem n elem
  let busy := e.ready.any fun f => f.slot == slot && f.tag.sameKey key && f.part == base
  let (next, skip) := match e.folds.find? fun f => f.slot == slot && f.tag.sameKey key && f.group == base with
    | some f => (f.next, f.skip)
    | none => (base, 0)
  let mine := e.conc.filter fun x => x.slot == slot && x.tok.tag.sameKey key && baseOf z x.tok.tag.iter == base &&
    next ≤ x.tok.tag.iter.toNat && x.tok.tag.iter.toNat ≤ next + skip
  match leastBy (fun a b => a.tok.tag.iter.toNat < b.tok.tag.iter.toNat) mine with
  | some x => if !busy && usable [x] then some (s.formWhole n elem slot [x] x.tok.tag x.tok.len base) else none
  | none => none

/-- TOPK and SAMPLE, whose ordering port stands without an edge in the folio of R440: R255, which refuses such a port of a memory
instruction, does not reach them, and their matches form from the operand ports alone (DEDUCED, log 58). -/
def mayLone (opc : Nat) : Bool := opc == 0x1A2 || opc == 0x1A3

/-- A slot's ordering port has no incoming edge in the folio of its kernel instance. -/
def State.loneOrder (s : State) (ctx : BitVec 6) (n elem slot opc : Nat) : Bool :=
  mayLone opc && match s.instAt ctx n elem slot with
    | some (g, _, _) => !g.nodes.any fun x =>
        ((destsOf x.2.toNat).getD []).any fun d => d.node == ((s.elem n elem).slot slot).nodeid && d.port == 3
    | none => false

/-- Form the next match that the entries of a slot and key make possible (R101); one that involves a SPILLED entry forms only
where `spilled` allows it (R106). -/
def State.formNext (s : State) (n elem slot opc : Nat) (r : Row) (nd : Node) (key : Tag) (spilled : Bool) : Option State :=
  let e := s.elem n elem
  let lone := s.loneOrder key.ctx n elem slot opc
  let ports := ((tokenPorts r nd).map (·.1)).filter fun p => !(lone && p == 3)
  let usable (es : List Entry) : Bool := spilled || es.all (!·.spilled)
  let bases (z : Nat) : List Nat :=
    ((e.conc.filter fun x => x.slot == slot && x.tok.tag.sameKey key).map fun x => baseOf z x.tok.tag.iter).eraseDups
  match matchRule opc nd with
  | .block z => (bases z).findSome? (s.formBlock n elem slot opc z ports usable key)
  | .scan z => (bases z).findSome? (s.formScan n elem slot z usable key)
  | .reord =>
    let z := reordSize (s.reordDesc key.ctx n elem slot nd).1
    match e.conc.find? fun x => x.slot == slot && x.tok.tag.sameKey key && x.tok.isErr with
    | some x => if usable [x] then some (s.formWhole n elem slot [x] x.tok.tag 1 0) else none
    | none => (bases z ++ ((e.reord.filter fun x => x.1 == slot && x.2.1.sameKey key).map (·.2.2.1))).eraseDups.findSome?
        (s.formReord n elem slot nd key)
  | rule => (nextMatch usable (candidates e.conc slot opc rule ports key)).map fun c => s.formMatch n elem slot opc rule ports c.1 c.2

/-- Form every match that the entries of a slot and key allow, in window order (R101). -/
def State.formAll (s : State) (n elem slot opc : Nat) (r : Row) (nd : Node) (key : Tag) (spilled : Bool) : Nat → State
  | 0 => s
  | fuel + 1 => match s.formNext n elem slot opc r nd key spilled with
    | some s => s.formAll n elem slot opc r nd key spilled fuel
    | none => s

/-- The keys of the entries of a slot. -/
def Elem.keysAt (e : Elem) (slot : Nat) : List Tag := ((e.conc.filter (·.slot == slot)).map fun x => x.tok.tag.atIter 0).eraseDups

/-- More matches than the entries of a slot can form, each entry having at most 32 elements. -/
def Elem.fuelAt (e : Elem) (slot : Nat) : Nat := 33 * ((e.conc.filter (·.slot == slot)).length + 1)

/-- Form every match that the entries of a slot allow, as after a refill, a resume or a restore (R101, R113). -/
def State.formSlot (s : State) (n elem slot : Nat) (spilled : Bool) : State :=
  match ((s.elem n elem).slot slot).info with
  | none => s
  | some (opc, r, nd) => ((s.elem n elem).keysAt slot).foldl (fun s k =>
      s.formAll n elem slot opc r nd k spilled ((s.elem n elem).fuelAt slot)) s

/-- Form the matches of a slot that involve no SPILLED entry. -/
def State.rematchSlot (s : State) (n elem slot : Nat) : State := s.formSlot n elem slot false

/-- Rematch every slot of an element. -/
def State.rematchElem (s : State) (n elem : Nat) : State :=
  (((s.elem n elem).conc.map (·.slot)).eraseDups).foldl (fun s k => s.rematchSlot n elem k) s

/-! ### Acceptance -/

/-- What a port makes of a token (R98, R99, R171, R223, R256). -/
inductive PortVerdict where
  | take (t : Tok) | refuse | fault
  deriving DecidableEq, Repr

/-- Whether a port takes a token: jets on LANE 01 alone (R171), tile references of any order at the data ports of LANE 10 (R223). -/
def portTakes (x : Slot) (nd : Node) (k : PortKind) (t : Tok) : PortVerdict :=
  if t.port = 3 then .take (if t.isErr then t else { t with fmt := .I, jet := 0, data := [] })
  else if t.isErr then .take t
  else
    let sfmt := bitOf x.sfmt.toNat t.fmt.code
    let plain : Bool := t.jet = 0 || nd.lane = .jet
    let yes (b : Bool) : PortVerdict := if b then .take t else .refuse
    match k with
    | .data => yes ((plain || nd.lane = .tile) && sfmt && (nd.fmt = .X || t.fmt = nd.fmt))
    | .pred | .tag => yes (plain && t.fmt = .I)
    | .control => .take t
    | .fix f => yes (plain && sfmt && t.fmt = f)
    | .conv => yes plain
    | .tile => if t.run = 0 then .take t else .fault

/-- GPACK's conversion-source port takes D, S, H and B (R145). -/
def convTakes (opc : Nat) (t : Tok) : Bool := opc != 0x0A3 || t.isErr || [Fmt.D, .S, .H, .B].contains t.fmt

/-- An entry on a slot and port that a token overlaps, or a block already emitted (R102, R123, R127, R279), or one of JOIN or
GPACK whose closing element waits (R123); a temperature is no element of a group (R161). -/
def State.clashes (s : State) (n elem slot opc : Nat) (nd : Node) (t : Tok) : Bool :=
  let e := s.elem n elem
  let size := match matchRule opc nd with
    | .block z | .scan z => z
    | .reord => reordSize (s.reordDesc t.tag.ctx n elem slot nd).1
    | _ => 0
  let bases := if size = 0 then [] else
    ((List.range t.len).map fun k => baseOf size (t.tag.iter + BitVec.ofNat 16 k)).eraseDups
  let joins : Bool := opc == 0x00F || opc == 0x0A3
  let shut := t.port == 0 && bases.any fun b => (e.closed.any fun c => c.1 == slot && c.2.1 == t.tag.atIter 0 && c.2.2 == b) ||
    (joins && e.conc.any fun x => x.slot == slot && x.tok.port == 0 && x.tok.tag.sameKey t.tag && x.tok.eos &&
      baseOf size x.tok.tag.iter == b && iterBefore (x.tok.tag.iter + BitVec.ofNat 16 x.tok.run.toNat) t.tag.iter)
  let given := matchRule opc nd == .reord && (bases.any fun b =>
    let (w0, w1) := s.reordDesc t.tag.ctx n elem slot nd
    (List.range (e.reordNext slot t.tag b).1).any fun o => t.covers (BitVec.ofNat 16 (b + reordMap w0 w1 o)))
  shut || given || e.conc.any fun x => x.slot == slot && x.tok.port == t.port && x.tok.overlaps t

/-- Pieces of a token, cut at the boundaries of blocks of `size` iterations; of an error token, of what it replaced (log 44). -/
def cutBlocks (size : Nat) (t : Tok) : Nat → Nat → List Tok
  | 0, _ => []
  | fuel + 1, off =>
    if t.reach ≤ off then []
    else
      let it := t.tag.iter + BitVec.ofNat 16 off
      let k := min (t.reach - off) (size - it.toNat % size)
      t.slice off k :: cutBlocks size t fuel (off + k)

/-- A frame or tag-space instance whose tokens are discarded on arrival (R112, R197). -/
def State.retired (s : State) (t : Tag) : Bool :=
  match s.frame t with
  | none => true
  | some f => f.ended || (match f.inst t.space.toNat with | some i => i.state == .closed | none => true)

/-- The pieces in which a slot takes a token: cut at block boundaries where it gathers (R123, R127, R279). -/
def State.piecesAt (s : State) (n elem slot opc : Nat) (nd : Node) (t : Tok) : List Tok :=
  match matchRule opc nd with
  | .block z | .scan z => if t.port = 0 then cutBlocks z t 33 0 else [t]
  | .reord => cutBlocks (reordSize (s.reordDesc t.tag.ctx n elem slot nd).1) t 33 0
  | _ => [t]

/-- What a REORD slot remembers of a token with EOS (R279): its last iteration. -/
def Elem.noteReord (e : Elem) (slot : Nat) (t : Tok) : Elem :=
  if t.eos then { e with notes := e.notes ++ [(slot, t.tag.atIter 0, (t.tag.iter + BitVec.ofNat 16 (t.reach - 1)).toNat)] } else e

/-- The elements that an error token replaced in a REORD read as +0 (R279): those that are not there. -/
def State.reordZeros (s : State) (n elem slot : Nat) (nd : Node) (t : Tok) : List Tok :=
  let (w0, w1) := s.reordDesc t.tag.ctx n elem slot nd
  let e := s.elem n elem
  let its := (List.range t.reach).map fun k => t.tag.iter + BitVec.ofNat 16 k
  (its.filter fun i =>
    let b := baseOf (reordSize w0) i
    !(e.conc.any (fun y => y.slot == slot && y.tok.tag.sameKey t.tag && y.tok.covers i) ||
      (List.range (e.reordNext slot t.tag b).1).any fun o => BitVec.ofNat 16 (b + reordMap w0 w1 o) == i)).map fun i =>
    { zeroElem t.tag i (reordWidth nd) with fmt := nd.fmt }

/-- A slot whose tokens match alone, in the cycle of their acceptance, so that they need no entry (R100, R113, R119). -/
def matchesAlone (opc : Nat) (r : Row) (nd : Node) : Bool :=
  match matchRule opc nd with
  | .each => true
  | .pairs | .whole => (tokenPorts r nd).length == 1
  | _ => false

/-- Put the pieces of a token into a slot (R104): entries are taken where the token does not match at once. -/
def State.acceptAll (s : State) (n elem slot : Nat) (alone : Bool) (ps : List Tok) : State :=
  ps.foldl (fun s p => if alone && !s.halted p.tag.ctx then s.addEntry n elem slot p else s.acceptTok n elem slot p) s

/-- Take a token into the concordance of a slot and form the matches it completes (R100 to R107). One that goes to the stacks
is not counted as accepted into the concordance (R444). -/
def State.enter (s : State) (n elem slot opc : Nat) (r : Row) (nd : Node) (t : Tok) : State :=
  if s.clashes n elem slot opc nd t then s.slotFault n elem slot t 0x0006
  else
    let reord := matchRule opc nd == .reord
    let from_ := s.fresh
    let s := if reord then s.modElem n elem fun e => e.noteReord slot t else s
    let ps := if reord && t.isErr then s.reordZeros n elem slot nd t else s.piecesAt n elem slot opc nd t
    let s := if reord && t.isErr then s.ready n elem slot t.tag 1 [t] 0 else s
    let s := s.acceptAll n elem slot (matchesAlone opc r nd) ps
    let s := if (s.elem n elem).conc.any (fun x => from_ ≤ x.seq && !x.spilled) then s.count t.tag.ctx n elem 0x0A 1 else s
    if s.halted t.tag.ctx then s
    else s.formAll n elem slot opc r nd t.tag false ((s.elem n elem).fuelAt slot + (if reord then 300 else 0))

/-- A token arrives at a slot (R47, R98, R99, R113): the state after it is taken or disposed of, and the route it is steered
to where its port has one. -/
def State.arrive (s : State) (n elem slot : Nat) (t : Tok) : State × Option (BitVec 32) :=
  if (s.ctx t.tag.ctx).state == .destroyed || (s.ctx t.tag.ctx).state == .free then (s, none)
  else if s.retired t.tag then (s.count t.tag.ctx n elem 0x06 1, none)
  else
    let x := (s.elem n elem).slot slot
    match x.info with
    | none => (s.slotFault n elem slot t 0x000D, none)
    | some (opc, r, nd) =>
      match (tokenPorts r nd).find? fun p => p.1 == t.port.toNat with
      | none => (s.slotFault n elem slot t 0x000D, none)
      | some (_, k) =>
        match (if k = .conv ∧ convTakes opc t = false then .refuse else portTakes x nd k t) with
        | .take t => (s.enter n elem slot opc r nd t, none)
        | .fault => (s.slotFault n elem slot t 0x000D, none)
        | .refuse =>
          let conv := match t.port.toNat with | 0 => x.conv0 | 1 => x.conv1 | _ => x.conv2
          if bitOf conv.toNat 31 then (s, some conv)
          else
            let f := s.atSlot n elem slot t
            let cap := s.capture f nd
            let s := s.setFlags t.tag.ctx cap false (flag clsFMT 0)
            match verdict cap (flag clsFMT 0) with
            | .halt c => (s.slotFault n elem slot t c, none)
            | .token c =>
              let e : Tok := { t with fmt := .X, run := 0, jet := 0, data := errPayload n x.nodeid.toNat c 0, span := t.len - 1 }
              ((s.count t.tag.ctx n elem 0x0D 1).enter n elem slot opc r nd e, none)
            | .go => (s, none)

end Sys2Proof.Machine
end

