-- ==== Sys2Proof/Machine/Memory.lean ====
section
/-! DEFINITION. Memory: cells in canonical form, the writes on their way to visibility (R284 to R288), page walks and cached
entries (R294, R378 to R383), poison (R384), access counts (R382), write-blocking (R387), and one access with its outcomes
(R254, R259, R261). -/

namespace Sys2Proof.Machine

/-! ### Cells -/

/-- What an unlisted address reads as (log 1). -/
def unlisted : Byte := 0

/-- The canonical form of memory: addresses strictly rising, no entry that reads as an unlisted address. -/
def Memory.wf (m : List Host.Cell) : Bool := Assoc.wf unlisted m

/-- Bytes of memory from an address on. -/
def Memory.read (m : List Host.Cell) (a n : Nat) : List Byte := (List.range n).map fun i => Assoc.get unlisted m (a + i)

/-- Write bytes from an address on. -/
def Memory.write (m : List Host.Cell) (a : Nat) : List Byte → List Host.Cell
  | [] => m
  | b :: r => Memory.write (Assoc.set unlisted m a b) (a + 1) r

/-- First HBM address that does not exist (R378). -/
def hbmEnd : Nat := 0x240_0000_0000

/-- Place of a physical address in the model's memory: HBM, then companion-processor memory. -/
def physKey (host : Bool) (pa : Nat) : Nat := if host then 2 ^ 63 + pa else pa

/-- Place of a scratchpad byte of a core. -/
def spmKey (n off : Nat) : Nat := 2 ^ 64 + n * 2 ^ 23 + off

/-- Place that a 64-bit physical-address field names (R379); none where reserved bits are set or HBM has no such byte. -/
def fieldKey (x len : Nat) : Option Nat :=
  if field x 62 52 != 0 then none
  else if bitOf x 63 then some (physKey true (field x 51 0))
  else if field x 51 0 + len ≤ hbmEnd then some (field x 51 0) else none

/-! ### Visibility (R285, R286) -/

/-- The level of the smallest scope that holds two cores (R257): 1 CORE, 2 QUAD, 3 DIE, 4 PKG. -/
def scopeLevel (n m : Nat) : Nat :=
  if n = m then 1 else if quadOf n = quadOf m then 2 else if dieOf n = dieOf m then 3 else 4

/-- The level that a scope code names. -/
def levelOf (scope : Nat) : Nat := min (scope + 1) 4

/-- A write is visible on a path to an issuer. -/
def Write.seenBy (w : Write) (iss : Issuer) (path : Nat) : Bool :=
  match w.issuer, iss with
  | .core m, .core n => scopeLevel m n ≤ w.levels.getD path 0
  | .host, .host => true
  | .remote a, .remote b => a == b || bitOf w.pod path
  | .host, _ => bitOf w.sys path
  | _, .host => bitOf w.sys path
  | _, _ => bitOf w.pod path

def Write.covers (w : Write) (k : Nat) : Bool := w.addr ≤ k && k < w.addr + w.data.length

def Write.overlaps (w : Write) (k len : Nat) : Bool := w.addr < k + len && k < w.addr + w.data.length

/-- A byte under writes in coherence order. -/
def foldByte (ws : List Write) (b : Byte) (k : Nat) : Byte :=
  ws.foldl (fun b w => if w.covers k then w.data.getD (k - w.addr) b else b) b

/-- Bytes of memory under some of the pending writes. -/
def State.under (s : State) (ws : List Write) (k len : Nat) : List Byte :=
  (List.range len).map fun i => foldByte ws (Assoc.get unlisted s.mem (k + i)) (k + i)

/-- What a read by an observer returns (R286). -/
def State.seen (s : State) (iss : Issuer) (path k len : Nat) : List Byte :=
  s.under (s.pend.filter fun w => w.seenBy iss path && w.overlaps k len) k len

/-- A read: what it returns, and the writes noted that it has returned (R287). -/
def State.rd (s : State) (iss : Issuer) (path k len : Nat) : List Byte × State :=
  (s.seen iss path k len,
   { s with pend := s.pend.map fun w => if w.seenBy iss path && w.overlaps k len then { w with read := true } else w })

/-- Move a write to visibility for an observer. -/
def Write.promote (w : Write) (iss : Issuer) (path : Nat) : Write :=
  match w.issuer, iss with
  | .core m, .core n => { w with levels := setAt w.levels path (max (w.levels.getD path 0) (scopeLevel m n)) }
  | .host, .host => w
  | .remote a, .remote b => if a = b then w else { w with pod := w.pod ||| 2 ^ path }
  | .host, _ => { w with sys := w.sys ||| 2 ^ path }
  | _, .host => { w with sys := w.sys ||| 2 ^ path, levels := setAt w.levels path 4 }
  | _, _ => { w with pod := w.pod ||| 2 ^ path, levels := setAt w.levels path 4 }

/-- The paths of a write's moments (R285), as a mask. -/
def allPaths : Nat := 127

/-- Writes of the companion processor that its architecture orders before one visible to the device are visible too (R297). -/
def hostOrder (ws : List Write) : List Write :=
  ws.map fun w => if w.issuer == .host && !w.loose && ws.any (fun v => v.issuer == .host && !v.loose && w.id < v.id && v.sys != 0) then
    { w with sys := allPaths } else w

/-- A write put before the writes `later` would stand between an RMW of them and the write it read, on some byte (R287). -/
def parts (k len : Nat) : List Write → List Write → Bool
  | _, [] => false
  | before, w :: later =>
    (w.rmw && (List.range len).any fun i => w.covers (k + i) && !before.any (·.covers (k + i))) ||
    parts k len (before ++ [w]) later

/-- Places in coherence order that a new write of an observer may take (R287): after every write that it sees or that some
read has returned, and never between an RMW and the write it read. `inOrder` marks the device's own writes, which one engine
makes one after the other: each comes after those that its observer has made (log 5). -/
def State.places (s : State) (iss : Issuer) (path k len : Nat) (inOrder : Bool) : List Nat :=
  let bound := fun w : Write => w.overlaps k len && (w.seenBy iss path || w.read || (inOrder && w.issuer == iss))
  let lo := s.pend.length - (s.pend.reverse.takeWhile fun w => !bound w).length
  (List.range (s.pend.length + 1)).filter fun p => lo ≤ p && !parts k len [] (s.pend.drop p)

/-- Choose one of the places. -/
def State.placeFor (s : State) (iss : Issuer) (path k len : Nat) (inOrder : Bool) : Nat × State :=
  let ps := s.places iss path k len inOrder
  let (i, s) := s.choice ps.length
  (ps.getD i s.pend.length, s)

/-- A write as it is performed: visible nowhere yet. -/
def newWrite (id own k : Nat) (data : List Byte) (iss : Issuer) (path : Nat) (rmw : Bool) : Write :=
  { id := id, own := own, addr := k, data := data, issuer := iss, path := path, rmw := rmw,
    levels := match iss with | .core _ => List.replicate 7 0 | _ => List.replicate 7 4 }

/-- Perform a write. -/
def State.wr (s : State) (own : Nat) (iss : Issuer) (path k : Nat) (data : List Byte) (inOrder loose : Bool := false) : State :=
  let (p, s) := s.placeFor iss path k data.length inOrder
  let (id, s) := s.newId
  { s with pend := s.pend.take p ++ { newWrite id own k data iss path false with loose := loose } :: s.pend.drop p }

/-- A read of the latest value in coherence order, as an operation makes it that is one step with respect to others like it
(R399, R400): the writes that it returns become visible to its observer. -/
def State.rdLast (s : State) (iss : Issuer) (path k len : Nat) : List Byte × State :=
  (s.under (s.pend.filter (·.overlaps k len)) k len,
   { s with pend := hostOrder (s.pend.map fun w => if w.overlaps k len then { w.promote iss path with read := true } else w) })

/-- A write that comes last in coherence order, of such an operation. -/
def State.wrLast (s : State) (own : Nat) (iss : Issuer) (path k : Nat) (data : List Byte) : State :=
  let (id, s) := s.newId
  { s with pend := s.pend ++ [newWrite id own k data iss path false] }

/-- Perform a read-modify-write: the bytes it reads are those of the write just before its own (R287), which becomes visible
to it; `f` gives the new bytes, none where memory stays as it is. -/
def State.rmw (s : State) (own : Nat) (iss : Issuer) (path k len : Nat) (f : List Byte → Option (List Byte)) :
    List Byte × State :=
  let (p, s) := s.placeFor iss path k len false
  let old := s.under ((s.pend.take p).filter (·.overlaps k len)) k len
  let before := (s.pend.take p).map fun w => if w.overlaps k len then { w.promote iss path with read := true } else w
  match f old with
  | none => (old, { s with pend := hostOrder (before ++ s.pend.drop p) })
  | some new =>
    let (id, s) := s.newId
    (old, { s with pend := hostOrder (before ++ newWrite id own k new iss path true :: s.pend.drop p) })

/-- A read-modify-write of the latest value, which comes last in coherence order. -/
def State.rmwLast (s : State) (own : Nat) (iss : Issuer) (path k len : Nat) (f : List Byte → List Byte) : State :=
  let (old, s) := s.rdLast iss path k len
  let (id, s) := s.newId
  { s with pend := s.pend ++ [newWrite id own k (f old) iss path true] }

/-- A write that every observer of its location sees; a scratchpad location has CORE scope alone (R285). -/
def Write.everywhere (w : Write) : Bool :=
  if 2 ^ 64 ≤ w.addr then w.levels.all (1 ≤ ·) else w.levels.all (· == 4) && w.sys == allPaths && w.pod == allPaths

/-- Put the writes that everyone sees into memory, each after the writes before it in coherence order. -/
def retire : List Write → List Write → List Host.Cell → List Write × List Host.Cell
  | [], kept, m => (kept.reverse, m)
  | w :: r, kept, m =>
    if w.everywhere && !kept.any (·.overlaps w.addr w.data.length) then retire r kept (Memory.write m w.addr w.data)
    else retire r (w :: kept) m

def State.retire (s : State) : State :=
  let r := Machine.retire s.pend [] s.mem
  { s with pend := r.1, mem := r.2 }

/-- Whether a write may take the next step of R285 on a path: level 1 to 4 of the path, 5 SYS, 6 POD. SYS and POD come no
earlier than PKG on that path; the companion processor's writes reach SYS in their own order, each on every path before the
next on any (R297). -/
def State.mayAdvance (s : State) (w : Write) (path level : Nat) : Bool :=
  if level ≤ 4 then path ≤ 6 && level == w.levels.getD path 0 + 1
  else if level = 5 then path ≤ 6 && !bitOf w.sys path && w.levels.getD path 0 == 4 &&
    (w.issuer != .host || w.loose || !s.pend.any fun v => v.issuer == .host && !v.loose && v.id < w.id && v.sys != allPaths)
  else level == 6 && path ≤ 6 && !bitOf w.pod path && w.levels.getD path 0 == 4

/-- One move of a write towards visibility. -/
def State.advance (s : State) (id path level : Nat) : State :=
  { s with pend := updFirst (·.id == id) (fun w =>
      if level ≤ 4 then { w with levels := setAt w.levels path level }
      else if level = 5 then { w with sys := w.sys ||| 2 ^ path } else { w with pod := w.pod ||| 2 ^ path }) s.pend }.retire

/-- A write is visible on paths (a mask) at a scope (R289, R291). -/
def Write.reached (w : Write) (paths scope : Nat) : Bool :=
  if 2 ^ 64 ≤ w.addr then (List.range 7).all fun p => !bitOf paths p || 1 ≤ w.levels.getD p 0
  else (List.range 7).all fun p => !bitOf paths p ||
    (levelOf scope ≤ w.levels.getD p 0 && (scope != 4 || bitOf w.pod p) && (scope != 5 || bitOf w.sys p))

/-- Every performed write of an operation, on a path of the mask `before`, has reached a scope on the paths of `after`. -/
def State.reached (s : State) (own before after scope : Nat) : Bool :=
  s.pend.all fun w => !w.of own || !bitOf before w.path || w.reached after scope

/-! ### The links to memory beyond the package -/

/-- A link carries traffic (R410). -/
def LState.works (x : LState) : Bool := x == .up || x == .degraded

/-- The Tether port works (R259, R411). -/
def State.tether (s : State) : Bool := (s.link 48).state.works || (s.link 49).state.works

/-- The line of a byte (R384). -/
def lineOf (k : Nat) : Nat := k / 64

/-- A byte range touches a poisoned line. -/
def State.poisoned (s : State) (k len : Nat) : Bool :=
  s.poison.any fun l => lineOf k ≤ l && l ≤ lineOf (k + len - 1)

/-! ### Notifications and device records -/

/-- The node of an operation that no instruction issued. -/
def noNode : Node :=
  { fmt := .I, arity := 0, lane := .value, tagop := .keep, rm := .ctx, cf := false, cls := 0, immp := false, mod := 0,
    imm := 0, dests := [] }

/-- Start the append of a notification entry (R309, R311, R460): the virtual address and bytes 24 on; its writes are numbered with
those of `own`, which waits for them. -/
def State.notify (s : State) (c : BitVec 6) (n type va : Nat) (rest : List Byte) (own : Option Nat := none) : State :=
  let (id, s) := s.newId
  let o : Op := { id := id, kind := .notify, fir := { n := n, elem := 90, tag := { ctx := c } }, instr := noNode, opc := 0,
                  cap := {}, nums := [type, va, own.getD id], desc := rest ++ List.replicate (40 - rest.length) 0, since := s.cycle }
  { s with ops := s.ops ++ [o] }

/-! ### Translation (R381, R382, R294) -/

/-- Lowest address bit of an index level. -/
def lvlShift (lvl : Nat) : Nat := if lvl = 0 then 16 else 12 + 9 * lvl

/-- Entries of a table of a level, as index bits. -/
def lvlBits (lvl : Nat) : Nat := if lvl = 0 then 5 else if lvl = 4 then 8 else 9

/-- A page-table entry at a level breaks R380 or R381. -/
def malformed (lvl pte : Nat) : Bool :=
  if field pte 54 53 = 3 then lvl == 0 || field pte 62 55 != 0 || bitOf pte 52 || field pte 11 0 != 0 ||
    hbmEnd ≤ field pte 51 12 * 4096
  else field pte 54 53 != lvl || 2 < lvl || (field pte 51 16 * 2 ^ 16) % 2 ^ lvlShift lvl != 0 ||
    (!bitOf pte 60 && hbmEnd ≤ field pte 51 16 * 2 ^ 16)

/-- How a walk ends: no valid entry, a malformed one, one that cannot be read, or a leaf. -/
inductive Walk where
  | miss | malformed | unreadable | leaf (e : TlbEntry)
  deriving DecidableEq, Repr

/-- An operation of a core may use an entry, or read past a write: no TFENCE that covers the core stands between (R294). One
issued before the TFENCE may, since it may have been translated before it. -/
def unfenced (gone : List (Nat × Nat)) (n own : Nat) : Bool := !gone.any fun g => g.1 == n && (own == 0 || g.2 ≤ own)

/-- Note an entry that a walk has read: the core that read it may use it again. -/
def addTlb (l : List TlbEntry) (e : TlbEntry) (n : Nat) : List TlbEntry :=
  if l.any fun x => { x with gone := [] } == { e with gone := [] } then
    l.map fun x => if { x with gone := [] } == { e with gone := [] } then { x with gone := x.gone.filter (·.1 != n) } else x
  else l ++ [e]

/-- Where a TFENCE has passed a write that a reader of the page table does not see (R294). -/
def State.fencedOver (s : State) (iss : Issuer) (addr : Nat) : List (Nat × Nat) :=
  (s.pend.filter fun w => w.overlaps addr 8 && !w.seenBy iss 5).flatMap (·.fenced)

/-- Walk the table of a context from a level down, for an operation: each entry is read on P5, or one read earlier is used
again (R294). -/
def walk (c n own va : Nat) (iss : Issuer) : Nat → Nat → State → Walk × State
  | lvl, table, s =>
    let addr := table + 8 * field va (lvlShift lvl + lvlBits lvl - 1) (lvlShift lvl)
    let page := va >>> lvlShift lvl
    let old := s.tlb.filter fun e => e.ctx == c && e.lvl == lvl && e.page == page && e.addr == addr && unfenced e.gone n own
    let (i, s) := if old.isEmpty then (0, s) else s.choice (old.length + 1)
    let (e, s) : Option TlbEntry × State := match (if i = 0 then none else old[i - 1]?) with
      | some e => (some e, s)
      | none =>
        if s.poisoned addr 8 then (none, s)
        else
          let gone := (s.fencedOver iss addr).filter (·.1 != n)
          let (b, s) := s.rd iss 5 addr 8
          let e : TlbEntry := { ctx := c, lvl := lvl, page := page, addr := addr, pte := BitVec.ofNat 64 (leNat b), gone := gone }
          (some e, if bitOf e.pte.toNat 63 then { s with tlb := addTlb s.tlb e n } else s)
    match e with
    | none => (.unreadable, s)
    | some e =>
      let p := e.pte.toNat
      if !bitOf p 63 then (.miss, s)
      else if malformed lvl p then (.malformed, s)
      else if field p 54 53 = 3 then
        match lvl with
        | 0 => (.malformed, s)
        | l + 1 => walk c n own va iss l (field p 51 12 * 4096) s
      else (.leaf e, s)
termination_by structural lvl => lvl

/-- The walk of a virtual address of a context, as core `n` makes it for an operation. -/
def State.walk (s : State) (c : BitVec 6) (n va : Nat) (own : Nat := 0) : Walk × State :=
  Machine.walk c.toNat n own (va % 2 ^ 56) (.core n) 4 (field (s.ctx c).ptroot.toNat 51 12 * 4096) s

/-- Physical place of a virtual address under a leaf. -/
def TlbEntry.key (e : TlbEntry) (va : Nat) : Nat :=
  physKey (bitOf e.pte.toNat 60) (field e.pte.toNat 51 16 * 2 ^ 16 + va % 2 ^ lvlShift e.lvl)

/-- Where the tables have the entry of a level for an address, given how entries read; none where no table of that level is
reached. -/
def entryAddr (rd : Nat → Nat) (va target : Nat) : Nat → Nat → Option Nat
  | lvl, table =>
    let addr := table + 8 * field va (lvlShift lvl + lvlBits lvl - 1) (lvlShift lvl)
    if lvl = target then some addr
    else match lvl with
      | 0 => none
      | l + 1 =>
        let p := rd addr
        if bitOf p 63 && !malformed (l + 1) p && field p 54 53 == 3 then entryAddr rd va target l (field p 51 12 * 4096) else none
termination_by structural lvl => lvl

/-- Discard, for the cores of a scope instance, the cached entries of a context that memory no longer holds, or whose table its
upper levels no longer name (R294, R383, R396). Operations numbered below `since` may keep what they have translated. -/
def State.dropStale (s : State) (c : BitVec 6) (n scope since : Nat) : State :=
  let rd (a : Nat) : Nat := leNat (s.seen (.core n) 5 a 8)
  let root := field (s.ctx c).ptroot.toNat 51 12 * 4096
  let stale (e : TlbEntry) : Bool := e.ctx == c.toNat &&
    (rd e.addr != e.pte.toNat || entryAddr rd (e.page * 2 ^ lvlShift e.lvl) e.lvl 4 root != some e.addr)
  let gone := ((List.range 160).filter fun m => scopeLevel n m ≤ levelOf scope).map fun m => (m, since)
  { s with tlb := s.tlb.map fun e => if stale e then { e with gone := e.gone ++ gone } else e,
           pend := s.pend.map fun w => if w.seenBy (.core n) 5 && levelOf scope ≤ w.levels.getD 5 0 then
             { w with fenced := w.fenced ++ gone } else w }

/-- The update of a leaf before an access of an operation (R382, R460): A, D for a write, COUNT where the access counts. The
crossing of CNTTHR appends a notification (R385). Answers the number of the increment's write where there was one. -/
def State.touchLeaf (s : State) (c : BitVec 6) (n own va : Nat) (e : TlbEntry) (write count : Bool) : Option Nat × State :=
  let p := e.pte.toNat
  if bitOf p 56 && (!write || bitOf p 55) && !(count && bitOf p 58) then (none, s)
  else
    let bump (x : Nat) : Bool := count && bitOf x 58 && field x 15 0 != 65535
    let f (x : Nat) : Nat := (x ||| 2 ^ 56 ||| (if write then 2 ^ 55 else 0)) + ofBool (bump x)
    let id := s.fresh
    let (old, s) := s.rmw own (.core n) 0 e.addr 8 fun b => if f (leNat b) = leNat b then none else some (leBytes 8 (f (leNat b)))
    let x := leNat old
    let s := if bump x && field x 15 0 + 1 == (s.ctx c).csrs.cntthr.toNat then
        s.notify c n 1 (va - va % 2 ^ lvlShift e.lvl) (leBytes 8 (f x) ++ leBytes 8 e.addr) (some id)
      else s
    (if bump x then some id else none, s)

/-- An increment and the notification it caused are visible at PKG (R428); 0 stands for none. -/
def State.counted (s : State) (own : Nat) : Bool :=
  own == 0 || (s.pend.all fun w => (w.id != own && !w.of own) || w.reached allPaths 3) && !s.ops.any fun o => o.kind == .notify && o.nums.getD 2 0 == own

/-! ### One access -/

/-- The capability list (R19, R20) as bytes. -/
def capBytes : List Byte :=
  (Config.caps.mapIdx fun i (id, feat, word) =>
    leBytes 8 (id * 2 ^ 48 + 1 * 2 ^ 40 + 1 * 2 ^ 32 + (if i + 1 = Config.caps.length then 0 else 2 * (i + 1)) * 2 ^ 16 + feat) ++
    leBytes 8 word).flatten

/-- An access lies in the capability list. -/
def inCaps (va size : Nat) : Bool := Config.capBase ≤ va && va + size ≤ Config.capBase + capBytes.length

/-- An access as asked for: who asks on which path for which context, where, what, and how it is counted. `whole` marks a
store of a unit that covers every line it touches (R384), `solo` an access of an operation that is one step with respect to
others like it (R399, R400), `loose` a write that the companion processor does not order among its own (R297). -/
structure Req where
  ctx   : BitVec 6
  n     : Nat
  iss   : Issuer
  path  : Nat
  spm   : Bool := false
  va    : Nat
  size  : Nat
  kind  : AccKind
  fmt   : Fmt := .I
  data  : List Byte := []
  cmp   : List Byte := []
  own   : Nat := 0
  count : Bool := true
  whole : Bool := false
  solo  : Bool := false
  loose : Bool := false
  deriving DecidableEq, Repr

/-- The outcome of an access: the bytes read, a stall on WB (R387), or a failure with its cause, 0 for a missing translation,
and whether VIOLOG takes the address (R259). -/
inductive MemRes where
  | ok (old : List Byte) | stall | fail (cause : Nat) (logged : Bool)
  deriving DecidableEq, Repr

/-- The new value of an RMW (R261); 9 is compare and swap. -/
def rmwValue (op : Nat) (fmt : Fmt) (w x v c : Nat) : Option Nat :=
  match op with
  | 0 => if fmt = .I then some ((x + v) % 2 ^ w) else some (roundP fmt .rne 0 (addP .rne (opnd fmt x) (opnd fmt v))).1
  | 1 => some (if toSigned w v < toSigned w x then v else x)
  | 2 => some (if toSigned w x < toSigned w v then v else x)
  | 3 => some (min x v)
  | 4 => some (max x v)
  | 5 => some (x &&& v)
  | 6 => some (x ||| v)
  | 7 => some (x ^^^ v)
  | 8 => some v
  | _ => if x = c then some v else none

/-- The RMW of a request on bytes. -/
def Req.modify (r : Req) (op : Nat) (old : List Byte) : Option (List Byte) :=
  (rmwValue op r.fmt (8 * r.size) (leNat old) (leNat r.data) (leNat r.cmp)).map (leBytes r.size)

/-- Perform an access at a place of memory, poison considered (R384). -/
def State.perform (s : State) (r : Req) (k : Nat) : MemRes × State :=
  let bad := s.poisoned k r.size
  if bad && !(r.whole && r.kind == .write) then (.fail 6 false, s)
  else match r.kind with
    | .read => let (b, s) := if r.solo then s.rdLast r.iss r.path k r.size else s.rd r.iss r.path k r.size; (.ok b, s)
    | .write =>
      let s := if bad then { s with poison := s.poison.filter fun l => l < lineOf k || lineOf (k + r.size - 1) < l } else s
      (.ok [], if r.solo then s.wrLast r.own r.iss r.path k r.data else s.wr r.own r.iss r.path k r.data (loose := r.loose))
    | .rmw op => let (b, s) := s.rmw r.own r.iss r.path k r.size (r.modify op); (.ok b, s)

/-- What an operation has counted and translated: the leaves counted, the translations kept (R382, R428). -/
abbrev Counts := List Nat × List Pin

/-- The translation of an access (R252, R254, R259, R381): checks in the order walk, page poison (R384, R393), permission,
write-blocking, host port, line poison; then the leaf is updated (R382). Answers the translation, or why there is none. -/
def State.translate (s : State) (r : Req) (l : Counts) : Except MemRes Pin × Counts × State :=
  let write : Bool := r.kind != .read
  let (w, s) := s.walk r.ctx r.n r.va r.own
  match w with
  | .miss => (.error (.fail 0 false), l, s)
  | .malformed => (.error (.fail 7 true), l, s)
  | .unreadable => (.error (.fail 6 false), l, s)
  | .leaf e =>
    let p := e.pte.toNat
    if bitOf p 57 then (.error (.fail 6 false), l, s)
    else if (if write then !bitOf p 61 || bitOf p 52 else !bitOf p 62) then (.error (.fail 7 true), l, s)
    else if write && bitOf p 59 then (.error .stall, l, s)
    else if (bitOf p 60 && !s.tether) || (s.poisoned (e.key r.va) r.size && !(r.whole && r.kind == .write)) then (.error (.fail 6 false), l, s)
    else
      let count := r.count && r.path ≤ 2 && !l.1.contains e.addr
      let (own, s) := s.touchLeaf r.ctx r.n r.own r.va e write count
      (.ok { va := r.va, write := write, own := own.getD 0, e := e }, (if count then insertNat e.addr l.1 else l.1, l.2), s)

/-- What can be said of an access before any translation (R252, R254, R259): misaligned, out of its space, in the scratchpad,
or in the capability list; none where it is to be translated. -/
def State.untranslated (s : State) (r : Req) : Option (MemRes × State) :=
  if r.va % (if r.size = 0 then 1 else r.size) != 0 then some (.fail 8 false, s)
  else if r.spm then
    if field (s.core r.n).partw.toNat 22 16 * 65536 < r.va + r.size then some (.fail 7 true, s)
    else some (s.perform r (spmKey r.n r.va))
  else if 2 ^ 56 ≤ r.va then some (.fail 7 true, s)
  else if inCaps r.va r.size then
    if r.kind != .read then some (.fail 7 true, s)
    else some (.ok ((capBytes.drop (r.va - Config.capBase)).take r.size), s)
  else none

/-- A kept translation may be used: whatever the operation has counted at its leaf is visible (R428). -/
def State.pinReady (s : State) (l : Counts) (p : Pin) : Bool := l.2.all fun q => q.e.addr != p.e.addr || s.counted q.own

/-- The kept translation of an access. -/
def Req.pin (r : Req) (l : Counts) : Option Pin := l.2.find? fun p => p.va == r.va && p.write == (r.kind != .read)

/-- Perform an access under its translation. -/
def State.performAt (s : State) (r : Req) (l : Counts) (p : Pin) : MemRes × Counts × State :=
  let (o, s) := s.perform r (p.e.key r.va)
  (o, (l.1, l.2.filter (· != p)), s)

/-- One access (R252, R254, R259): translated and performed. One that has counted stalls under its translation until the
increment is visible (R428); one that has kept a translation is performed under it (R294). -/
def State.access (s : State) (r : Req) (l : Counts) : MemRes × Counts × State :=
  match s.untranslated r with
  | some (o, s) => (o, l, s)
  | none => match r.pin l with
    | some p =>
      if bitOf p.e.pte.toNat 60 && !s.tether then (.fail 6 false, l, s)
      else if s.pinReady l p then s.performAt r l p else (.stall, l, s)
    | none => match s.translate r l with
      | (.error m, l, s) => (m, l, s)
      | (.ok p, l, s) => if p.own = 0 ∧ s.pinReady l p then s.performAt r l p else (.stall, (l.1, l.2 ++ [p]), s)

/-- Translate an access ahead of its performance; it keeps the translation (R294). A failure shows when it is performed. -/
def State.pinAhead (s : State) (r : Req) (l : Counts) : MemRes × Counts × State :=
  match s.untranslated r with
  | some _ => (.ok [], l, s)
  | none => match r.pin l with
    | some p => (if s.pinReady l p then .ok [] else .stall, l, s)
    | none => match s.translate r l with
      | (.error m, l, s) => (m, l, s)
      | (.ok p, l, s) => (if p.own = 0 then .ok [] else .stall, (l.1, l.2 ++ [p]), s)

/-- Append a violation to VIOLOG (R56, R369): a full log takes no more. -/
def State.violate (s : State) (c : BitVec 6) (spm : Bool) (va : Nat) : State :=
  s.modCtx c fun x => if x.violog.length < 64 then { x with violog := x.violog ++ [(spm, va % 2 ^ 56)] } else x

/-- Whether a prefetch of an address is dropped (R262); nothing else comes of it. -/
def State.prefetchDrops (s : State) (c : BitVec 6) (n va : Nat) : Bool :=
  if 2 ^ 56 ≤ va then true
  else if inCaps va 1 then false
  else match (s.walk c n va).1 with
    | .leaf e => !bitOf e.pte.toNat 62 || bitOf e.pte.toNat 59 || bitOf e.pte.toNat 57 || s.poisoned (e.key va) 1 ||
        (bitOf e.pte.toNat 60 && !s.tether)
    | _ => true

/-! ### The device's own accesses -/

/-- A read by the bindery or an engine at a physical address (R379), on P6 unless named; none where it fails (R259). -/
def State.devRead (s : State) (n addr len : Nat) (path : Nat := 6) : Option (List Byte) × State :=
  match fieldKey addr len with
  | none => (none, s)
  | some k =>
    if (bitOf addr 63 && !s.tether) || s.poisoned k len then (none, s)
    else
      let (b, s) := s.rd (.core n) path k len
      (some b, s)

/-- A write at a physical address, 8 bytes at a time where it can be; none where it fails. `own` numbers its operation. -/
def State.devWrite (s : State) (own n addr : Nat) (data : List Byte) : Option State :=
  match fieldKey addr data.length with
  | none => none
  | some k =>
    if (bitOf addr 63 && !s.tether) || s.poisoned k data.length then none
    else some (((chunksOf 8 data.length data).foldl (fun (st : Nat × State) d =>
      (st.1 + d.length, st.2.wr own (.core n) 0 st.1 d true)) (k, s)).2)

end Sys2Proof.Machine
end

