-- ==== Sys2Proof/Machine/Pipe.lean ====
section
/-! DEFINITION. Pipes (R300 to R306), the routing and stealing of their entries (R318, R319), the enabling of replicas
(R320), and the states of kernel instances and groups that follow from them (R215, R325). -/

namespace Sys2Proof.Machine

/-- The input port records of a kernel, in order. -/
def Kernel.inputs (k : Kernel) : List PortRec := k.ports.filter (!·.out)

/-- The output port records of a kernel. -/
def Kernel.outputs (k : Kernel) : List PortRec := k.ports.filter (·.out)

/-- The enabled replicas at START (R320). -/
def Kernel.start (k : Kernel) : Kernel :=
  { k with enabled := if k.hiwat = 0 ∨ k.inputs.isEmpty then List.range k.repl else [0] }

/-- The kernel that consumes a pipe. -/
def Group.consumer (g : Group) (p : Nat) : Option Nat := g.kernels.findIdx? fun k => k.inputs.any (·.pipe == p)

def State.setPipe (s : State) (serial p : Nat) (f : Pipe → Pipe) : State :=
  s.modGroup serial fun g => { g with pipes := match g.pipes[p]? with | some x => setAt g.pipes p (f x) | none => g.pipes }

/-- RSV: reserved places, those of commits on their way included (R301, R302). -/
def State.rsv (s : State) (g : Group) (p : Nat) : Nat :=
  (match g.pipes[p]? with | some x => x.staged.length | none => 0) +
  s.commits.foldl (fun a c => if c.serial = g.serial then a + (c.items.filter (·.1 == p)).length else a) 0

/-- EMPTY, OPEN or FULL from the counts (R306). -/
def Pipe.refresh (x : Pipe) (rsv : Nat) : Pipe :=
  match x.state with
  | .empty | .open | .full =>
    { x with state := if x.cap ≤ x.entries.length + rsv then .full else if x.entries.isEmpty then .empty else .open }
  | _ => x

/-- Recompute a pipe's state after its counts changed; an EOS_SEEN pipe whose last entry is taken closes (R306). A change of OCC is noted for
its consumer's evaluation (R320). -/
def State.refreshPipe (s : State) (serial p : Nat) (occ : Bool) : State :=
  match s.group serial with
  | none => s
  | some g =>
    let r := s.rsv g p
    let s := s.setPipe serial p fun x =>
      if occ && x.state == .eosSeen && x.entries.isEmpty then { x with state := .closed } else x.refresh r
    if !occ then s
    else s.modGroup serial fun g => { g with kernels := g.kernels.map fun k =>
      match k.inputs with
      | i :: _ => if i.pipe == p then { k with dirty := true } else k
      | [] => k }

/-- The bare EOS of R304. -/
def bareEos : Tok := { eos := true, data := [0, 0, 0, 0] }

/-! ### Routing (R318, R319) -/

/-- Weight of a die in a map entry. -/
def dieWeight (wgt die : Nat) : Nat := field wgt (4 * die + 3) (4 * die)

/-- Core of a replica. -/
def Group.coreOf (g : Group) (kernel replica : Nat) : Nat :=
  match g.insts.find? fun i => i.kernel == kernel && i.replica == replica with | some i => i.n | none => 0

/-- Entries that wait in a replica's list. -/
def Pipe.waitingFor (x : Pipe) (replica : Nat) : Nat := (x.entries.filter (·.replica == replica)).length

/-- The replica an entry goes to (R318). -/
def Group.route (g : Group) (kernel : Nat) (x : Pipe) (t : Tok) : Nat :=
  match g.kernels[kernel]? with
  | none => 0
  | some k =>
    let a := leNat (t.data.take 8)
    let entry := if k.aff then g.map.find? fun m => m.1 ≤ a && a < m.1 + m.2.1 * 65536 else none
    let dieOn (r : Nat) := dieOf (g.coreOf kernel r)
    let preferred := entry.bind fun m =>
      leastBy (fun i j => dieWeight m.2.2 j < dieWeight m.2.2 i)
        ((List.range 8).filter fun d => dieWeight m.2.2 d != 0 && k.enabled.any fun r => dieOn r == d)
    match preferred with
    | some d =>
      let rs := k.enabled.filter fun r => dieOn r == d
      rs.getD ((a >>> 16) % (if rs.length = 0 then 1 else rs.length)) 0
    | none => (leastBy (fun i j => x.waitingFor i < x.waitingFor j) k.enabled).getD 0

/-- Append a published token to its pipe (R302, R306). -/
def State.publishOne (s : State) (serial p : Nat) (t : Tok) : State :=
  match s.group serial with
  | none => s
  | some g => match g.pipes[p]? with
    | none => s
    | some x =>
      if x.state == .unbound then s
      else if x.state == .eosSeen || x.state == .closed then s.raiseAt g.ctx x.home 0x0006
      else
        let r := match g.consumer p with | some k => g.route k x t | none => 0
        let (id, s) := s.newId
        let e : PEntry := { seq := id, tok := t, replica := r, since := s.cycle }
        (s.setPipe serial p fun x => { x with entries := x.entries ++ [e] }).refreshPipe serial p true

/-- A taker that asks finds no entry and none to come: the pipe is CLOSED, or EOS_SEEN without entries, which the taker closes (R304,
R306). -/
def Pipe.ended (x : Pipe) : Bool := x.state == .closed || (x.state == .eosSeen && x.entries.isEmpty)

/-- The tokens queued for an instance on a pipe (R195): its own list, then the bare EOS of a closed pipe it has not had; after
DRAINREQ the queue ends at the cut, where `lastCut` 0 stands for a bare EOS, and its last token is taken as carrying EOS
(R215). -/
def Group.queue (g : Group) (i : KInst) (p : Nat) : List (Nat × Tok) :=
  match g.pipes[p]? with
  | none => []
  | some x =>
    let mine := (x.entries.filter fun e => e.replica == i.replica).map fun e => (e.seq, e.tok)
    if i.cut then match i.lastCut.find? (·.1 == p) with
      | some (_, 0) => if i.gotEos.contains p then [] else [(0, { bareEos with deps := x.deps })]
      | some (_, last) => (mine.filter fun e => e.1 ≤ last).map fun e => (e.1, { e.2 with eos := e.1 == last })
      | none => []
    else mine ++ (if x.ended && !i.gotEos.contains p then [(0, { bareEos with deps := x.deps })] else [])

/-- A QPUT waits (R303, R306): its pipe is FULL, or another QPUT stands before it in line; one that its activation holds no
place for, or that comes too late, does not. -/
def Pipe.putWaits (p : Pipe) (i : KInst) (root id : Nat) : Bool :=
  let held := (p.staged.filter fun y => y.kernel == i.kernel && y.replica == i.replica && y.frame == root).length
  (p.state == .empty || p.state == .open || p.state == .full) && held < p.cap &&
    (p.state == .full || (match p.waits with | w :: _ => w != id | [] => false))

/-- A QGET waits (R303, R313): no entry is there for its instance, or another QGET of the instance stands before it. -/
def Group.getWaits (g : Group) (i : KInst) (pn : Nat) (p : Pipe) (id : Nat) : Bool :=
  ((g.queue i pn).isEmpty && !p.ended) ||
    (match p.takes.find? (·.1 == i.replica) with | some w => w.2 != id | none => false)

/-- A firing leaves the line. -/
def Pipe.unwait (p : Pipe) (id : Nat) : Pipe := { p with waits := p.waits.filter (· != id), takes := p.takes.filter (·.2 != id) }

/-- Update one instance of a group. -/
def State.modInst (s : State) (id : InstId) (f : KInst → KInst) : State :=
  s.modGroup id.serial fun g =>
    { g with insts := updFirst (fun i : KInst => i.kernel == id.kernel && i.replica == id.replica) f g.insts }

/-- Take an entry out of a pipe, or note that the bare EOS was taken. -/
def State.takeEntry (s : State) (serial kernel replica p seq : Nat) (bare : Bool) : State :=
  if bare then (s.setPipe serial p fun x => if x.ended then { x with state := .closed } else x).modInst
    { serial := serial, kernel := kernel, replica := replica } fun i => { i with gotEos := p :: i.gotEos }
  else (s.setPipe serial p fun x => { x with entries := x.entries.filter (·.seq != seq) }).refreshPipe serial p true

/-! ### End marks (R304) -/

/-- Send an end mark of an instance to a pipe, once (R304). -/
def State.sendMark (s : State) (id : InstId) (p : Nat) (deps : List Nat) : State :=
  match (s.group id.serial).bind fun g => g.insts.find? fun i => i.kernel == id.kernel && i.replica == id.replica with
  | none => s
  | some i =>
    if i.marked.contains p then s
    else
      let (k, s) := s.newId
      let m : Mark := { id := k, serial := id.serial, pipe := p, deps := deps }
      State.modInst { s with marks := s.marks ++ [m] } id fun i => { i with marked := p :: i.marked }

/-- An end mark reaches its pipe: MARK or LAST (R306): an EMPTY pipe closes (R304). -/
def State.markPipe (s : State) (serial p : Nat) (deps : List Nat) : State :=
  match s.group serial with
  | none => s
  | some g => match g.pipes[p]? with
    | none => s
    | some x =>
      if x.state == .unbound then s
      else if x.state == .eosSeen || x.state == .closed then s.raiseAt g.ctx x.home 0x0006
      else s.setPipe serial p fun x =>
        let x := { x with prod := x.prod - 1, deps := joinDeps x.deps deps }
        if x.prod != 0 then x
        else if x.entries.isEmpty && x.state != .full then { x with state := .closed } else { x with state := .eosSeen }

/-! ### Kernel instances and groups -/

/-- Nothing is left for an instance to do (R215): no activation, queued token or FIRE request. -/
def Group.idle (g : Group) (i : KInst) : Bool :=
  i.live.isEmpty && i.fires.isEmpty &&
  match g.kernels[i.kernel]? with
  | some k => k.inputs.all fun p => (g.queue i p.pipe).isEmpty
  | none => true

/-- Every access that an instance issued is visible at SYS on every path (R298). -/
def State.flushed (s : State) (i : KInst) : Bool :=
  i.issued.all fun d => s.reached d 127 127 5 && !s.ops.any (·.id == d)

/-- A DRAINING instance with nothing left reaches DRAINED and sends its end marks. -/
def State.drainInst (s : State) (g : Group) (i : KInst) : State :=
  let id : InstId := { serial := g.serial, kernel := i.kernel, replica := i.replica }
  if i.state == .draining && g.idle i && s.flushed i && !s.halted g.ctx then
    let s := s.modInst id fun i => { i with state := .drained }
    match g.kernels[i.kernel]? with
    | some k => (k.outputs.map (·.pipe)).eraseDups.foldl (fun s p => s.sendMark id p []) s
    | none => s
  else s

/-- Start a device record (R316, R349): words W1 to W7 are written first, W0 once they are visible at SYS. With `stamp`, W2 is CYCLE
at the moment of the writing. -/
def State.record (s : State) (c : BitVec 6) (n : Nat) (virt : Bool) (addr : Nat) (data : List Byte) (stamp : Bool := true) (from_ : Nat := 8) : State :=
  let (id, s) := s.newId
  let o : Op := { id := id, kind := .record, fir := { n := n, elem := 90, tag := { ctx := c } }, instr := noNode, opc := 0,
                  cap := {}, nums := [addr, ofBool virt, ofBool stamp, from_], desc := data, since := s.cycle }
  { s with ops := s.ops ++ [o] }

/-- The completion record of a launch (R316). -/
def launchCompl (status err group node cycle : Nat) : List Byte :=
  leBytes 8 (status * 2 ^ 48 + err * 2 ^ 32 + group) ++ leBytes 8 node ++ leBytes 8 cycle ++ List.replicate 40 0

/-- Identifier chosen by software in a launch record. -/
def groupIdOf (words : List Word) : Nat := field (words.getD 0 0).toNat 31 16

/-- Report the end of a launch at its COMPL. -/
def State.reportLaunch (s : State) (g : Group) (status err node : Nat) : State :=
  s.record g.ctx (coreNum g.die 0) (bitOf (g.words.getD 0 0).toNat 41) g.compl.toNat
    (launchCompl status err (groupIdOf g.words) node s.cycle)

/-- Core `n` is in the partition mask of a launch record (R314). -/
def inMask (words : List Word) (n : Nat) : Bool :=
  if n < 64 then bitOf (words.getD 2 0).toNat n
  else if n < 128 then bitOf (words.getD 3 0).toNat (n - 64)
  else bitOf (words.getD 4 0).toNat (n - 128)

/-- What stays of a core that has left its partition (R420): its accumulator blocks stand as they are until a core joins again
(R227, R419). -/
def Core.left (c : Core) : Core := { had := c.had, acc := c.acc }

/-- The cores on which a group is placed: those of its instances, and the rest of a quad whose MXAs a node spans (R235, R346). -/
def Group.cores (g : Group) : List Nat :=
  g.insts.flatMap fun i => i.n :: i.nodes.flatMap fun p => match g.nodes[p.1]? with
    | some (iw, lw) => match ({ iw := iw, lw := lw } : Slot).info with
      | some (opc, _, nd) => mxaCores opc nd i.n
      | none => []
    | none => []

/-- A core leaves the partition when the last group placed there is DRAINED (R346). -/
def State.releaseCores (s : State) (c : BitVec 6) : State :=
  { s with cores := s.cores.foldl (fun m (n, x) =>
      if x.owner == some c && !s.groups.any (fun g => g.ctx == c && g.state != .drained && g.cores.contains n)
      then Assoc.set {} m n x.left else m) s.cores }

/-- The configuration of an evicted instance is removed (R215), by no command (R420): its slots are empty, and an element with
none left holds no stacks entries. -/
def State.evict (s : State) (i : KInst) : State :=
  i.nodes.foldl (fun s (_, e, k) => s.modElem i.n e fun x =>
    let slots := Assoc.set {} x.slots k {}
    { x with conc := x.conc.filter (·.slot != k), ready := x.ready.filter (·.slot != k), slots := slots,
             sshare := if slots.isEmpty then 0 else x.sshare }) s

/-- The events of R325 that follow from the instances' states: START, IDLE, ENDIN, ALLDRAINED. -/
def State.settleGroup (s : State) (serial : Nat) : State :=
  match s.group serial with
  | none => s
  | some g =>
    let s := g.insts.foldl (fun s i => s.drainInst g i) s
    match s.group serial with
    | none => s
    | some g =>
      let all (p : KInst → Bool) : Bool := g.insts.all fun i => i.state == .evicted || p i
      let quiet := g.pipes.all fun x => x.entries.isEmpty
      let running := g.state == .running || g.state == .parked
      if g.state == .resident && (s.ctx g.ctx).state == .running then
        s.modGroup serial fun g => { g with state := .running, kernels := g.kernels.map Kernel.start }
      else if (running || g.state == .draining) && all (·.state == .drained) then
        let s := s.reportLaunch g 1 0 0x3FFFF
        let s := g.insts.foldl (fun s i => s.evict i) s
        let s := s.modGroup serial fun g => { g with state := .drained, insts := g.insts.map fun i => { i with state := .evicted } }
        s.releaseCores g.ctx
      else if running && all (fun i => i.state == .draining || i.state == .drained) then
        s.modGroup serial fun g => { g with state := .draining }
      else if g.state == .running && all (·.state == .parked) && quiet then s.modGroup serial fun g => { g with state := .parked }
      else s

/-- Settle every group. -/
def State.settleGroups (s : State) : State := (s.groups.map (·.serial)).foldl (fun s k => s.settleGroup k) s

end Sys2Proof.Machine
end

