-- ==== Sys2Proof/Machine/Gathering.lean ====
section
/-! DEFINITION. Gathering formats (R73 to R77): layout, element values, and the packing of 64 values. -/

namespace Sys2Proof.Machine

/-- Magnitude bits of a variant: G2, G4, G7. -/
def gMag (variant : Nat) : Nat := match variant with | 0 => 2 | 1 => 4 | _ => 7

/-- Bytes of a gathering. -/
def gSize (variant : Nat) : Nat := 8 + 8 * (gMag variant + 1)

/-- The shared exponent E. -/
def gExp (bytes : List Byte) : Nat := leNat (bytes.take 1)

/-- Element `i` of a gathering with E from 0 to 254 (R74, R75). -/
def gElem (variant : Nat) (bytes : List Byte) (i : Nat) : XV :=
  let m := gMag variant
  let e0 := gExp bytes
  let l := field (leNat (bytes.take 8)) (11 + 4 * (i / 16)) (8 + 4 * (i / 16))
  let x := field (leNat (bytes.drop 8)) ((m + 1) * i + m) ((m + 1) * i)
  let mag := x % 2 ^ m
  if e0 = 0 ∨ mag = 0 then .zero
  else .num (bitOf x m) mag ((e0 : Int) - 127 - l - m + 1) false

/-- The exponent f of R77: that of |x| rounded to an m-bit significand; none for zero, and `some none` for infinity. -/
def gTop (m : Nat) (rm : Rm) : XV → Option (Option Int)
  | .num _ mm e _ =>
    if mm = 0 then none
    else
      let q : Int := (bitLen mm : Int) - 1 + e - (m - 1 : Nat)
      let r := (roundUnits rm 0 false mm e q false).1
      some (some ((bitLen r : Int) - 1 + q))
  | .inf _ => some none
  | .nan => none

/-- The greatest of some exponents, infinity above all. -/
def gMax (xs : List (Option (Option Int))) : Option (Option Int) :=
  xs.foldl (fun a b => match a, b with
    | none, y => y
    | x, none => x
    | some none, _ => some none
    | _, some none => some none
    | some (some x), some (some y) => some (some (max x y))) none

/-- Pack 64 values (R77): the bytes of the gathering and the exceptions; `draw i` is the draw of value i under SR. -/
def gPack (variant : Nat) (rm : Rm) (draw : Nat → Nat) (xs : List XV) : List Byte × Nat :=
  let m := gMag variant
  let size := gSize variant
  if xs.contains .nan then (leBytes size 255, 1)
  else
    let frm := if rm = .sr then .rup else rm
    let fs := xs.map (gTop m frm)
    match gMax fs with
    | none => (leBytes size 0, 0)
    | some g =>
      let e0 : Int := match g with | none => 254 | some v => min 254 (max 1 (v + 127))
      let ls := (List.range 4).map fun q => match gMax ((fs.drop (16 * q)).take 16) with
        | none => 0
        | some none => 0
        | some (some v) => (min 15 (max 0 (e0 - 127 - v))).toNat
      let hdr := e0.toNat + (ls.mapIdx fun q l => l * 2 ^ (8 + 4 * q)).foldl (· + ·) 0
      let rs := xs.mapIdx fun i x =>
        let q : Int := e0 - 127 - (ls.getD (i / 16) 0 : Nat) - m + 1
        match x with
        | .num s mm e _ =>
          if mm = 0 then (0, 0)
          else
            let r := roundUnits rm (draw i) false mm e q false
            let mag := min r.1 (2 ^ m - 1)
            let large := 2 ^ m - 1 < r.1
            (mag + (if s && mag != 0 then 2 ^ m else 0),
              (if large then 4 else 0) + (if mag = 0 then 8 else 0) + (if r.2 || large then 16 else 0))
        | .inf s => (2 ^ m - 1 + (if s then 2 ^ m else 0), 4)
        | .nan => (0, 0)
      let body := (rs.mapIdx fun i r => r.1 * 2 ^ ((m + 1) * i)).foldl (· + ·) 0
      (leBytes 8 hdr ++ leBytes (size - 8) body, rs.foldl (fun a r => a ||| r.2) 0)

end Sys2Proof.Machine
end

