-- ==== Sys2Proof/Machine/Transfer.lean ====
section
/-! DEFINITION. Long operations and the fabric's own memory instructions: operations that outlast their firing, their accesses,
failures (R259) and certified outputs (R289); LD to CAS (R269 to R271), the ordering instructions and FENCE (R272, R273),
TFENCE (R396) and PREF (R274). -/

namespace Sys2Proof.Machine

/-! ### Operations -/

/-- An operation of a firing. -/
def Fire.op (x : Fire) (s : State) (id : Nat) (kind : OpKind) : Op :=
  { id := id, kind := kind, fir := x.f, instr := x.n, opc := x.opc, cap := x.cap, deps := x.deps, since := s.cycle }

/-- The firing of an operation. -/
def Op.fire (o : Op) : Fire := { f := o.fir, n := o.instr, opc := o.opc, cap := o.cap }

/-- Start an operation; its kernel instance notes it, for DRAINED waits for its accesses (R298). -/
def State.addOp (s : State) (o : Op) : State :=
  let s := { s with ops := s.ops ++ [o] }
  match s.instAt o.fir.tag.ctx o.fir.n o.fir.elem o.fir.slot with
  | some (g, _, i) => s.modGroup g.serial fun g => { g with
      insts := updFirst (fun j => j.kernel == i.kernel && j.replica == i.replica) (fun j => { j with issued := j.issued ++ [o.id] }) g.insts }
  | none => s

def State.putOp (s : State) (o : Op) : State := s.modOp o.id fun _ => o

/-- The address of an access as error tokens and fault records give it (R91). -/
def errAddr (spm : Bool) (va : Nat) : Nat := if spm then va % 2 ^ 63 + 2 ^ 63 else va % 2 ^ 56

/-- The exception class of a failing cause (R259); XLAT raises none. -/
def clsOfCause (cause : Nat) : Option Nat :=
  if cause = 6 then some clsPOISON else if cause = 7 then some clsPROT else if cause = 8 then some clsFMT else none

/-- The path of an instruction (R251). -/
def pathOf (opc : Nat) : Nat :=
  if opc = 0x12D ∨ opc = 0x12E ∨ opc = 0x108 ∨ opc = 0x187 then 1
  else if opc = 0x12F ∨ opc = 0x130 then 2
  else if 0x132 ≤ opc ∧ opc ≤ 0x134 ∨ opc = 0x16A then 4
  else if 0x101 ≤ opc ∧ opc ≤ 0x10B then 3
  else 0

/-- Note a failure: the flag it raises, and the failure with the lowest index (R259). -/
def Op.failing (o : Op) (idx cause addr : Nat) : Op :=
  { o with flags := match clsOfCause cause with | some c => o.flags ||| flag c 0 | none => o.flags,
           fail := match o.fail with
             | some (i, c, a) => if idx < i then some (idx, cause, addr) else some (i, c, a)
             | none => some (idx, cause, addr) }

/-- One access of an operation: the outcome, the operation with its counted leaves, and the state; a violation is logged. -/
def Op.access (o : Op) (s : State) (r : Req) : MemRes × Op × State :=
  let (m, l, s) := s.access { r with ctx := o.fir.tag.ctx, own := o.id } (o.leaves, o.pins)
  let s := match m with | .fail _ true => s.violate o.fir.tag.ctx r.spm r.va | _ => s
  (m, { o with leaves := l.1, pins := l.2 }, s)

/-- Translate an access of an operation ahead of its performance (R294). -/
def Op.pin (o : Op) (s : State) (r : Req) : MemRes × Op × State :=
  let (m, l, s) := s.pinAhead { r with ctx := o.fir.tag.ctx, own := o.id } (o.leaves, o.pins)
  (m, { o with leaves := l.1, pins := l.2 }, s)

/-- A halting fault of an operation: it stops and keeps what it has performed (R260, R267); an address without translation is
noted, since what failed before it is then not issued again. -/
def State.stopOp (s : State) (o : Op) (cause addr : Nat) : State :=
  (s.putOp { o with st := .stopped, miss := if cause = 2 then some addr else none }).raise o.fir.tag.ctx 0
    (faultRec s o.fir (im o.instr) o.mark cause addr true 0) (some { o with book := o.mark })

/-- Certification of the outputs that wait (R289, R292): an operation's own writes, or for a FENCE every write its token
depends on, and for a TFENCE the discarding of stale translations; for a CTRIG all that was written of its record (R448). -/
def State.certified (s : State) (o : Op) (p : PendOut) : Bool :=
  if o.kind = .fence then
    o.deps.all fun d => s.reached d (o.nums.getD 0 0) p.paths p.scope &&
      !(bitOf (o.nums.getD 0 0) 4 && s.ops.any fun q => q.id == d && q.kind == .dq)
  else s.reached o.id 127 p.paths p.scope

/-- The exceptions of an operation become visible (R8, R435). -/
def State.showExcs (s : State) (o : Op) : State := s.setFlags o.fir.tag.ctx o.cap (o.instr.lane == .jet || o.opc == 0x104) o.excs

/-- The entries of the concordance that an operation's matched tokens hold (R113). -/
def Op.hold (o : Op) : Nat := o.fir.inputs.length

/-- The end of an operation whose last Emits are those of `act`: it goes, its exceptions, with `fl`, are visible (R8, R435). -/
def State.closeOp (s : State) (o : Op) (fl : Nat) (act : State → State) : State :=
  s.lastEmit (act ((s.dropOp o.id).showExcs { o with excs := o.excs ||| fl })) o.fir o.hold

/-- The end of an operation without a default result (R45): flags, and an error token or the halting fault. -/
def State.failClose (s : State) (o : Op) (cls : Nat) : State := s.closeOp o (flag cls 0) fun s => o.fire.failEnds s cls 0

/-- Emit the outputs of one operation that are certified. With the last of them it ends and its exceptions are visible (R8, R435);
where TAGOP faults the firing ends, with no further effect (R7). -/
def State.settleOp (s : State) (o : Op) : State :=
  let ready := o.outs.filter (s.certified o)
  let rest := o.outs.filter fun p => !s.certified o p
  if ready.isEmpty then s
  else
    let s := if (o.kind = .fence ∨ o.kind = .page) ∧ bitOf o.flags 0 then
        s.dropStale o.fir.tag.ctx o.fir.n (ready.foldl (fun a p => max a p.scope) 0) s.fresh
      else s
    let outs : List Out := ready.map fun p => { out := p.out, tok := { p.tok with deps := joinDeps p.tok.deps [o.id] } }
    if rest.isEmpty && o.st == .complete then s.closeOp o 0 fun s => o.fire.emitAll s outs
    else if o.fire.emitsAll s outs then o.fire.emitAll (s.putOp { o with outs := rest }) outs
    else (o.fire.emitAll s outs).dropOp o.id

/-- Emit every output that is certified. -/
def State.settleOps (s : State) : State := s.ops.foldl (fun s o => match s.findOp o.id with
  | some o => s.settleOp o
  | none => s) s

/-- An operation has done its work: its outputs wait for what they certify. -/
def State.complete (s : State) (o : Op) (outs : List PendOut) : State :=
  if outs.isEmpty then s.closeOp o 0 fun s => s else (s.putOp { o with st := .complete, outs := o.outs ++ outs }).settleOps

/-- What output 0 of an instruction certifies (R289), as paths and scope: a completion its own path at CORE scope, CPYW's every
path at PKG scope, any other output nothing of its own. -/
def firstCert (opc : Nat) : Nat × Nat :=
  if opc = 0x12E then (127, 3)
  else if opc = 0x121 ∨ opc = 0x123 ∨ opc = 0x124 ∨ opc = 0x136 ∨ (0x12D ≤ opc ∧ opc ≤ 0x130) ∨ opc = 0x133 ∨ opc = 0x134 ∨
      opc = 0x108 ∨ opc = 0x16A then (2 ^ pathOf opc, 0)
  else (0, 0)

/-- An error token for every output, each emitted after what that output certifies (R259, R289). -/
def Fire.failOuts (x : Fire) (cause addr : Nat) : List PendOut :=
  let ord := match rowOf x.opc with | some r => if r.ordOut x.n then some (r.outs x.n) else none | none => none
  (x.errOuts cause addr).map fun u =>
    let c := if ord == some u.out then (2 ^ pathOf x.opc, field (md x.n) 2 0) else if u.out = 0 then firstCert x.opc else (0, 0)
    { out := u.out, tok := u.tok, paths := c.1, scope := c.2 }

/-- The end of an operation whose accesses failed (R259, R267): the flags, then the halting fault that stops it, or an error
token on every output. -/
def State.failOp (s : State) (o : Op) : State :=
  let (_, cause, addr) := o.fail.getD (0, 0, 0)
  let o := { o with excs := o.excs ||| o.flags }
  match verdict o.cap o.flags with
  | .halt c => (s.showExcs o).stopOp o c addr
  | _ => s.complete o (o.fire.failOuts cause addr)

/-- The ordering output of `.ord` (R255), the last output. -/
def Fire.ordOuts (x : Fire) (path : Nat) : List PendOut :=
  match rowOf x.opc with
  | some r => if r.ordOut x.n then [{ out := r.outs x.n, tok := x.order, paths := 2 ^ path, scope := field (md x.n) 2 0 }] else []
  | none => []

/-- A completion output (R258): its element counts, and it certifies its own path at CORE scope. -/
def Fire.completion (x : Fire) (path : Nat) (vs : List Nat) : PendOut :=
  { out := 0, tok := x.tok .I vs.length 0 (elems 4 vs), paths := 2 ^ path, scope := 0 }

/-- An output that certifies nothing of its own. -/
def plainOut (t : Tok) : PendOut := { out := 0, tok := t, paths := 0, scope := 0 }

/-- Raise FMT for a token whose other elements are ignored: none of the instruction's effect under TOKEN and HALT. -/
def Fire.fmtGuard (x : Fire) (s : State) (bad : Bool) (act : State → State) : State :=
  if !bad then act s
  else match verdict x.cap (flag clsFMT 0) with
    | .go => s.owes (act s) x.f x.cap (x.n.lane == .jet) (flag clsFMT 0)
    | _ => x.fail s clsFMT

/-! ### Fabric loads, stores and atomics -/

/-- Bytes of an element of R268. -/
def accSize (n : Node) : Nat :=
  if n.fmt = .I then 2 ^ field (md n) 4 3 else if n.fmt = .G then gSize (field (md n) 4 3) else n.fmt.size

/-- Width of one access: an element, or an 8-byte word of a gathering (R254). -/
def accUnit (n : Node) : Nat := if n.fmt = .G then 8 else accSize n

/-- An address where an access stands: a global one is a 64-bit value, a scratchpad offset does not wrap (R252). -/
def placed (spm : Bool) (va : Nat) : Nat := if spm then va else va % 2 ^ 64

/-- The accesses of an element: `planes` coefficients, each in `accSize / accUnit` words. -/
def accessesOf (n : Node) (spm : Bool) (e va planes : Nat) : List Access :=
  (List.range planes).flatMap fun j => (List.range (accSize n / accUnit n)).map fun w =>
    { e := e, j := j + w, spm := spm, va := placed spm (va + j * accSize n + w * accUnit n),
      size := accUnit n, kind := .read }

/-- A scratchpad offset from an operand and a displacement (R252): an operand with bits above its low 23 set names no byte. -/
def spmOffset (v : Nat) (disp : Int) : Nat := if 2 ^ 23 ≤ v then v else ofInt 64 ((v : Int) + disp)

/-- Element address `e` of a firing: global, or a scratchpad offset from a 32-bit port (R252, R268). -/
def Fire.addrAt (x : Fire) (spm32 : Bool) (e : Nat) (disp : Int) : Nat :=
  if spm32 then spmOffset ((x.port 0).elem 4 0 e) disp else ofInt 64 ((x.i64 0 e : Nat) + disp)

/-- Issue the accesses of a firing. -/
def Fire.issue (x : Fire) (s : State) (accs : List Access) : State :=
  let (id, s) := s.newId
  s.addOp { x.op s id .mem with st := .active, accs := accs.map fun a => { a with since := s.cycle } }

/-- The data element and plane that an access stores. -/
def Fire.storeData (x : Fire) (p : Nat) (a : Access) (j w : Nat) : List Byte :=
  let t := x.port p
  leBytes (accUnit x.n) ((leNat ((leBytes (accSize x.n) (t.elem (accSize x.n) j a.e)).drop (w * accUnit x.n))))

/-- LD and LDS (R269). -/
def execLoad (x : Fire) (s : State) (spm : Bool) : State :=
  let kk := if x.n.lane = .jet then x.cap.cap.toNat else 0
  x.issue s ((List.range x.f.len).flatMap fun e => accessesOf x.n spm e (x.addrAt spm e (immDisp x.n)) (kk + 1))

def execLd (n : Node) (s : State) : Host.Outcome State Fault Refusal := fire 0x120 n s false fun x s => execLoad x s false

def execLds (n : Node) (s : State) : Host.Outcome State Fault Refusal := fire 0x135 n s false fun x s => execLoad x s true

/-- LDX (R269): n elements at a stride from element 0 of port 0. -/
def execLdx (n : Node) (s : State) : Host.Outcome State Fault Refusal := fire 0x122 n s false fun x s =>
  x.fmtGuard s ((x.port 0).run != 0) fun s =>
    let kk := if n.lane = .jet then x.cap.cap.toNat else 0
    x.issue s ((List.range (field (im n) 4 0 + 1)).flatMap fun e =>
      accessesOf n false e (x.addrAt false 0 (e * immHi n)) (kk + 1))

/-- The accesses of a store (R270): every coefficient of every element of the data. -/
def Fire.stores (x : Fire) (spm : Bool) (len : Nat) (addr : Nat → Nat) : List Access :=
  let t := x.port 1
  (List.range len).flatMap fun e => (List.range t.planes).flatMap fun j =>
    (List.range (accSize x.n / accUnit x.n)).map fun w =>
      let a : Access := { e := e, j := j + w, spm := spm, size := accUnit x.n, kind := .write,
                          va := placed spm (addr e + j * accSize x.n + w * accUnit x.n) }
      { a with data := x.storeData 1 a j w }

def execSt (n : Node) (s : State) : Host.Outcome State Fault Refusal := fireStore 0x121 n s fun x s =>
  x.issue s (x.stores false x.f.len fun e => x.addrAt false e (immDisp n))

def execSts (n : Node) (s : State) : Host.Outcome State Fault Refusal := fireStore 0x136 n s fun x s =>
  x.issue s (x.stores true x.f.len fun e => x.addrAt true e (immDisp n))

/-- STX (R270): its data token whole, at a stride from element 0 of port 0. -/
def execStx (n : Node) (s : State) : Host.Outcome State Fault Refusal := fireStore 0x123 n s fun x s =>
  x.issue s (x.stores false (x.port 1).len fun e => x.addrAt false 0 (e * immHi n))

/-- The accesses of an atomic (R271): a scratchpad offset under IMM[5]. -/
def Fire.atomics (x : Fire) (op : Nat) (data cmp : Nat) : List Access :=
  (List.range x.f.len).map fun e =>
    { e := e, j := 0, spm := bitOf (im x.n) 5,
      va := if bitOf (im x.n) 5 then spmOffset (x.i64 0 e) (immHi x.n) else x.addrAt false e (immHi x.n), size := accSize x.n, kind := .rmw op,
      data := leBytes (accSize x.n) ((x.port data).elem (accSize x.n) 0 e),
      cmp := if op = 9 then leBytes (accSize x.n) ((x.port cmp).elem (accSize x.n) 0 e) else [] }

def execAtom (n : Node) (s : State) : Host.Outcome State Fault Refusal := fire 0x124 n s false fun x s =>
  x.issue s (x.atomics (field (im n) 3 0) 1 1)

def execAtomr (n : Node) (s : State) : Host.Outcome State Fault Refusal := fire 0x125 n s false fun x s =>
  x.issue s (x.atomics (field (im n) 3 0) 1 1)

/-- CAS (R271): the compare value on port 1, the new value on port 2. -/
def execCas (n : Node) (s : State) : Host.Outcome State Fault Refusal := fire 0x126 n s false fun x s =>
  x.issue s (x.atomics 9 2 1)

/-- The data token of a finished load or atomic (R269, R271): planes of coefficients; an error gathering makes it an error
token without a flag (R75), whose address word is 0 (log 47). -/
def Op.loaded (o : Op) : Tok :=
  let x := o.fire
  let es := (o.accs.foldl (fun a y => max a y.e) 0) + 1
  let bytes (e : Nat) : List Byte := (o.accs.filter (·.e == e)).flatMap (·.res)
  if o.instr.fmt = .G then
    if (List.range es).any fun e => gExp (bytes e) == 255 then x.errTok 8 0
    else x.tok .G es 0 ((List.range es).flatMap bytes)
  else
    let planes := (o.accs.foldl (fun a y => max a y.j) 0) + 1
    x.tok o.instr.fmt es (planes - 1) ((List.range planes).flatMap fun j =>
      (o.accs.filter (·.j == j)).flatMap (·.res))

/-- The end of a P0 firing: once every access is answered, its outputs, or the failures of R259. -/
def State.endMem (s : State) (o : Op) : State :=
  if o.accs.any fun a => a.st == .pending || a.st == .stalled || a.st == .failed 0 then s
  else
    let fails := o.accs.zipIdx.filterMap fun (a, i) => match a.st with
      | .failed c => some (i, c, errAddr a.spm a.va)
      | _ => none
    match leastBy (fun (a b : Nat × Nat × Nat) =>
        let k (i : Nat) := match o.accs[i]? with | some a => a.e * 64 + a.j | none => 0
        k a.1 < k b.1) fails with
    | some f =>
      let fl := fails.foldl (fun fl x => match clsOfCause x.2.1 with | some c => fl ||| flag c 0 | none => fl) 0
      s.failOp { o with fail := some f, flags := fl }
    | none =>
      let x := o.fire
      let first := if o.opc = 0x121 ∨ o.opc = 0x123 ∨ o.opc = 0x124 ∨ o.opc = 0x136 then
          x.completion 0 [(o.accs.foldl (fun a y => max a y.e) 0) + 1]
        else plainOut o.loaded
      s.complete o (first :: x.ordOuts 0)

/-- The request of an access of a P0 firing. -/
def Op.memReq (o : Op) (a : Access) : Req :=
  { ctx := o.fir.tag.ctx, n := o.fir.n, iss := .core o.fir.n, path := 0, spm := a.spm,
    va := a.va, size := a.size, kind := a.kind, fmt := o.instr.fmt, data := a.data, cmp := a.cmp }

/-- Perform one pending or stalled access of a P0 firing. -/
def State.memAccess (s : State) (o : Op) (i : Nat) : State :=
  match o.accs[i]? with
  | none => s
  | some a =>
    let (m, o, s) := o.access s (o.memReq a)
    let put (a : Access) : Op := { o with accs := setAt o.accs i a }
    match m with
    | .ok b => (s.putOp (put { a with st := .done, res := b })).endMem (put { a with st := .done, res := b })
    | .stall => s.putOp (put { a with st := .stalled })
    | .fail 0 _ => s.stopOp (put { a with st := .failed 0 }) 2 (errAddr a.spm a.va)
    | .fail c _ => (s.putOp (put { a with st := .failed c })).endMem (put { a with st := .failed c })

/-! ### Ordering, fences and prefetch -/

/-- ORDN, ORDJ and ORDF (R272). -/
def execOrdn (n : Node) (s : State) : Host.Outcome State Fault Refusal := firePure 0x127 n s fun x _ =>
  ([{ out := 0, tok := x.order }], 0)

def execOrdj (n : Node) (s : State) : Host.Outcome State Fault Refusal := firePure 0x128 n s fun x _ =>
  ([{ out := 0, tok := x.order }], 0)

def execOrdf (n : Node) (s : State) : Host.Outcome State Fault Refusal := firePure 0x129 n s fun x _ =>
  ([{ out := 0, tok := x.order }], 0)

/-- An operation that waits for the visibility of the writes its token depends on (R292, R294). -/
def Fire.awaitWrites (x : Fire) (s : State) (t : Tok) (before after scope : Nat) (discard : Bool) : State :=
  let (id, s) := s.newId
  (s.addOp { x.op s id .fence with st := .complete, nums := [before], flags := ofBool discard,
                                   outs := [{ out := 0, tok := t, paths := after, scope := scope }] }).settleOps

/-- FENCE (R273). -/
def execFence (n : Node) (s : State) : Host.Outcome State Fault Refusal := fire 0x12A n s false fun x s =>
  x.awaitWrites s x.order (field (im n) 6 0) (field (im n) 14 8) (md n) false

/-- TFENCE (R294, R394, R396): the stores it depends on visible on P5, then stale translations discarded; SYS and POD act as PKG.
Its output has RUN 0. -/
def execTfence (n : Node) (s : State) : Host.Outcome State Fault Refusal := fire 0x12B n s false fun x s =>
  x.awaitWrites s { x.order with run := 0 } 127 32 (min (md n) 3) true

/-- PREF (R262, R274): nothing but the count of dropped prefetches. -/
def execPref (n : Node) (s : State) : Host.Outcome State Fault Refusal := fire 0x12C n s false fun x s =>
  (List.range x.f.len).foldl (fun s e =>
    if s.prefetchDrops x.f.tag.ctx x.f.n (x.addrAt false e (immDisp n)) then s.count x.f.tag.ctx x.f.n x.f.elem 0x07 1 else s) s

end Sys2Proof.Machine
end

