-- ==== Sys2Proof/Machine/Special.lean ====
section
/-! DEFINITION. The special functions (R150, R151), each the exact value rounded once: enclosures of the exact value by
integer intervals, narrowed until one rounding remains (log 9). -/

namespace Sys2Proof.Machine

/-- An enclosure: a value between lo × 2^e and hi × 2^e. -/
structure Iv where
  lo : Int
  hi : Int
  e  : Int
  deriving DecidableEq, Repr

namespace Iv

/-- An exact integer times a power of two. -/
def pt (x e : Int) : Iv := { lo := x, hi := x, e := e }

/-- Widen an enclosure to at most `p` bits. -/
def norm (p : Nat) (a : Iv) : Iv :=
  let d := bitLen (max a.lo.natAbs a.hi.natAbs) - p
  if d = 0 then a else { lo := a.lo / (2 ^ d : Nat), hi := -((-a.hi) / (2 ^ d : Nat)), e := a.e + d }

/-- Sum. -/
def add (p : Nat) (a b : Iv) : Iv :=
  let e := min a.e b.e
  let x : Int := (2 ^ (a.e - e).toNat : Nat)
  let y : Int := (2 ^ (b.e - e).toNat : Nat)
  norm p { lo := a.lo * x + b.lo * y, hi := a.hi * x + b.hi * y, e := e }

/-- Negation. -/
def neg (a : Iv) : Iv := { lo := -a.hi, hi := -a.lo, e := a.e }

/-- Product. -/
def mul (p : Nat) (a b : Iv) : Iv :=
  let w := a.lo * b.lo
  let x := a.lo * b.hi
  let y := a.hi * b.lo
  let z := a.hi * b.hi
  norm p { lo := min (min w x) (min y z), hi := max (max w x) (max y z), e := a.e + b.e }

/-- Quotient by a positive integer. -/
def divN (p : Nat) (a : Iv) (n : Nat) : Iv :=
  let k := p + bitLen n
  let s : Int := (2 ^ k : Nat)
  norm p { lo := a.lo * s / n, hi := -((-(a.hi * s)) / n), e := a.e - k }

/-- Quotient by an enclosure of a positive value; its lower end must be positive. -/
def div (p : Nat) (a b : Iv) : Iv :=
  let k := p + bitLen b.hi.natAbs
  let s : Int := (2 ^ k : Nat)
  let w := a.lo * s / b.lo
  let x := a.lo * s / b.hi
  let y := -((-(a.hi * s)) / b.lo)
  let z := -((-(a.hi * s)) / b.hi)
  norm p { lo := min w x, hi := max y z, e := a.e - b.e - k }

/-- Square root of an enclosure of a positive value. -/
def sqrt (p : Nat) (a : Iv) : Iv :=
  let k := 2 * p + (a.e % 2).toNat
  { lo := isqrt (a.lo.toNat * 2 ^ k), hi := isqrt (a.hi.toNat * 2 ^ k) + 1, e := (a.e - k) / 2 }

/-- Sum of a series whose term `n + 1` is term `n` times `step n`, until the terms vanish below the sum from index `from_`
on, where they at least halve; what is left is at most twice the last term. -/
def series (p : Nat) (step : Nat → Iv → Iv) (start : Nat) : Nat → Nat → Iv → Iv → Iv
  | 0, _, _, sum => sum
  | fuel + 1, n, term, sum =>
    let t := step n term
    let s := add p sum t
    let size := bitLen (max t.lo.natAbs t.hi.natAbs)
    let small := (size : Int) + t.e + p + 8 < (bitLen s.hi.natAbs : Int) + s.e
    if start ≤ n ∧ (small ∨ size = 0) then
      add p s { lo := -(2 ^ (size + 1) : Nat), hi := (2 ^ (size + 1) : Nat), e := t.e }
    else series p step start fuel (n + 1) t s

/-- e^r for |r| at most 2, by its power series. -/
def expSmall (p : Nat) (r : Iv) : Iv :=
  series p (fun n t => divN p (mul p t r) (n + 1)) 4 (2 * p + 50) 0 (pt 1 0) (pt 1 0)

/-- e^r − 1 for 0 < r ≤ 2. -/
def expm1Small (p : Nat) (r : Iv) : Iv :=
  series p (fun n t => divN p (mul p t r) (n + 2)) 4 (2 * p + 50) 0 r r

/-- atanh z for |z| at most 1/3. -/
def atanhSmall (p : Nat) (z : Iv) : Iv :=
  let z2 := mul p z z
  let sum := series p (fun n t => divN p (mul p (mul p t z2) (pt (2 * n + 1) 0)) (2 * n + 3)) 1 (2 * p + 50) 0 (pt 1 0) (pt 1 0)
  mul p z sum

/-- ln 2. -/
def ln2 (p : Nat) : Iv := mul p (pt 2 0) (atanhSmall p (divN p (pt 1 0) 3))

/-- atan z for 0 < z ≤ 1: z/(1+z²) times a series of positive terms. -/
def atanSmall (p : Nat) (z : Iv) : Iv :=
  let z2 := mul p z z
  let d := add p (pt 1 0) z2
  let y := div p z2 d
  let sum := series p (fun n t => divN p (mul p (mul p t y) (pt (2 * n + 2) 0)) (2 * n + 3)) 1 (4 * p + 50) 0 (pt 1 0) (pt 1 0)
  mul p (div p z d) sum

/-- π. -/
def pi (p : Nat) : Iv :=
  add p (mul p (pt 16 0) (atanSmall p (divN p (pt 1 0) 5))) (neg (mul p (pt 4 0) (atanSmall p (divN p (pt 1 0) 239))))

/-- The integer nearest the middle of an enclosure. -/
def near (a : Iv) : Int :=
  let m := a.lo + a.hi
  if 0 ≤ a.e then m * (2 ^ a.e.toNat : Nat) / 2 else (m + (2 ^ (-a.e).toNat : Nat)) / (2 * (2 ^ (-a.e).toNat : Nat))

/-- e^x for |x| below 2^13. -/
def exp (p : Nat) (x : Iv) : Iv :=
  let q := p + 32
  let k := near (div q x (ln2 q))
  let r := add q x (neg (mul q (pt k 0) (ln2 q)))
  let y := expSmall q r
  norm p { y with e := y.e + k }

/-- ln (m × 2^e), m positive. -/
def ln (p : Nat) (m : Nat) (e : Int) : Iv :=
  let q := p + 32
  let b := bitLen m
  let up := 3 * 2 ^ (b - 1) < 2 * m
  let g : Int := e + b - 1 + (if up then 1 else 0)
  let y := pt m (-(b : Int) + (if up then 0 else 1))
  let z := div q (add (q + b) y (pt (-1) 0)) (add q y (pt 1 0))
  add p (mul q (pt 2 0) (atanhSmall q z)) (mul q (pt g 0) (ln2 q))

/-- (sin x, cos x) of an exact value, by reduction modulo π/2 with enough bits of π. -/
def sinCos (p : Nat) (m : Int) (e : Int) : Iv × Iv :=
  let q := p + 64 + (max 0 (e + bitLen m.natAbs)).toNat
  let x := pt m e
  let hp := let a := pi q; { a with e := a.e - 1 }
  let k := near (div q x hp)
  let r := add q x (neg (mul q (pt k 0) hp))
  let r2 := mul q r r
  let sn := mul q r (series q (fun n t => neg (divN q (mul q t r2) ((2 * n + 2) * (2 * n + 3)))) 2 (2 * q + 50) 0 (pt 1 0) (pt 1 0))
  let cs := series q (fun n t => neg (divN q (mul q t r2) ((2 * n + 1) * (2 * n + 2)))) 2 (2 * q + 50) 0 (pt 1 0) (pt 1 0)
  match (k % 4).toNat with
  | 0 => (sn, cs)
  | 1 => (cs, neg sn)
  | 2 => (neg sn, neg cs)
  | _ => (neg cs, sn)

/-- 2/√π. -/
def twoOverSqrtPi (p : Nat) : Iv := div p (pt 2 0) (sqrt p (pi p))

/-- erf x for 0 < x < 16. -/
def erf (p : Nat) (x : Iv) : Iv :=
  let q := p + 32
  let x2 := mul q x x
  let from_ := (near (mul q x2 (pt 2 0))).toNat + 2
  let sum := series q (fun n t => divN q (mul q (mul q t x2) (pt 2 0)) (2 * n + 3)) from_ (4 * q + 4000) 0 (pt 1 0) (pt 1 0)
  mul p (mul q (twoOverSqrtPi q) x) (mul q (exp q (neg x2)) sum)

/-- The one number with a remainder mark that an enclosure of an inexact value leaves, at 120 bits. -/
def settle (a : Iv) : Option XV :=
  let go (s : Bool) (l h : Nat) : Option XV :=
    let t := bitLen h - 120
    if l / 2 ^ t = (h - 1) / 2 ^ t ∧ l / 2 ^ t ≠ 0 ∧ l < h then some (.num s (l / 2 ^ t) (a.e + t) true) else none
  if 0 ≤ a.lo then go false a.lo.toNat a.hi.toNat
  else if a.hi ≤ 0 then go true (-a.hi).toNat (-a.lo).toNat
  else none

/-- Narrow until settled. -/
def ziv (f : Nat → Iv) : Option XV :=
  ((f 200).settle).orElse fun _ => ((f 500).settle).orElse fun _ => ((f 1600).settle).orElse fun _ => (f 4000).settle

end Iv

/-- The special functions of R150 by row. -/
inductive Sf where
  | exp | exp2 | log | log2 | sin | cos | tanh | sigm | erf | atan
  deriving DecidableEq, Repr

/-- Number of a special function, for its free values. -/
def Sf.num : Sf → Nat
  | .exp => 0 | .exp2 => 1 | .log => 2 | .log2 => 3 | .sin => 4 | .cos => 5 | .tanh => 6 | .sigm => 7 | .erf => 8 | .atan => 9

/-- A value just below one, and a positive one below every quantum. -/
def belowOne (s : Bool) : XV := .num s (2 ^ 200 - 1) (-200) true

/-- A positive value below every quantum of every format. -/
def vanishing (s : Bool) : XV := .num s 1 (-40000) true

/-- The inexact value of a function at a finite nonzero argument (−1)^s × m × 2^e. -/
def sfInexact (fn : Sf) (s : Bool) (m : Nat) (e : Int) : Option XV :=
  let big : Bool := 12 < (bitLen m : Int) + e
  let x : Iv := .pt (if s then -(m : Int) else m) e
  let ax : Iv := .pt m e
  let sgn (v : Option XV) : Option XV := v.map fun a => if s then a.neg else a
  match fn with
  | .exp => if big then some (if s then vanishing false else .num false 1 40000 true) else Iv.ziv fun p => Iv.exp p x
  | .exp2 =>
    if big then some (if s then vanishing false else .num false 1 40000 true)
    else Iv.ziv fun p =>
      let k := Iv.near x
      let r := Iv.add (p + 32) x (.pt (-k) 0)
      let y := Iv.expSmall p (Iv.mul (p + 32) r (Iv.ln2 (p + 32)))
      { y with e := y.e + k }
  | .log => Iv.ziv fun p => Iv.ln p m e
  | .log2 => Iv.ziv fun p => Iv.div p (Iv.ln p m e) (Iv.ln2 p)
  | .sin => Iv.ziv fun p => (Iv.sinCos p (if s then -(m : Int) else m) e).1
  | .cos => Iv.ziv fun p => (Iv.sinCos p (if s then -(m : Int) else m) e).2
  | .tanh =>
    if big then some (belowOne s)
    else sgn (Iv.ziv fun p =>
      if (bitLen m : Int) + e < 0 then
        let em := Iv.expm1Small (p + 32) (Iv.mul (p + 2048) (.pt 2 0) ax)
        Iv.div p em (Iv.add (p + 32) em (.pt 2 0))
      else
        let u := Iv.exp (p + 32) (Iv.neg (Iv.mul (p + 64) (.pt 2 0) ax))
        Iv.div p (Iv.add (p + 32) (.pt 1 0) u.neg) (Iv.add (p + 32) (.pt 1 0) u))
  | .sigm =>
    if big then some (if s then vanishing false else belowOne false)
    else Iv.ziv fun p => Iv.div p (.pt 1 0) (Iv.add (p + 6000) (.pt 1 0) (Iv.exp (p + 32) x.neg))
  | .erf => if 4 < (bitLen m : Int) + e then some (belowOne s) else sgn (Iv.ziv fun p => Iv.erf p ax)
  | .atan =>
    sgn (Iv.ziv fun p =>
      if (bitLen m : Int) + e ≤ 0 ∨ (m = 2 ^ (bitLen m - 1) ∧ (bitLen m : Int) + e = 1) then Iv.atanSmall p ax
      else
        let h := let a := Iv.pi (p + 32); { a with e := a.e - 1 }
        Iv.add p h (Iv.atanSmall (p + 32) (Iv.div (p + 32) (.pt 1 0) ax)).neg)

/-- A settled value rounded with NX (R150); an unsettled one is a free value (log 9). -/
def sfRound (fn : Nat) (f : Fmt) (rm : Rm) (draw a b : Nat) (v : Option XV) : Nat × Flags :=
  match v with
  | some x => roundX f rm draw x
  | none => (Config.freeSpecial fn f.code rm.ctorIdx draw a b % 2 ^ fbits f, 16)

/-- Pattern of 1.0. -/
def oneOf (f : Fmt) : Nat := bias f * 2 ^ fracBits f

/-- A special function at a pattern (R150, R151). -/
def special (fn : Sf) (f : Fmt) (rm : Rm) (draw a : Nat) : Nat × Flags :=
  let fl := if isSig f a then 1 else 0
  let exact (x : XV) : Nat × Flags := roundX f rm draw x
  let iv : Nat × Flags := (defNan f, 1)
  match valueOf f a with
  | .nan => (defNan f, fl)
  | .inf s => match fn with
    | .exp | .exp2 => exact (if s then .zero else .inf false)
    | .log | .log2 => if s then iv else exact (.inf false)
    | .sin | .cos => iv
    | .tanh | .erf => exact (.num s 1 0 false)
    | .sigm => exact (if s then .zero else .num false 1 0 false)
    | .atan => sfRound 9 f rm draw a 0 ((Iv.ziv fun p => let h := Iv.pi p; { h with e := h.e - 1 }).map
        fun v => if s then v.neg else v)
  | .num s m e _ =>
    if m = 0 then match fn with
      | .exp | .exp2 | .cos => exact (.num false 1 0 false)
      | .log | .log2 => (withSign f true (infPat f), 2)
      | .sigm => exact (.num false 1 (-1) false)
      | _ => (a, 0)
    else
      let top : Int := (bitLen m : Int) - 1 + e
      let pow2 : Bool := m == 2 ^ (bitLen m - 1)
      let isInt : Bool := decide (0 ≤ e) || m % 2 ^ (-e).toNat == 0
      match fn with
      | .exp2 =>
        if isInt ∧ top ≤ 12 then
          let k : Int := if 0 ≤ e then m * (2 ^ e.toNat : Nat) else (m / 2 ^ (-e).toNat : Nat)
          exact (.num false 1 (if s then -k else k) false)
        else sfRound 1 f rm draw a 0 (sfInexact .exp2 s m e)
      | .log | .log2 =>
        if s then iv
        else if pow2 ∧ top = 0 then (0, 0)
        else if fn = .log2 ∧ pow2 then exact (.int top)
        else sfRound fn.num f rm draw a 0 (sfInexact fn s m e)
      | _ => sfRound fn.num f rm draw a 0 (sfInexact fn s m e)

/-- a^k by squaring, as an enclosure of a positive value. -/
def ivPow (p : Nat) (a : Iv) : Nat → Nat → Iv → Iv
  | 0, _, acc => acc
  | fuel + 1, k, acc =>
    let acc := Iv.mul p acc acc
    ivPow p a fuel k (if bitOf k fuel then Iv.mul p acc a else acc)

/-- The same value with an odd significand; the first argument bounds the halvings. -/
def oddPart : Nat → Nat → Int → Nat × Int
  | 0, m, e => (m, e)
  | k + 1, m, e => if m % 2 = 0 then oddPart k (m / 2) (e + 1) else (m, e)

/-- FPOWN: a^n for a signed integer n (R150, R151). -/
def powN (f : Fmt) (rm : Rm) (draw a : Nat) (n : Int) : Nat × Flags :=
  let fl := if isSig f a then 1 else 0
  if n = 0 then (oneOf f, fl)
  else
    let odd : Bool := n.natAbs % 2 == 1
    match valueOf f a with
    | .nan => (defNan f, fl)
    | .inf s => if 0 < n then (withSign f (s && odd) (infPat f), 0) else (withSign f (s && odd) 0, 0)
    | .num s m e _ =>
      let sg := s && odd
      if m = 0 then (if 0 < n then (withSign f sg 0, 0) else (withSign f sg (infPat f), 2))
      else
        let k := n.natAbs
        let (m, e) := oddPart (bitLen m) m e
        if bitLen m * k ≤ 600 ∨ m = 1 then
          let q : FP := (.num sg (if m = 1 then 1 else m ^ k) (e * k) false, 0)
          roundP f rm draw (if 0 < n then q else divP (.num false 1 0 false, 0) q)
        else
          let v := Iv.ziv fun p =>
            let y := ivPow (p + 80) (.pt m 0) (bitLen k) k (.pt 1 0)
            let y := if 0 < n then y else Iv.div (p + 80) (.pt 1 0) y
            { y with e := y.e + e * n }
          sfRound 10 f rm draw a (ofInt 32 n) (v.map fun x => if sg then x.neg else x)

end Sys2Proof.Machine
end

