-- ==== Sys2Proof/Machine/Series.lean ====
section
/-! DEFINITION. Series arithmetic on jets (R173 to R176): each rule as sums, fused steps and one final step, every rounding
with the draw of its coefficient and every exception charged to its coefficient index (R174). -/

namespace Sys2Proof.Machine

/-- How a firing rounds one element: format, mode, and the draw of each coefficient index (R80). -/
structure Ser where
  fmt  : Fmt
  rm   : Rm
  draw : Nat → Nat

/-- Coefficients with the flags charged so far. -/
abbrev Coefs := List Nat × Nat

namespace Ser

/-- Round a step that belongs to index `j`: pattern and charged flags. -/
def rnd (S : Ser) (j : Nat) (a : FP) : Nat × Nat :=
  let r := roundP S.fmt S.rm (S.draw j) a
  (r.1, chargeTo j r.2)

/-- Coefficient `i` as an operand; above the list it is +0. -/
def co (S : Ser) (a : List Nat) (i : Nat) : FP := opnd S.fmt (a.getD i 0)

/-- An exact integer. -/
def int (x : Int) : FP := (.int x, 0)

/-- One step of a sum. -/
def addStep (S : Ser) (j : Nat) (sub : Bool) (st : Option FP × Nat) (t : FP) : Option FP × Nat :=
  let t := if sub then (t.1.neg, t.2) else t
  let r := S.rnd j (match st.1 with | none => t | some s => addP S.rm s t)
  (some (valueOf S.fmt r.1, 0), st.2 ||| r.2)

/-- A sum of exact terms (R173): a leading term starts it exactly, the first term alone is rounded once, an empty sum is
+0. The value may carry flags not yet charged. -/
def sum (S : Ser) (j : Nat) (lead : Option FP) (sub : Bool) (terms : List FP) : FP × Nat :=
  let r := terms.foldl (S.addStep j sub) (lead, 0)
  (r.1.getD (.zero, 0), r.2)

/-- The pattern of a value of the format. -/
def pat (S : Ser) (a : FP) : Nat := (roundX S.fmt .rne 0 a.1).1

/-- A rule that is a sum alone. -/
def sumOnly (S : Ser) (j : Nat) (lead : Option FP) (sub : Bool) (terms : List FP) : Nat × Nat :=
  let r := S.sum j lead sub terms
  (S.pat r.1, r.2 ||| chargeTo j r.1.2)

/-- A rule that ends in one more step. -/
def fin (S : Ser) (j : Nat) (s : FP × Nat) (last : FP → FP) : Nat × Nat :=
  let r := S.rnd j (last s.1)
  (r.1, s.2 ||| r.2)

/-- Products a_i b_(m−i) for i from `lo` to `hi`. -/
def conv (S : Ser) (a b : List Nat) (m lo hi : Nat) : List FP :=
  ((List.range (hi + 1)).filter (lo ≤ ·)).map fun i => mulP (S.co a i) (S.co b (m - i))

/-- Products i a_i b_(m−i) for i from 1 to `hi`. -/
def conv1 (S : Ser) (a b : List Nat) (m hi : Nat) : List FP :=
  ((List.range (hi + 1)).filter (1 ≤ ·)).map fun (i : Nat) => mulP (int i) (mulP (S.co a i) (S.co b (m - i)))

/-- Evaluate a rule for the coefficients 0 to `k` in ascending order. -/
def build (k : Nat) (rule : List Nat → Nat → Nat × Nat) : Coefs :=
  (List.range (k + 1)).foldl (fun st j => let r := rule st.1 j; (st.1 ++ [r.1], st.2 ||| r.2)) ([], 0)

def add (S : Ser) (k : Nat) (a b : List Nat) : Coefs :=
  build k fun _ j => S.rnd j (addP S.rm (S.co a j) (S.co b j))

def sub (S : Ser) (k : Nat) (a b : List Nat) : Coefs :=
  build k fun _ j => let y := S.co b j; S.rnd j (addP S.rm (S.co a j) (y.1.neg, y.2))

def mul (S : Ser) (k : Nat) (a b : List Nat) : Coefs :=
  build k fun _ j => S.sumOnly j none false (S.conv a b j 0 j)

def fma (S : Ser) (k : Nat) (a b e : List Nat) : Coefs :=
  build k fun _ j => S.sumOnly j (some (S.co e j)) false (S.conv a b j 0 j)

def div (S : Ser) (k : Nat) (a b : List Nat) : Coefs :=
  build k fun c j => S.fin j (S.sum j (some (S.co a j)) true (S.conv b c j 1 j)) fun s => divP s (S.co b 0)

/-- FRCP: c_0 is 1/a_0, and above it the leading term is 0. -/
def rcp (S : Ser) (k : Nat) (a : List Nat) : Coefs :=
  build k fun c j =>
    S.fin j (S.sum j (some (if j = 0 then int 1 else (.zero, 0))) true (S.conv a c j 1 j)) fun s => divP s (S.co a 0)

def sqrt (S : Ser) (k : Nat) (a : List Nat) : Coefs :=
  build k fun c j =>
    if j = 0 then S.rnd 0 (sqrtP (S.co a 0))
    else S.fin j (S.sum j (some (S.co a j)) true (S.conv c c j 1 (j - 1))) fun s => divP s (mulP (int 2) (S.co c 0))

/-- The sign that FABS and FCPSGN read: that of the first coefficient that is not ±0 (R175). -/
def sigma (S : Ser) (a : List Nat) : Bool :=
  match a.find? (fun x => x % 2 ^ (fbits S.fmt - 1) != 0) with
  | some x => signOf S.fmt x
  | none => false

/-- Every sign bit inverted. -/
def flip (S : Ser) (a : List Nat) : List Nat := a.map fun x => (x ^^^ 2 ^ (fbits S.fmt - 1)) % 2 ^ fbits S.fmt

/-- The first coefficient with a given sign bit. -/
def setSign (S : Ser) (s : Bool) : List Nat → List Nat
  | [] => []
  | x :: r => withSign S.fmt s (x % 2 ^ (fbits S.fmt - 1)) :: r

/-- A special function of c_0, charged to index `j`. -/
def sf (S : Ser) (j : Nat) (fn : Sf) (a0 : Nat) : Nat × Nat :=
  let r := special fn S.fmt S.rm (S.draw j) a0
  (r.1, chargeTo j r.2)

/-- The last step of a rule with an exact irrational factor (R173): `f p` encloses the result at precision p where the
operands are finite and the result is not zero; `plain` is the step with the factor 1, whose special results stand. -/
def irr (S : Ser) (j : Nat) (plain : FP) (f : Nat → Iv) : Nat × Nat :=
  match plain.1 with
  | .num _ 0 _ false | .nan | .inf _ => S.rnd j plain
  | .num _ _ _ _ => match Iv.ziv f with
    | some v => S.rnd j (v, plain.2)
    | none => (Config.freeSpecial 11 S.fmt.code S.rm.ctorIdx (S.draw j) 0 0 % 2 ^ fbits S.fmt, chargeTo j (16 ||| plain.2))

/-- An exact number as an enclosure. -/
def iv (a : FP) : Iv :=
  match a.1 with
  | .num s m e _ => .pt (if s then -(m : Int) else m) e
  | _ => .pt 0 0

/-- A quotient whose divisor may be negative. -/
def ivDiv (p : Nat) (a : Iv) (b : Iv) : Iv := if 0 < b.lo then Iv.div p a b else Iv.div p a.neg b.neg

/-- FEXP and, with the factor ln 2, FEXP2. -/
def exp (S : Ser) (two : Bool) (k : Nat) (a : List Nat) : Coefs :=
  build k fun c j =>
    if j = 0 then S.sf 0 (if two then .exp2 else .exp) (a.getD 0 0)
    else
      let s := S.sum j none false (S.conv1 a c j j)
      if two then
        let r := S.irr j (divP s.1 (int j)) fun p => Iv.divN p (Iv.mul (p + 64) (Iv.ln2 (p + 64)) (iv s.1)) j
        (r.1, s.2 ||| r.2)
      else S.fin j s fun s => divP s (int j)

/-- FLOG and, with the first operand divided by ln 2, FLOG2. -/
def log (S : Ser) (two : Bool) (k : Nat) (a : List Nat) : Coefs :=
  build k fun c j =>
    if j = 0 then S.sf 0 (if two then .log2 else .log) (a.getD 0 0)
    else
      let s := S.sum j none false (S.conv1 c a j (j - 1))
      let ja := mulP (int j) (S.co a j)
      let den := mulP (int j) (S.co a 0)
      let plain := divP (addP S.rm ja (s.1.1.neg, s.1.2)) den
      let aj := S.co a j
      if two ∧ aj.1 ≠ .num false 0 0 false ∧ aj.1 ≠ .num true 0 0 false then
        match aj.1, s.1.1, (S.co a 0).1 with
        | .num .., .num .., .num _ am _ _ =>
          let numer (p : Nat) : Iv := Iv.add (p + 64) (Iv.div (p + 64) (iv ja) (Iv.ln2 (p + 64))) (iv s.1).neg
          if am = 0 then
            match Iv.ziv numer with
            | some v => let r := S.rnd j (divP (v, 0) den); (r.1, s.2 ||| r.2)
            | none => let r := S.rnd j (divP ja den); (r.1, s.2 ||| r.2)
          else
            let r := S.irr j (.num false 1 0 true, plain.2) fun p => ivDiv p (numer p) (iv den)
            (r.1, s.2 ||| r.2)
        | _, _, _ => let r := S.rnd j plain; (r.1, s.2 ||| r.2)
      else let r := S.rnd j plain; (r.1, s.2 ||| r.2)

/-- The coupled pair of FSIN (`cosine` false) and FCOS: the emitted series is charged to its own indices, the other one to
the index that first reads it. -/
def sinCos (S : Ser) (cosine : Bool) (k : Nat) (a : List Nat) : Coefs :=
  let step (st : List Nat × List Nat × Nat) (j : Nat) : List Nat × List Nat × Nat :=
    let (sg, kp, fl) := st
    let sIdx := if cosine then j + 1 else j
    let kIdx := if cosine then j else j + 1
    let sNew (kp : List Nat) : Nat × Nat :=
      if j = 0 then S.sf sIdx .sin (a.getD 0 0)
      else S.fin sIdx (S.sum sIdx none false (S.conv1 a kp j j)) fun s => divP s (int j)
    let kNew (sg : List Nat) : Nat × Nat :=
      if j = 0 then S.sf kIdx .cos (a.getD 0 0)
      else S.fin kIdx (S.sum kIdx none false (S.conv1 a sg j j)) fun s => divP (s.1.neg, s.2) (int j)
    if cosine then
      if j < k then let x := sNew kp; let y := kNew sg; (sg ++ [x.1], kp ++ [y.1], fl ||| x.2 ||| y.2)
      else let y := kNew sg; (sg, kp ++ [y.1], fl ||| y.2)
    else if j < k then let x := sNew kp; let y := kNew sg; (sg ++ [x.1], kp ++ [y.1], fl ||| x.2 ||| y.2)
    else let x := sNew kp; (sg ++ [x.1], kp, fl ||| x.2)
  let r := (List.range (k + 1)).foldl step ([], [], 0)
  (if cosine then r.2.1 else r.1, r.2.2)

/-- A rule c_j = (1/j) Σ i a_i u_(j−i) over an auxiliary series whose coefficient of index m is made just before c_(m+1). -/
def withAux (S : Ser) (k : Nat) (a : List Nat) (c0 : Nat × Nat) (aux : List Nat → List Nat → Nat → Nat × Nat) : Coefs :=
  let step (st : List Nat × List Nat × Nat) (m : Nat) : List Nat × List Nat × Nat :=
    let (c, u, fl) := st
    let x := aux c u m
    let u := u ++ [x.1]
    let y := S.fin (m + 1) (S.sum (m + 1) none false (S.conv1 a u (m + 1) (m + 1))) fun s => divP s (int (m + 1))
    (c ++ [y.1], u, fl ||| x.2 ||| y.2)
  let r := (List.range k).foldl step ([c0.1], [], c0.2)
  (r.1, r.2.2)

def tanh (S : Ser) (k : Nat) (a : List Nat) : Coefs :=
  S.withAux k a (S.sf 0 .tanh (a.getD 0 0)) fun c _ m =>
    S.sumOnly (m + 1) (some (if m = 0 then int 1 else (.zero, 0))) true (S.conv c c m 0 m)

def sigm (S : Ser) (k : Nat) (a : List Nat) : Coefs :=
  S.withAux k a (S.sf 0 .sigm (a.getD 0 0)) fun c _ m => S.sumOnly (m + 1) (some (S.co c m)) true (S.conv c c m 0 m)

def atan (S : Ser) (k : Nat) (a : List Nat) : Coefs :=
  let c0 := S.sf 0 .atan (a.getD 0 0)
  let step (st : List Nat × List Nat × List Nat × Nat) (m : Nat) : List Nat × List Nat × List Nat × Nat :=
    let (c, g, h, fl) := st
    let x := S.sumOnly (m + 1) (if m = 0 then some (int 1) else none) false (S.conv a a m 0 m)
    let g := g ++ [x.1]
    let y := S.fin (m + 1) (S.sum (m + 1) (some (mulP (int (m + 1)) (S.co a (m + 1)))) true (S.conv g h m 1 m))
      fun s => divP s (S.co g 0)
    let h := h ++ [y.1]
    let z := S.rnd (m + 1) (divP (S.co h m) (int (m + 1)))
    (c ++ [z.1], g, h, fl ||| x.2 ||| y.2 ||| z.2)
  let r := (List.range k).foldl step ([c0.1], [], [], c0.2)
  (r.1, r.2.2.2)

def erf (S : Ser) (k : Nat) (a : List Nat) : Coefs :=
  let c0 := S.sf 0 .erf (a.getD 0 0)
  let step (st : List Nat × List Nat × List Nat × Nat) (m : Nat) : List Nat × List Nat × List Nat × Nat :=
    let (c, q, E, fl) := st
    let x := S.sumOnly (m + 1) (some (.zero, 0)) true (S.conv a a m 0 m)
    let q := q ++ [x.1]
    let y := if m = 0 then S.sf 1 .exp x.1
      else S.fin (m + 1) (S.sum (m + 1) none false (S.conv1 q E m m)) fun s => divP s (int m)
    let E := E ++ [y.1]
    let s := S.sum (m + 1) none false (S.conv1 a E (m + 1) (m + 1))
    let z := S.irr (m + 1) (divP s.1 (int (m + 1))) fun p =>
      Iv.divN p (Iv.mul (p + 64) (Iv.twoOverSqrtPi (p + 64)) (iv s.1)) (m + 1)
    (c ++ [z.1], q, E, fl ||| x.2 ||| y.2 ||| s.2 ||| z.2)
  let r := (List.range k).foldl step ([c0.1], [], [], c0.2)
  (r.1, r.2.2.2)

def rsqrt (S : Ser) (k : Nat) (a : List Nat) : Coefs :=
  build k fun c j =>
    if j = 0 then S.rnd 0 (rsqrtP (S.co a 0))
    else
      let terms := ((List.range (j + 1)).filter (1 ≤ ·)).map fun (i : Nat) =>
        let d := 2 * j - i
        mulP (.num true d (-1) false, 0) (mulP (S.co a i) (S.co c (j - i)))
      S.fin j (S.sum j none false terms) fun s => divP s (mulP (int j) (S.co a 0))

/-- The bits of n below its top bit, from high to low. -/
def lowBits (n : Nat) : List Bool := ((List.range (bitLen n - 1)).map fun i => bitOf n i).reverse

/-- FPOWN in its three forms (R176). -/
def pown (S : Ser) (k : Nat) (a : List Nat) (n : Int) : Coefs :=
  let a0 := a.getD 0 0
  let zero : Bool := a0 % 2 ^ (fbits S.fmt - 1) == 0
  if n = 0 then (oneOf S.fmt :: List.replicate k 0, if isSig S.fmt a0 then 1 else 0)
  else if zero ∧ 0 < n then
    (lowBits n.toNat).foldl (fun st b =>
      let c := S.mul k st.1 st.1
      let d := if b then S.mul k c.1 a else (c.1, 0)
      (d.1, st.2 ||| c.2 ||| d.2)) ((List.range (k + 1)).map (a.getD · 0), if isSig S.fmt a0 then 1 else 0)
  else build k fun c j =>
    if j = 0 then let r := powN S.fmt S.rm (S.draw 0) a0 n; (r.1, r.2)
    else
      let terms := ((List.range (j + 1)).filter (1 ≤ ·)).map fun (i : Nat) =>
        mulP (int ((n + 1) * i - j)) (mulP (S.co a i) (S.co c (j - i)))
      S.fin j (S.sum j none false terms) fun s => divP s (mulP (int j) (S.co a 0))

/-- The special functions as series. -/
def special (S : Ser) (fn : Sf) (k : Nat) (a : List Nat) : Coefs :=
  match fn with
  | .exp => S.exp false k a
  | .exp2 => S.exp true k a
  | .log => S.log false k a
  | .log2 => S.log true k a
  | .sin => S.sinCos false k a
  | .cos => S.sinCos true k a
  | .tanh => S.tanh k a
  | .sigm => S.sigm k a
  | .atan => S.atan k a
  | .erf => S.erf k a

/-- FRND of a pattern (R140): pattern and flags. -/
def rint (S : Ser) (exact : Bool) (x : Nat) : Nat × Nat :=
  match valueOf S.fmt x with
  | .nan => (defNan S.fmt, if isSig S.fmt x then 1 else 0)
  | .inf _ => (x, 0)
  | .num s 0 _ _ => (withSign S.fmt s 0, 0)
  | v => match toIntX S.rm (S.draw 0) v with
    | some (i, inx) =>
      let r := roundX S.fmt .rtz 0 (.num (signOf S.fmt x) i.natAbs 0 false)
      (r.1, if exact && inx then 16 else 0)
    | none => (x, 0)

/-- FSCALE: every coefficient times 2^n (R140, R175). -/
def scale (S : Ser) (k : Nat) (a : List Nat) (n : Int) : Coefs :=
  build k fun _ j => S.rnd j (mulP (S.co a j) (.num false 1 n false, 0))

end Ser

end Sys2Proof.Machine
end

