-- ==== Sys2Proof/Machine/Value.lean ====
section
/-! DEFINITION. What value and jet instructions share: draws (R80, R152), the order of a jet result (R168 to R170), reading
jets, assembling planes, and conversion of one element (R142). -/

namespace Sys2Proof.Machine

/-- The 32-bit stochastic draw for element `e`, coefficient `j` and extended index `ext` of a token with a tag (R80). -/
def Fire.drawAt (x : Fire) (tag : Tag) (e j ext : Nat) : Nat :=
  draw64 x.cap.key.toNat tag.bits x.f.img.nodeid.toNat e j 1 0 ext >>> 32

/-- The rounding of element `e` of the output token of this firing. -/
def Fire.ser (x : Fire) (e : Nat) : Ser := { fmt := x.n.fmt, rm := x.cap.rm, draw := fun j => x.drawAt x.f.tag e j 0 }

/-- The operand position is an immediate. -/
def Fire.isImm (x : Fire) (p : Nat) : Bool := x.n.immp && p + 1 == x.n.arity.toNat

/-- Order of an operand: 0 for a plain one or an immediate. -/
def Fire.ordOf (x : Fire) (p : Nat) : Nat := if x.isImm p then 0 else (x.port p).jet.toNat

/-- Order of a result over operands (R169). -/
def Fire.order? (x : Fire) (ps : List Nat) : Nat :=
  let js := (ps.map x.ordOf).filter (· != 0)
  match js with
  | [] => 0
  | j :: r => min (r.foldl min j) x.capK

/-- Flag(FMT, 0) of R170: a jet operand where K is 0. -/
def Fire.jetOff (x : Fire) (ps : List Nat) : Nat :=
  if x.n.lane == .jet && x.capK == 0 && ps.any (fun p => x.ordOf p != 0) then flag clsFMT 0 else 0

/-- Coefficients 0 to `k` of element `e` of an operand; a plain operand is a constant jet (R169). -/
def Fire.coefs (x : Fire) (p e k : Nat) : List Nat :=
  x.arg p e :: (List.range k).map fun j => if j + 1 ≤ x.ordOf p then (x.port p).elem (nodeSize x.n) (j + 1) e else 0

/-- The planes of a list of elements of order `k`, as payload bytes of `w`-byte elements. -/
def planes (w k : Nat) (es : List (List Nat)) : List Byte :=
  (List.range (k + 1)).flatMap fun j => elems w (es.map (·.getD j 0))

/-- An output over the matched range in the node's format, from elements that are coefficient lists of order `k`. -/
def Fire.jetTok (x : Fire) (k : Nat) (es : List (List Nat)) : Tok :=
  x.tok x.n.fmt es.length k (planes x.n.fmt.size k es)

/-- An instruction whose result element is a series of its operand elements (R129, R169, R175). -/
def Fire.jetMap (x : Fire) (ps : List Nat) (rule : Ser → Nat → Nat → Coefs) : List Out × Nat :=
  let k := x.order? ps
  let rs := (List.range x.f.len).map fun e => rule (x.ser e) k e
  ([{ out := 0, tok := x.jetTok k (rs.map (·.1)) }], rs.foldl (fun a r => a ||| r.2) (x.jetOff ps))

/-- An instruction that emits plain elements of `w` bytes and format `f`, one for each element of the matched range. -/
def Fire.plainMap (x : Fire) (f : Fmt) (w : Nat) (extra : Nat) (rule : Nat → Nat × Nat) : List Out × Nat :=
  let rs := (List.range x.f.len).map rule
  ([{ out := 0, tok := x.tok f x.f.len 0 (elems w (rs.map (·.1))) }], rs.foldl (fun a r => a ||| r.2) extra)

/-- A numeric type: a float format, or an integer of a width and signedness. -/
structure NumTy where
  fmt : Fmt
  w   : Nat := 32
  uns : Bool := false
  deriving DecidableEq, Repr

/-- Bytes of an element of a numeric type. -/
def NumTy.size (t : NumTy) : Nat := if t.fmt = .I then t.w / 8 else t.fmt.size

/-- Convert one element (R142): pattern and flags. -/
def cvtElem (src dst : NumTy) (rm : Rm) (draw a : Nat) : Nat × Nat :=
  if src.fmt = .I then
    let v := readInt src.w src.uns a
    if dst.fmt = .I then (ofInt dst.w v, 0) else roundX dst.fmt rm draw (.int v)
  else if dst.fmt = .I then toIntP dst.w dst.uns rm draw (opnd src.fmt a)
  else roundP dst.fmt rm draw (opnd src.fmt a)

/-- The numeric type of the node's integer side in MOD[5:3], with a format. -/
def numTy (f : Fmt) (n : Node) : NumTy := { fmt := f, w := intWidth n, uns := isUns n }

/-- CVT and CONV (R128, R142): the source format is the token's; an equal format is emitted unchanged, a source of FMT 110
raises FMT and emits nothing, a jet converts coefficient by coefficient. -/
def Fire.convert (x : Fire) : List Out × Nat :=
  let t := x.port 0
  if t.fmt = x.n.fmt ∧ x.jetOff [0] = 0 ∧ t.jet.toNat ≤ x.capK then ([{ out := 0, tok := { t with deps := x.deps, port := 0 } }], 0)
  else if t.fmt = .G then ([], flag clsFMT 0)
  else
    let src := numTy t.fmt x.n
    let dst := numTy x.n.fmt x.n
    let k := x.order? [0]
    let rs := (List.range (k + 1)).flatMap fun j => (List.range x.f.len).map fun e =>
      let a := t.elem src.size j e
      let r := if t.fmt = x.n.fmt then (a, 0) else cvtElem src dst x.cap.rm (x.drawAt x.f.tag e j 0) a
      (r.1, chargeTo j r.2)
    ([{ out := 0, tok := x.tok x.n.fmt x.f.len k (elems dst.size (rs.map (·.1))) }], rs.foldl (fun a r => a ||| r.2) (x.jetOff [0]))

end Sys2Proof.Machine
end

