-- ==== Sys2Proof/Machine/Kernel.lean ====
section
/-! DEFINITION. Kernels, frames and tag spaces: activations (R195 to R199), frame slots (R201 to R203), tag-space instances
(R204 to R206, R216), callee frames (R208), and the instructions of R217 to R222. -/

namespace Sys2Proof.Machine

/-! ### Frames -/

/-- The tag of a frame number on a core, at space 0 and iteration 0. -/
def frameTag (ctx : BitVec 6) (n f : Nat) : Tag :=
  { ctx := ctx, die := BitVec.ofNat 4 (dieOf n), frame := BitVec.ofNat 14 (coreIn n * 512 + f) }

/-- A frame number is free (R199): never used, or ended with no token left that names it. -/
def State.frameFree (s : State) (n f : Nat) : Bool :=
  match Assoc.get none (s.core n).frames f with
  | none => true
  | some x => x.ended && !s.naming fun t => t.core == n && t.fnum == f

/-- The free frame numbers of a core, ascending. -/
def State.freeFrames (s : State) (n : Nat) : List Nat := (List.range (s.core n).fcount).filter (s.frameFree n)

/-- Frames of a core that an instance holds. -/
def State.framesHeld (s : State) (n : Nat) (id : InstId) : Nat :=
  ((s.core n).frames.filter fun p => match p.2 with
    | some x => x.owner == id && !s.frameFree n p.1
    | none => false).length

/-- Frames of a core that checked instances other than one have reserved and not taken (R212). -/
def State.reserved (s : State) (n : Nat) (but : InstId) : Nat :=
  s.groups.foldl (fun a g => g.insts.foldl (fun a i =>
    let id : InstId := { serial := g.serial, kernel := i.kernel, replica := i.replica }
    match g.kernels[i.kernel]? with
    | some k => if i.n = n ∧ i.state ≠ .evicted ∧ k.unchecked = false ∧ id ≠ but then
        a + (i.limit * (1 + k.callees) - s.framesHeld n id)
      else a
    | none => a) a) 0

/-- A CALL of a frame's activation finds a frame that it may take: beyond those that other checked instances have reserved
(R208, R212). -/
def State.mayCall (s : State) (n : Nat) (fr : Frame) : Bool := s.reserved n fr.owner < (s.freeFrames n).length

/-- The activation that a frame belongs to has not ended (R197): its own frame is there, of the same activation. -/
def State.alive (s : State) (t : Tag) (fr : Frame) : Bool :=
  match s.frame { t with frame := BitVec.ofNat 14 (coreIn t.core * 512 + fr.root) } with
  | some r => !r.ended && r.owner == fr.owner && r.actno == fr.actno
  | none => false

/-- An element without the waiting tokens whose tag satisfies `p`, and without what it remembers of their groups. -/
def Elem.forget (e : Elem) (p : Tag → Bool) : Elem :=
  { e with conc := e.conc.filter fun x => !p x.tok.tag, closed := e.closed.filter fun x => !p x.2.1,
           folds := e.folds.filter fun x => !p x.tag, reord := e.reord.filter fun x => !p x.2.1,
           notes := e.notes.filter fun x => !p x.2.1 }

/-- Discard every WAITING and SPILLED token whose tag satisfies `p`, and the triggers of deferred reads, and count them as
stranded (R112). -/
def State.retireWhere (s : State) (c : BitVec 6) (p : Tag → Bool) : State :=
  let s := s.elems.foldl (fun s (k, e) =>
    let gone := (e.conc.filter fun x => p x.tok.tag).length
    let s := s.setElem (k / 128) (k % 128) (e.forget p)
    if gone = 0 then s else s.count c (k / 128) (k % 128) 0x06 gone) s
  let late (o : Op) : Bool := p o.fir.tag && o.kind == .slotRead
  let s := s.ops.foldl (fun s o => if late o then s.count c o.fir.n o.fir.elem 0x06 1 else s) s
  { s with ops := s.ops.filter fun o => !late o }

/-- Retire the tokens of frames that end, and drop the requests that wait there (R216). -/
def State.retireFrames (s : State) (c : BitVec 6) (p : Tag → Bool) : State :=
  { s.retireWhere c p with ops := (s.retireWhere c p).ops.filter fun o => !(p o.fir.tag && (o.kind == .grant || o.kind == .close)) }

/-- Close every instance of a frame and end it (R197). -/
def Frame.finish (f : Frame) : Frame :=
  { f with ended := true, insts := f.insts.map fun i => { i with state := .closed, waits := [], closer := none } }

/-- The activation's frame of a firing's frame: itself, or the one its callee frame stands under. -/
def Fire.frame? (x : Fire) (s : State) : Option Frame := s.frame x.f.tag

/-- A trigger that comes too late is a stranded token (R198). -/
def Fire.stranded (x : Fire) (s : State) : State := s.count x.f.tag.ctx x.f.n x.f.elem 0x06 1

/-- The end of an activation's frame and of the callee frames under it: tokens retired. -/
def State.endFrames (s : State) (c : BitVec 6) (n root : Nat) (owner : InstId) : State :=
  let mine := (s.core n).frames.filterMap fun p => match p.2 with
    | some x => if x.root = root ∧ x.owner = owner ∧ x.ended = false then some p.1 else none
    | none => none
  let s := mine.foldl (fun s f => s.modFrame (frameTag c n f) Frame.finish) s
  s.retireFrames c fun t => t.ctx == c && t.core == n && mine.contains t.fnum

/-- What the end of an activation does to its instance (R215): END. -/
def State.endInst (s : State) (id : InstId) (root : Nat) : State :=
  s.modInst id fun i =>
    let i := { i with live := i.live.filter (· != root) }
    if i.state == .firing && i.live.isEmpty then { i with state := .parked } else i

/-- COMMIT and DISCARD (R197, R198, R222): the first to fire ends the activation; COMMIT sends its staged tokens and end
marks on their way, DISCARD releases their places; an armed frame then faults, after a COMMIT once all is published (R371). -/
def Fire.endActivation (x : Fire) (s : State) (commit : Bool) : State :=
  match x.frame? s with
  | none => x.stranded s
  | some fr =>
    if fr.ended then x.stranded s
    else if fr.ret.isSome then x.fault s 0x0006
    else
      let root := x.f.tag.fnum
      let id := fr.owner
      let s := s.endFrames x.f.tag.ctx x.f.n root id
      let pipes := match s.group id.serial with | some g => g.pipes | none => []
      let mine (y : Staged) : Bool := y.kernel == id.kernel && y.replica == id.replica && y.frame == root
      let items := pipes.zipIdx.flatMap fun (p, i) => (p.staged.filter mine).map fun y => (i, y)
      let s := (List.range pipes.length).foldl (fun s p => s.setPipe id.serial p fun q => { q with staged := q.staged.filter fun y => !mine y }) s
      let s := if !commit then (List.range pipes.length).foldl (fun s p => s.refreshPipe id.serial p false) s
        else
          let (k, s) := s.newId
          let c : Commit := { id := k, serial := id.serial, items := items, deps := s.live x.deps,
                              ends := fr.ends.map (fun p => (id.kernel, id.replica, p)),
                              armed := fr.armed.map fun code => (faultRec s x.f (im x.n) 0 0x000B 0 false code.toNat, x.asOp) }
          { s with commits := s.commits ++ [c] }
      let s := (s.endInst id root).settleGroups
      match fr.armed, commit with
      | some code, false => x.fault s 0x000B 0 false code.toNat
      | _, _ => s

def execCommit (n : Node) (s : State) : Host.Outcome State Fault Refusal := fire 0x0EA n s false fun x s => x.endActivation s true

def execDiscard (n : Node) (s : State) : Host.Outcome State Fault Refusal := fire 0x0EB n s false fun x s => x.endActivation s false

/-! ### Activations (R195, R196) -/

/-- What an input queue gives an activation (R195): RATE tokens, or fewer that end in EOS; none where it does not allow one. -/
def takeFrom (rate : Nat) (q : List (Nat × Tok)) : Option (List (Nat × Tok)) :=
  if rate ≤ q.length then some (q.take rate)
  else match q.getLast? with
    | some e => if e.2.eos then some q else none
    | none => none

/-- The inputs an activation of an instance would take: its queues, none for a FIRE request or a kernel without inputs, nor while
a QGET of the instance, which asked before, waits at one of them (R303). -/
def Group.inputsFor (g : Group) (i : KInst) : Option (List (List (Nat × Tok))) :=
  match g.kernels[i.kernel]? with
  | none => none
  | some k =>
    if k.inputs.isEmpty then (if i.started || !i.fires.isEmpty then none else some [])
    else k.inputs.mapM fun p =>
      let asked := match g.pipes[p.pipe]? with | some x => x.takes.any (·.1 == i.replica) | none => false
      if asked then none else takeFrom p.rate (g.queue i p.pipe)

/-- An instance is ready (R195, R212, R215, R320). -/
def State.ready? (s : State) (g : Group) (i : KInst) : Bool :=
  match g.kernels[i.kernel]? with
  | none => false
  | some k =>
    let free := (s.freeFrames i.n).length
    let others := s.reserved i.n { serial := g.serial, kernel := i.kernel, replica := i.replica }
    (i.state == .resident || i.state == .parked || i.state == .firing || i.state == .draining) &&
    (s.ctx g.ctx).state == .running && (g.state == .running || g.state == .parked || g.state == .draining) &&
    k.enabled.contains i.replica && i.live.length < i.limit && 1 + k.callees ≤ free &&
    (if k.unchecked then others < free else 1 + k.callees + others ≤ free) &&
    ((g.inputsFor i).isSome || !i.fires.isEmpty)

/-- Send a token to a node of an instance: it travels the network (R196). -/
def State.deliver (s : State) (i : KInst) (node port : Nat) (t : Tok) : State :=
  match i.nodes.find? (·.1 == node) with
  | none => s
  | some (_, e, k) =>
    let (id, s) := s.newId
    let p : Packet := { id := id, tok := { t with port := BitVec.ofNat 2 port }, n := i.n, elem := e, slot := k, src := none,
                        since := s.cycle, router := i.n, lane := false, home := i.n, input := i.n }
    s.addPacket p

/-- Deliver entries through an input record: tags in the frame, iterations counting the elements of the record (R196). -/
def State.deliverInputs (s : State) (i : KInst) (tag : Tag) (cls : Nat) (rec : Nat) (p : PortRec) (ts : List Tok) : State :=
  ts.foldl (fun s t =>
    let k := match s.frame tag with | some f => Assoc.get 0 f.counts rec | none => 0
    let t := { t with tag := { tag with space := 0, iter := BitVec.ofNat 16 k }, cls := BitVec.ofNat 2 cls }
    (s.deliver i p.node p.port t).modFrame tag fun f => { f with counts := Assoc.set 0 f.counts rec (k + t.len) }) s

/-- Start an activation (R196): frame, header, consumed inputs or a FIRE request. -/
def State.activate (s : State) (g : Group) (k : Kernel) (i : KInst) : State :=
  match s.freeFrames i.n with
  | [] => s
  | f :: _ =>
    let id : InstId := { serial := g.serial, kernel := i.kernel, replica := i.replica }
    let tag := frameTag g.ctx i.n f
    let w := match k.spaces[0]? with | some x => 2 ^ x.wlog | none => 1
    let fr : Frame := { owner := id, kidx := i.kernel, size := k.framesz, jord := k.jord, actno := i.actno + 1, root := f,
                        insts := [{ num := 0, space := 0, parent := none, window := w }] }
    let s := s.modCore i.n fun c => { c with frames := Assoc.set none c.frames f (some fr) }
    let cls := s.effClass (some (g, k, i))
    let st := if i.state == .draining then KState.draining else .firing
    let s := s.modInst id fun j => { j with actno := i.actno + 1, live := j.live ++ [f], started := true, state := st }
    let s : State := match g.inputsFor i with
      | some qs =>
        (k.inputs.zip qs).zipIdx.foldl (fun (s : State) ((p, q), r) =>
          let s := q.foldl (fun s e => s.takeEntry g.serial i.kernel i.replica p.pipe e.1 (e.1 == 0)) s
          s.deliverInputs i tag cls r p (q.map fun e => { e.2 with eos := e.1 == 0 })) s
      | none => match i.fires with
        | [] => s
        | (node, port, t) :: rest =>
          let s := s.modInst id fun j => { j with fires := rest }
          s.deliver i node port { t with tag := tag, cls := BitVec.ofNat 2 cls }
    let last := match (s.group g.serial).bind fun h => h.insts.find? fun j => j.kernel == i.kernel && j.replica == i.replica with
      | some j => k.inputs.isEmpty || k.inputs.all fun p => j.gotEos.contains p.pipe
      | none => false
    let s := if last then s.modInst id fun j => { j with state := .draining } else s
    let s := s.modGroup g.serial fun h => if h.state == .parked then { h with state := .running } else h
    s.settleGroups

/-- ACTIVATION_START (R196). -/
def execActivationStart (inst : InstId) (s : State) : Host.Outcome State Fault Refusal :=
  .next (match s.group inst.serial with
    | none => s
    | some g => match g.insts.find? fun i => i.kernel == inst.kernel && i.replica == inst.replica with
      | none => s
      | some i => match g.kernels[i.kernel]? with
        | none => s
        | some k => if s.ready? g i then s.activate g k i else s)

/-! ### Tag-space instances (R204 to R206, R216, R219) -/

/-- The instance that a space index designates for a trigger tag (R206). -/
def Frame.designate (f : Frame) (q t space : Nat) : Option Inst :=
  match f.inst q with
  | some i => if i.space = space then some i else f.child q t (some space)
  | none => f.child q t (some space)

/-- The oldest live iteration b (R205). -/
def Inst.oldest (i : Inst) : BitVec 16 := (leastBy iterBefore i.live).getD i.next

/-- A grant of m iterations fits the window (R205). -/
def Inst.grants? (i : Inst) (m : Nat) : Bool := (i.next + BitVec.ofNat 16 m - i.oldest).toNat ≤ i.window

/-- Grant m iterations (R205); the grant count is of iterations, as in the window of four. -/
def Inst.grant (i : Inst) (m : Nat) : Inst :=
  { i with live := i.live ++ (List.range m).map (fun k => i.next + BitVec.ofNat 16 k), next := i.next + BitVec.ofNat 16 m,
           grants := i.grants + m }

/-- OPEN or FULL from the window and the waiting requests (R216). -/
def Inst.refresh (i : Inst) : Inst :=
  match i.state with
  | .open | .full => { i with state := if i.waits.isEmpty && i.grants? 1 then .open else .full }
  | _ => i

/-- The token of a grant (R219). -/
def Fire.grantTok (x : Fire) (inst : Nat) (from_ : BitVec 16) (m : Nat) : Tok :=
  { x.tok .I m 0 ((List.range m).flatMap fun k => leBytes 4 (from_ + BitVec.ofNat 16 k).toNat) with
    tag := { x.f.tag with space := BitVec.ofNat 8 inst, iter := from_ } }

/-- Elements whose predicate is true, as patterns (R163). -/
def Fire.selected (x : Fire) : List Nat :=
  ((List.range x.f.len).filter (x.pred 1)).map fun k => (x.port 0).elem (nodeSize x.n) 0 k

/-- What a firing emits once its iterations are granted: TALLOC the granted token, CMPR its data and the count (R163, R219). -/
def Fire.granted (x : Fire) (inst : Nat) (from_ : BitVec 16) (m : Nat) : List Out :=
  if x.opc = 0x1A0 then
    [{ out := 0, tok := { x.tok x.n.fmt m 0 (elems (nodeSize x.n) x.selected) with
        tag := { x.f.tag with space := BitVec.ofNat 8 inst, iter := from_ } } }, { out := 1, tok := x.one32 m }]
  else [{ out := 0, tok := x.grantTok inst from_ m, keepTag := true }]

/-- Serve the waiting requests of an instance first come, first served, while they fit (R205). -/
def State.serveGrants (s : State) (tag : Tag) (inst : Nat) : Nat → State
  | 0 => s
  | fuel + 1 =>
    if s.halted tag.ctx then s
    else match (s.frame tag).bind (·.inst inst) with
      | none => s
      | some i => match i.waits with
        | [] => s.modFrame tag fun f => f.modInst inst Inst.refresh
        | id :: rest => match s.findOp id with
          | none => (s.modFrame tag fun f => f.modInst inst fun j => { j with waits := rest }).serveGrants tag inst fuel
          | some o =>
            let m := o.nums.getD 0 1
            if i.grants? m then
              let s := s.modFrame tag fun f => f.modInst inst fun j => { (j.grant m) with waits := rest }
              let s := s.closeOp o 0 fun s => o.fire.emitAll s (o.fire.granted inst i.next m)
              s.serveGrants tag inst fuel
            else s.modFrame tag fun f => f.modInst inst Inst.refresh

/-- An instance closes (R216): done token of the TCLOSE that waits, waiting tokens retired (R112). -/
def State.closeInst (s : State) (tag : Tag) (inst : Nat) : State :=
  match (s.frame tag).bind (·.inst inst) with
  | none => s
  | some i =>
    let closer := i.closer.bind s.findOp
    let s := s.modFrame tag fun f => f.modInst inst fun j => { j with state := .closed, closer := none }
    let s := match closer with | some o => s.dropOp o.id | none => s
    let s := s.retireWhere tag.ctx fun t => t.sameFrame tag && t.space.toNat == inst
    match closer, i.parent with
    | some o, some (p, it) =>
      let t := { o.fire.one32 i.grants with tag := { o.fir.tag with space := BitVec.ofNat 8 p, iter := BitVec.ofNat 16 it } }
      o.fire.emitAll s [{ out := 0, tok := t, keepTag := true }]
    | _, _ => s

/-- Instance numbers that TSPACE may take: 1 to 255, in no record, or in a closed one that no token names (R199). -/
def State.freeInsts (s : State) (tag : Tag) (f : Frame) : List Nat :=
  (List.range 256).filter fun k => k != 0 && match f.inst k with
    | none => true
    | some i => i.state == .closed && !s.naming fun t => t.sameFrame tag && t.space.toNat == k

/-- TSPACE (R219): a new instance under the trigger's first iteration. -/
def execTspace (n : Node) (s : State) : Host.Outcome State Fault Refusal := fire 0x0E0 n s false fun x s =>
  let sp := field (im n) 7 0
  let out (s : State) : State := x.emitAll s [{ out := 0, tok := { x.port 0 with eos := x.eos, deps := x.deps, port := 0 } }]
  match x.frame? s with
  | none => out s
  | some f =>
    if f.ended then out s
    else match s.freeInsts x.f.tag f with
      | [] => s.requeue x.f
      | k :: _ =>
        let w := match (x.own s).bind fun o => o.2.1.spaces[sp]? with | some r => 2 ^ r.wlog | none => 1
        let (id, s) := s.newId
        let i : Inst := { num := k, space := sp, parent := some (x.f.tag.space.toNat, x.f.tag.iter.toNat), window := w, opened := id }
        out (s.modFrame x.f.tag fun f => { f with insts := f.insts.filter (·.num != k) ++ [i] })

/-- One request of a TALLOC (R219), and whether it faulted, which ends the firing. -/
def Fire.request (x : Fire) (s : State) (m : Nat) (e : Nat) (last : Bool) : State × Bool :=
  match x.frame? s with
  | none => (x.stranded s, true)
  | some f =>
    let it := x.f.tag.iter + BitVec.ofNat 16 e
    match f.designate x.f.tag.space.toNat it.toNat (field (im x.n) 7 0) with
    | none => (x.fault s 0x0006, true)
    | some i =>
      if i.window < m || i.state == .closing || i.state == .closed then (x.fault s 0x0006, true)
      else
        let y : Fire := { x with f := { x.f with inputs := x.f.inputs.map fun t => { t with eos := t.eos && last } } }
        if i.waits.isEmpty && i.grants? m && !s.halted x.f.tag.ctx then
          let s := s.modFrame x.f.tag fun f => f.modInst i.num fun j => (j.grant m).refresh
          (x.emitAll s (y.granted i.num i.next m), false)
        else
          let (id, s) := s.newId
          ((s.addOp { y.op s id .grant with nums := [m, i.num] }).modFrame x.f.tag fun f =>
            f.modInst i.num fun j => { j with waits := j.waits ++ [id] }.refresh, false)

/-- TALLOC (R219): each trigger of a run makes one request. -/
def execTalloc (n : Node) (s : State) : Host.Outcome State Fault Refusal := fire 0x0E1 n s false fun x s =>
  ((List.range x.f.len).foldl (fun (st : State × Bool) e =>
    if st.2 then st else x.request st.1 (field (md n) 4 0 + 1) e (e + 1 == x.f.len)) (s, false)).1

/-- TFREE (R219): the trigger's iterations of its own instance; a name that is not live faults. -/
def execTfree (n : Node) (s : State) : Host.Outcome State Fault Refusal := fire 0x0E2 n s false fun x s =>
  let inst := x.f.tag.space.toNat
  match (x.frame? s).bind (·.inst inst) with
  | none => x.stranded s
  | some i =>
    let its := (List.range x.f.len).map fun e => x.f.tag.iter + BitVec.ofNat 16 e
    if i.state == .closed || !its.all i.live.contains then x.fault s 0x0006
    else
      let s := s.modFrame x.f.tag fun f => f.modInst inst fun j => { j with live := j.live.filter fun t => !its.contains t }
      if i.state == .closing then
        if (i.live.filter fun t => !its.contains t).isEmpty then s.closeInst x.f.tag inst else s
      else s.serveGrants x.f.tag inst (i.waits.length + 1)

/-- TCLOSE (R216, R219): EXIT on the trigger's instance. -/
def execTclose (n : Node) (s : State) : Host.Outcome State Fault Refusal := fire 0x0E3 n s false fun x s =>
  let inst := x.f.tag.space.toNat
  match (x.frame? s).bind (·.inst inst) with
  | none => x.stranded s
  | some i =>
    if i.state == .closing || i.state == .closed || !i.waits.isEmpty then x.fault s 0x0006
    else
      let (id, s) := s.newId
      let s := s.addOp (x.op s id .close)
      let s := s.modFrame x.f.tag fun f => f.modInst inst fun j => { j with state := .closing, closer := some id }
      if i.live.isEmpty then s.closeInst x.f.tag inst else s

/-! ### Frame slots (R201 to R203, R220) -/

/-- The word that a slot takes for an element pattern (R201). -/
def slotWord (n : Node) (v : Nat) : Word :=
  if n.fmt = .I then BitVec.ofNat 64 (ofInt 64 (readInt (intWidth n) (isUns n) v)) else BitVec.ofNat 64 (v % 2 ^ (8 * n.fmt.size))

/-- Bytes of an element that LDSLOT reads. -/
def slotSize (n : Node) : Nat := if n.fmt = .I then 8 else n.fmt.size

/-- The slots that LDSLOT reads, plane by plane (R172, R201). -/
def slotReads (n : Node) : List Nat :=
  if n.lane = .jet then
    (List.range (field (md n) 5 3 + 1)).flatMap fun j => (List.range (field (md n) 2 0 + 1)).map fun e => im n + 8 * e + j
  else (List.range (field (md n) 4 0 + 1)).map fun e => im n + e

/-- The values of slots, none while one of them is absent. -/
def Frame.readSlots (f : Frame) (ks : List Nat) : Option (List Nat) :=
  ks.mapM fun k => (Assoc.get none f.slots k).map BitVec.toNat

/-- The token of an LDSLOT. -/
def Fire.slotTok (x : Fire) (vs : List Nat) : Tok :=
  let k := if x.n.lane = .jet then field (md x.n) 5 3 else 0
  x.tok x.n.fmt (vs.length / (k + 1)) k (elems (slotSize x.n) vs)

/-- LDSLOT (R202, R220): defers while a slot is absent; its trigger waits then, and is stranded where its tokens have retired. -/
def execLdslot (n : Node) (s : State) : Host.Outcome State Fault Refusal := fire 0x0E4 n s false fun x s =>
  match x.frame? s with
  | none => x.stranded s
  | some f =>
    let ks := slotReads n
    if ks.any (f.size ≤ ·) then x.fault s 0x0006
    else match f.readSlots ks with
      | some vs => x.emitAll s [{ out := 0, tok := x.slotTok vs }]
      | none =>
        if s.retired x.f.tag then x.stranded s
        else
          let (id, s) := s.newId
          (s.addOp (x.op s id .slotRead)).settleAll x.f.n x.f.elem false

/-- DEFERRED_READ (R202). -/
def execDeferredRead (op : Nat) (s : State) : Host.Outcome State Fault Refusal :=
  .next (match s.findOp op with
    | none => s
    | some o =>
      if o.kind != .slotRead || s.halted o.fir.tag.ctx then s
      else match (s.frame o.fir.tag).bind fun f => f.readSlots (slotReads o.instr) with
        | some vs => s.closeOp o 0 fun s => o.fire.emitAll s (out0 (o.fire.slotTok vs))
        | none => s)

/-- The slots and patterns that STSLOT writes, in ascending element order. -/
def Fire.slotWrites (x : Fire) : List (Nat × Nat) :=
  let t := x.port 0
  let w := nodeSize x.n
  (List.range x.f.len).flatMap fun e =>
    if x.n.lane = .jet then (List.range t.planes).map fun j => (im x.n + 8 * e + j, t.elem w j e)
    else [(im x.n + e, t.elem w 0 e)]

/-- Write slots of a frame and set presence; none where one is present or beyond the frame (R202). -/
def Frame.writeSlots (f : Frame) (ws : List (Nat × Word)) : Option Frame :=
  ws.foldlM (fun f (k, v) =>
    if f.size ≤ k || (Assoc.get none f.slots k).isSome then none
    else some { f with slots := Assoc.set none f.slots k (some v) }) f

/-- STSLOT (R202, R220). -/
def execStslot (n : Node) (s : State) : Host.Outcome State Fault Refusal := fireMove 0x0E5 n s false fun x s =>
  match x.frame? s with
  | none => x.stranded s
  | some f =>
    let ws := x.slotWrites
    match f.writeSlots (ws.map fun w => (w.1, slotWord n w.2)) with
    | none => x.fault s 0x0006
    | some f' => x.emitAll (s.modFrame x.f.tag fun _ => f') [{ out := 0, tok := x.one32 ws.length }]

/-- CLRSLOT (R220). R202 names writes and reads of a slot at or beyond FRAMESZ; a clear of one does nothing and does not fault
(DESIGN CHOICE, log 53). -/
def execClrslot (n : Node) (s : State) : Host.Outcome State Fault Refusal := fire 0x0E6 n s false fun x s =>
  let ks := (List.range (field (md n) 4 0 + 1)).map fun e => im n + e
  let s := s.modFrame x.f.tag fun f => { f with slots := ks.foldl (fun m k => Assoc.set none m k none) f.slots }
  x.emitAll s [{ out := 0, tok := x.one32 ks.length }]

/-! ### CALL, ARG, RET, FRMID, FIRE (R221, R222) -/

/-- CALL: a callee frame from the reserve (R208); should it find none that it may take, it waits for one. -/
def execCall (n : Node) (s : State) : Host.Outcome State Fault Refusal := fire 0x0E7 n s false fun x s =>
  match x.frame? s, s.freeFrames x.f.n with
  | some fr, [] => if fr.ended then x.stranded s else s.requeue x.f
  | some fr, f :: _ =>
    if fr.ended then x.stranded s
    else if !s.mayCall x.f.n fr then s.requeue x.f
    else
      let sp := field (im n) 7 0
      let w := match (x.own s).bind fun o => o.2.1.spaces[sp]? with | some r => 2 ^ r.wlog | none => 1
      let tag := frameTag x.f.tag.ctx x.f.n f
      let root : Inst := { num := 0, space := sp, parent := none, window := w }
      let callee : Frame := { owner := fr.owner, kidx := fr.kidx, size := fr.size, jord := fr.jord, actno := fr.actno,
                              root := fr.root, insts := [root],
                              ret := some (x.f.tag.frame.toNat, x.f.tag.space.toNat, x.f.tag.iter.toNat) }
      let s := s.modCore x.f.n fun c => { c with frames := Assoc.set none c.frames f (some callee) }
      x.emitAll s [{ out := 0, tok := x.one64 (tag.bits * 65536), keepTag := true },
                   { out := 1, tok := { x.one32 0 with tag := tag }, keepTag := true }]
  | _, _ => x.stranded s

/-- ARG: each element into the callee frame that port 1 names. -/
def execArg (n : Node) (s : State) : Host.Outcome State Fault Refusal := fireMove 0x0E8 n s false fun x s =>
  let dests := (List.range x.f.len).map fun e => Tag.ofBits (x.i64 1 e >>> 16)
  let ok (t : Tag) : Bool := t.ctx == x.f.tag.ctx && t.core == x.f.tag.core && match s.frame t with
    | some f => !f.ended && (match f.ret with | some r => r.1 == x.f.tag.frame.toNat | none => false)
    | none => false
  if !dests.all ok then x.fault s 0x0006
  else x.emitAll s (dests.mapIdx fun e t =>
    let p := ({ x.port 0 with eos := x.eos }).slice e 1
    let tag := { x.f.tag with frame := t.frame, space := t.space, iter := 0 }
    { out := 0, keepTag := true, tok := { p with port := 0, deps := x.deps, tag := tag } })

/-- RET: values to the return tag, then the callee frame is retired. -/
def execRet (n : Node) (s : State) : Host.Outcome State Fault Refusal := fireMove 0x0E9 n s false fun x s =>
  match x.frame? s with
  | none => x.stranded s
  | some fr =>
    if fr.ended then x.stranded s
    else match fr.ret with
      | none => x.fault s 0x0006
      | some (frame, space, iter) =>
        let tag := { x.f.tag with frame := BitVec.ofNat 14 frame, space := BitVec.ofNat 8 space, iter := BitVec.ofNat 16 iter }
        let s := x.emitAll s ((List.range n.arity.toNat).map fun j =>
          { out := j, keepTag := true, tok := { x.port j with tag := tag, eos := x.eos, deps := x.deps, port := 0 } })
        (s.modFrame x.f.tag Frame.finish).retireFrames x.f.tag.ctx fun t => t.sameFrame x.f.tag

/-- FRMID. -/
def execFrmid (n : Node) (s : State) : Host.Outcome State Fault Refusal := fire 0x0EC n s false fun x s =>
  match x.frame? s with
  | none => x.stranded s
  | some f =>
    let frame := coreIn x.f.tag.core * 512 + f.root
    x.emitAll s [{ out := 0, tok := x.one64 (f.actno.toNat * 2 ^ 32 + f.kidx * 2 ^ 18 + x.f.tag.die.toNat * 2 ^ 14 + frame) }]

/-- FIRE (R222): a request that carries the input token, error tokens included. -/
def execFire (n : Node) (s : State) : Host.Outcome State Fault Refusal := fireMove 0x0ED n s true fun x s =>
  match x.own s with
  | none => x.stranded s
  | some (g, _, i) =>
    if 16 ≤ i.fires.length then x.fault s 0x0007
    else s.modInst { serial := g.serial, kernel := i.kernel, replica := i.replica } fun i =>
      { i with fires := i.fires ++ [(field (im n) 17 0, field (im n) 19 18, { x.port 0 with eos := x.eos, deps := x.deps })] }

end Sys2Proof.Machine
end

