-- ==== Sys2Proof/Machine/Queue.lean ====
section
/-! DEFINITION. The queue instructions (R313), the publication of commits (R302), end marks (R304), stealing (R319), the
evaluation of replicas (R320), and queue objects: notification appends (R309, R310) and device records (R316, R349). -/

namespace Sys2Proof.Machine

/-! ### QPUT, QGET, QEOS, QSTAT -/

/-- The pipe an instruction names. -/
def Fire.pipe? (x : Fire) (s : State) : Option (Group × Kernel × KInst × Pipe) :=
  (x.own s).bind fun (g, k, i) => (g.pipes[field (im x.n) 11 0]?).map fun p => (g, k, i, p)

/-- Number of the frame of the activation that a firing belongs to. -/
def Fire.root (x : Fire) (s : State) : Nat := match x.frame? s with | some f => f.root | none => x.f.tag.fnum

/-- Places of a pipe that an activation holds. -/
def Pipe.heldBy (p : Pipe) (i : KInst) (root : Nat) : Nat :=
  (p.staged.filter fun y => y.kernel == i.kernel && y.replica == i.replica && y.frame == root).length

/-- A firing that need not wait any longer leaves the line at its pipe. -/
def Fire.unwait (x : Fire) (s : State) : State :=
  match x.pipe? s with
  | some (g, _, _, p) => if p.waits.contains x.f.id || p.takes.any (·.2 == x.f.id)
      then s.setPipe g.serial (field (im x.n) 11 0) fun p => p.unwait x.f.id else s
  | none => s

/-- A firing takes its place in line at its pipe, once, and waits in its slot (R303, R306). -/
def Fire.await (x : Fire) (s : State) (g : Group) (f : Pipe → Pipe) : State :=
  (s.setPipe g.serial (field (im x.n) 11 0) f).requeue x.f

/-- QPUT: a place reserved and the input staged, error tokens included; it waits while the pipe is FULL, and behind those that
wait already. -/
def execQput (n : Node) (s : State) : Host.Outcome State Fault Refusal := fire 0x160 n s true fun x0 s => x0.moved s fun x s =>
  match x.frame? s, x.pipe? s with
  | some fr, some (g, _, i, p) =>
    let root := x.root s
    if !s.alive x.f.tag fr then x.stranded (x.unwait s)
    else if p.state == .unbound then x.emitAll s [{ out := 0, tok := x.one32 1 }]
    else if p.state == .eosSeen || p.state == .closed then x.fault (x.unwait s) 0x0006
    else if p.cap ≤ p.heldBy i root then x.fault (x.unwait s) 0x0007
    else if p.putWaits i root x.f.id then
      x0.await s g fun p => if p.waits.contains x.f.id then p else { p with waits := p.waits ++ [x.f.id] }
    else
      let s := x.unwait s
      let (id, s) := s.newId
      let y : Staged := { kernel := i.kernel, replica := i.replica, frame := root, seq := id,
                          tok := { x.port 0 with eos := false, port := 0, deps := x.deps } }
      let s := (s.setPipe g.serial (field (im n) 11 0) fun p => { p with staged := p.staged ++ [y] }).refreshPipe
        g.serial (field (im n) 11 0) false
      x.emitAll s [{ out := 0, tok := x.one32 1 }]
  | _, _ => x.stranded s

/-- QGET: a further entry of the activation; it waits while there is none for it, behind those that wait already, and a CLOSED
pipe gives the bare EOS. -/
def execQget (n : Node) (s : State) : Host.Outcome State Fault Refusal := fire 0x161 n s false fun x s =>
  match x.frame? s, x.pipe? s with
  | some fr, some (g, k, i, p) =>
    let pn := field (im n) 11 0
    if !s.alive x.f.tag fr then x.stranded (x.unwait s)
    else if g.getWaits i pn p x.f.id then
      x.await s g fun p => if p.takes.any (·.2 == x.f.id) then p else { p with takes := p.takes ++ [(i.replica, x.f.id)] }
    else
      let s := x.unwait s
      let entry : Option (Nat × Tok) := match g.queue i pn with
        | e :: _ => some e
        | [] => if p.ended then some (0, { bareEos with deps := p.deps }) else none
      match entry with
      | none => s
      | some (seq, t) =>
        let rec_ := (k.inputs.findIdx? fun r => r.pipe == pn).getD 0
        let root := { x.f.tag with frame := BitVec.ofNat 14 (coreIn x.f.n * 512 + fr.root) }
        let at_ := match s.frame root with | some f => Assoc.get 0 f.counts rec_ | none => 0
        let s := if seq = 0 ∧ i.gotEos.contains pn then s else s.takeEntry g.serial i.kernel i.replica pn seq (seq == 0)
        let s := s.modFrame root fun f => { f with counts := Assoc.set 0 f.counts rec_ (at_ + t.len) }
        x.emitAll s [{ out := 0, tok := { t with tag := x.f.tag.atIter (BitVec.ofNat 16 at_), port := 0, eos := seq == 0,
                                                 deps := joinDeps t.deps x.deps } }]
  | _, _ => x.stranded s

/-- QEOS: the end mark staged with the activation; the trigger goes on. -/
def execQeos (n : Node) (s : State) : Host.Outcome State Fault Refusal := fire 0x162 n s false fun x s =>
  match x.frame? s with
  | none => x.stranded s
  | some fr =>
    let root := { x.f.tag with frame := BitVec.ofNat 14 (coreIn x.f.n * 512 + fr.root) }
    let s := s.modFrame root fun f => { f with ends := insertNat (field (im n) 11 0) f.ends }
    x.emitAll s [{ out := 0, tok := { x.port 0 with eos := x.eos, deps := x.deps, port := 0 } }]

/-- State codes of QSTAT. -/
def PState.code : PState → Nat
  | .unbound => 0 | .open => 1 | .full => 2 | .empty => 3 | .eosSeen => 4 | .closed => 5

/-- QSTAT: a snapshot. -/
def execQstat (n : Node) (s : State) : Host.Outcome State Fault Refusal := fire 0x163 n s false fun x s =>
  match x.pipe? s with
  | none => x.emitAll s [{ out := 0, tok := x.one64 0 }]
  | some (g, _, _, p) =>
    x.emitAll s [{ out := 0, tok := x.one64 (p.state.code * 2 ^ 56 + min p.prod 255 * 2 ^ 48 + p.cap * 2 ^ 32 +
      p.entries.length * 2 ^ 16 + s.rsv g (field (im n) 11 0)) }]

/-! ### Publication and scheduling events -/

/-- PUBLISH (R302): the staged tokens of a commit become entries, in the order of their reservations; then its end marks go, and the
fault of an armed frame is raised (R371). -/
def execPublish (commit : Nat) (s : State) : Host.Outcome State Fault Refusal :=
  .next (match s.commits.find? (·.id == commit) with
    | none => s
    | some c =>
      match s.group c.serial with
      | none => { s with commits := s.commits.filter (·.id != commit) }
      | some g =>
        if s.halted g.ctx then s
        else
          let s := { s with commits := s.commits.filter (·.id != commit) }
          let s := c.items.foldl (fun s (p, y) => s.publishOne c.serial p { y.tok with deps := joinDeps y.tok.deps c.deps }) s
          let s := (List.range g.pipes.length).foldl (fun s p => s.refreshPipe c.serial p false) s
          let s := (c.ends.foldl (fun s (k, r, p) => s.sendMark { serial := c.serial, kernel := k, replica := r } p c.deps) s).settleGroups
          match c.armed with
          | some (r, o) => s.raise g.ctx 0 { r with cycle := BitVec.ofNat 64 s.cycle } (some o)
          | none => s)

/-- A mark waits while a commit that its group sent before is on its way to the same pipe: it does not overtake it (R302). -/
def State.markWaits (s : State) (m : Mark) : Bool :=
  s.commits.any fun c => c.serial == m.serial && c.id < m.id && c.items.any (·.1 == m.pipe)

/-- END_MARK (R304). -/
def execEndMark (mark : Nat) (s : State) : Host.Outcome State Fault Refusal :=
  .next (match s.marks.find? (·.id == mark) with
    | none => s
    | some m => if s.markWaits m then s else ((({ s with marks := s.marks.filter (·.id != mark) }).markPipe m.serial m.pipe m.deps)).settleGroups)

/-- The stealing age of a group (R314). -/
def Group.age (g : Group) : Nat :=
  let a := field (g.words.getD 0 0).toNat 15 0
  if a = 0 then 2048 else a

/-- A replica may steal (R319): enabled, nothing in its lists, no live activation. -/
def Group.thief (g : Group) (k : Kernel) (i : KInst) : Bool :=
  k.enabled.contains i.replica && i.live.isEmpty &&
  k.inputs.all fun p => match g.pipes[p.pipe]? with | some x => x.waitingFor i.replica == 0 | none => true

/-- Put an entry into a list ordered by the time its list has held it, then by replica index (R319). -/
def insertAged (e : PEntry) : List PEntry → List PEntry
  | [] => [e]
  | y :: r => if e.since < y.since || (e.since == y.since && e.replica < y.replica) then e :: y :: r else y :: insertAged e r

/-- STEAL (R319): an idle replica takes the oldest entries that have stood AGE cycles in lists of its die, up to its RATE, of the
lower replica index first among equals. -/
def execSteal (inst : InstId) (s : State) : Host.Outcome State Fault Refusal :=
  .next (match s.group inst.serial with
    | none => s
    | some g => match g.insts.find? (fun i => i.kernel == inst.kernel && i.replica == inst.replica), g.kernels[inst.kernel]? with
      | some i, some k =>
        let first := g.insts.all fun j => j.kernel != i.kernel || dieOf j.n != dieOf i.n || !g.thief k j || i.replica ≤ j.replica
        if !g.thief k i || !first || s.halted g.ctx then s
        else k.inputs.foldl (fun s p => s.setPipe g.serial p.pipe fun x =>
          let aged := x.entries.filter fun e => e.replica != i.replica && dieOf (g.coreOf i.kernel e.replica) == dieOf i.n &&
            g.age ≤ s.cycle - e.since
          let old := (aged.foldl (fun l e => insertAged e l) []).take p.rate
          { x with entries := x.entries.map fun e =>
              if old.contains e then { e with replica := i.replica, since := s.cycle } else e }) s
      | _, _ => s)

/-- Reassign the entries of a disabled replica, in list order (R320). What comes into another list begins to age there (R319). -/
def Group.reassign (g : Group) (kernel replica now : Nat) (x : Pipe) : Pipe :=
  (x.entries.filter (·.replica == replica)).foldl (fun x e =>
    let rest : Pipe := { x with entries := x.entries.map fun y => if y.seq == e.seq then { y with replica := 1000 } else y }
    let r := g.route kernel rest e.tok
    { x with entries := x.entries.map fun y => if y.seq == e.seq then { y with replica := r, since := if r = replica then y.since else now } else y }) x

/-- REPLICA_EVALUATION (R320): at most once in 256 cycles for a kernel, after OCC of its first input pipe has changed. -/
def execReplicaEvaluation (serial kernel : Nat) (s : State) : Host.Outcome State Fault Refusal :=
  .next (match s.group serial with
    | none => s
    | some g => match g.kernels[kernel]? with
      | none => s
      | some k => match k.inputs with
        | [] => s
        | p :: _ =>
          let due := match k.evalAt with | some t => 256 ≤ s.cycle - t | none => true
          if k.hiwat = 0 || !k.dirty || !due || !(g.state == .running || g.state == .parked || g.state == .draining) then s
          else
            let occ := match g.pipes[p.pipe]? with | some x => x.entries.length | none => 0
            let full := k.outputs.any fun o => match g.pipes[o.pipe]? with | some x => x.state == .full | none => false
            let off := (List.range k.repl).filter fun r => !k.enabled.contains r
            let set (f : Kernel → Kernel) (s : State) : State := s.modGroup serial fun g =>
              { g with kernels := match g.kernels[kernel]? with | some k => setAt g.kernels kernel (f k) | none => g.kernels }
            let s := set (fun k => { k with dirty := false, evalAt := some s.cycle }) s
            if k.hiwat ≤ occ ∧ !full ∧ !off.isEmpty then set (fun k => { k with enabled := insertNat (off.headD 0) k.enabled }) s
            else if occ ≤ k.lowat ∧ 1 < k.enabled.length then
              let last := k.enabled.getLastD 0
              let s := set (fun k => { k with enabled := k.enabled.filter (· != last) }) s
              match s.group serial with
              | none => s
              | some g => k.inputs.foldl (fun s q => s.setPipe serial q.pipe fun x => g.reassign kernel last s.cycle x) s
            else s)

/-! ### Queue objects (R307 to R311) -/

/-- Words of a context's space, read by the device on P0 for an operation, which waits for the marks it leaves in the leaves (R460);
a failure of R259 with its cause and address. -/
def State.readWords (s : State) (c : BitVec 6) (n own va : Nat) : Nat → List Nat → Except (Nat × Nat) (List Nat) × State
  | 0, acc => (.ok acc, s)
  | k + 1, acc =>
    let (m, _, s) := s.access { ctx := c, n := n, iss := .core n, path := 0, va := va, size := 8, kind := .read, own := own, count := false } ([], [])
    match m with
    | .ok b => s.readWords c n own (va + 8) k (acc ++ [leNat b])
    | .fail cause _ => (.error (cause, va), s)
    | .stall => (.error (6, va), s)

/-- A notification queue object is well formed (R310). -/
def nqOk (w : List Nat) : Bool :=
  let g := fun i => w.getD i 0
  let logn := field (g 1) 12 8
  field (g 0) 63 60 == 2 && field (g 0) 59 56 == 0 && field (g 0) 5 0 == 0 && 1 ≤ logn && logn ≤ 20 && field (g 1) 7 0 == 1 &&
  field (g 1) 63 13 == 0 && field (g 2) 63 32 == 0 && field (g 3) 63 32 == 0 && field (g 4) 31 3 == 0 && g 5 == 0 && g 6 == 0 &&
  g 7 == 0 && (g 3 + 2 ^ 32 - g 2) % 2 ^ 32 ≤ 2 ^ logn

/-- Entries that a queue holds. -/
def nqCount (w : List Nat) : Nat := (w.getD 3 0 + 2 ^ 32 - w.getD 2 0) % 2 ^ 32

/-- Address of an entry of a ring. -/
def nqEntry (w : List Nat) (k : Nat) : Nat := field (w.getD 0 0) 55 0 + k % 2 ^ field (w.getD 1 0) 12 8 * 64

/-- An RMW of the device on a word of an object (R309, R310); whether it stalls. -/
def State.rmwWord (s : State) (c : BitVec 6) (n own va : Nat) (f : Nat → Nat) : Bool × State :=
  let (m, s) := s.walk c n va own
  match m with
  | .leaf e =>
    let p := e.pte.toNat
    if !bitOf p 61 || bitOf p 52 || bitOf p 57 then (false, s)
    else if bitOf p 59 then (true, s)
    else if (bitOf p 60 && !s.tether) || s.poisoned (e.key va) 8 then (false, s)
    else
      let (_, s) := s.touchLeaf c n own va e true false
      (false, (s.rmw own (.core n) 0 (e.key va) 8 fun b => some (leBytes 8 (f (leNat b) % 2 ^ 64))).2)
  | _ => (false, s)

/-- W4 after a lost entry: bits set, LOST incremented (R309, R310). -/
def lostWord (bits w : Nat) : Nat := (w ||| bits) % 2 ^ 32 + min (w / 2 ^ 32 + 1) (2 ^ 32 - 1) * 2 ^ 32

/-- Write consecutive 8-byte words of a context's space by the device. -/
def State.writeWords (s : State) (c : BitVec 6) (n own va : Nat) : List Nat → MemRes × State
  | [] => (.ok [], s)
  | w :: r =>
    let (m, _, s) := s.access { ctx := c, n := n, iss := .core n, path := 0, va := va, size := 8, kind := .write,
                                data := leBytes 8 w, own := own, count := false } ([], [])
    match m with
    | .ok _ => s.writeWords c n own (va + 8) r
    | x => (x, s)

/-- One step of a notification append (R309, R310): the object is checked and the entry written; once it is visible, TAIL
advances; once that is visible, the append ends. Appends of one context go one after another. -/
def State.notifyStep (s : State) (o : Op) : State :=
  let c := o.fir.tag.ctx
  let n := o.fir.n
  let own := o.nums.getD 2 o.id
  let base := (s.ctx c).csrs.nqbase.toNat
  let first := match s.ops.find? fun q => q.kind == .notify && q.fir.tag.ctx == c with | some q => q.id == o.id | none => false
  if !first then s
  else if base = 0 then s.dropOp o.id
  else if o.book = 0 then
    match s.readWords c n own base 8 [] with
    | (.error _, s) => s.dropOp o.id
    | (.ok w, s) =>
      let lose (s : State) (bits : Nat) : State :=
        let (stall, s) := s.rmwWord c n own (base + 32) (lostWord bits)
        if stall then s else s.dropOp o.id
      if !nqOk w then lose s 5
      else if bitOf (w.getD 4 0) 2 then lose s 0
      else if nqCount w = 2 ^ field (w.getD 1 0) 12 8 then lose s 2
      else
        let tail := w.getD 3 0
        let head := o.nums.getD 0 0 + c.toNat * 2 ^ 16 + tail * 2 ^ 32
        let words := [head, o.nums.getD 1 0, s.cycle] ++ (chunksOf 8 8 o.desc).map leNat
        match s.writeWords c n own (nqEntry w tail) words with
        | (.ok _, s) => s.putOp { o with book := 1 }
        | (.stall, s) => s
        | (.fail _ _, s) => lose s 5
  else
    let host := s.pend.any fun w => w.of own && 2 ^ 63 ≤ w.addr
    if !s.reached own 127 127 (if host then 5 else 3) then s
    else if o.book = 1 then
      let (stall, s) := s.rmwWord c n own (base + 24) fun w => (w + 1) % 2 ^ 32
      if stall then s else s.putOp { o with book := 2 }
    else s.dropOp o.id

/-- One step of a device record (R316, R349, R455): what follows word 0, or byte 64 on of a report, then word 0 once that is visible at
SYS. A record that cannot be written is dropped. W2 of a completion record is CYCLE as it is written. -/
def State.recordStep (s : State) (o : Op) : State :=
  let addr := o.nums.getD 0 0
  let from_ := max 8 (o.nums.getD 3 0)
  let put (s : State) (off : Nat) (d : List Byte) : MemRes × State :=
    if d.isEmpty then (.ok [], s) else
    if o.nums.getD 1 0 = 1 then s.writeWords o.fir.tag.ctx o.fir.n o.id (addr + off) ((chunksOf 8 8 d).map leNat)
    else match s.devWrite o.id o.fir.n (addr + off) d with
      | some s => (.ok [], s)
      | none => (.fail 7 false, s)
  if o.book = 0 then
    let body := if o.nums.getD 2 0 = 1 then (o.desc.drop 8).take 8 ++ leBytes 8 s.cycle ++ o.desc.drop 24 else o.desc.drop from_
    match put s from_ body with
    | (.ok _, s) => s.putOp { o with book := 1 }
    | (.stall, s) => s
    | (.fail _ _, s) => s.dropOp o.id
  else if !s.reached o.id 127 127 5 then s
  else match put s 0 (o.desc.take 8) with
    | (.stall, s) => s
    | (_, s) => s.dropOp o.id

/-! ### NQGET -/

/-- NQGET (R313): ErrTok(0x07) without a queue, else a claim that may wait. -/
def execNqget (n : Node) (s : State) : Host.Outcome State Fault Refusal := fire 0x164 n s false fun x s =>
  if (s.ctx x.f.tag.ctx).csrs.nqbase = 0 then x.fail s clsPROT
  else
    let (id, s) := s.newId
    s.addOp (x.op s id .nqget)

/-- One attempt of an NQGET: TAIL and the entry are read, HEAD is claimed by CAS (R313). -/
def State.nqgetStep (s : State) (o : Op) : State :=
  let x := o.fire
  let c := o.fir.tag.ctx
  let base := (s.ctx c).csrs.nqbase.toNat
  let failed (s : State) (e : Nat × Nat) : State :=
    if e.1 = 0 then s.stopOp o 2 e.2
    else
      let s := if e.1 = 7 then s.violate c false e.2 else s
      s.failOp (o.failing 0 e.1 (errAddr false e.2))
  let out (s : State) (ws : List Nat) : State :=
    s.complete o [{ out := 0, tok := x.tok .I 8 0 (Machine.elems 8 ws), paths := 1, scope := 3 }]
  match s.readWords c o.fir.n o.id base 8 [] with
  | (.error e, s) => failed s e
  | (.ok w, s) =>
    if !nqOk w then s.failClose o clsFMT
    else if nqCount w = 0 then (if bitOf (md o.instr) 0 then s.putOp { o with mask := [1] } else out s (List.replicate 8 0))
    else
      let head := w.getD 2 0
      match s.readWords c o.fir.n o.id (nqEntry w head) 8 [] with
      | (.error e, s) => failed s e
      | (.ok entry, s) =>
        let r : Req := { ctx := c, n := o.fir.n, iss := .core o.fir.n, path := 0, va := base + 16, size := 8, kind := .rmw 9,
                         data := leBytes 8 ((head + 1) % 2 ^ 32), cmp := leBytes 8 head, own := o.id, count := false }
        match s.access r ([], []) with
        | (.ok old, _, s) => if leNat old = head then out s entry else s
        | (.stall, _, s) => s
        | (.fail cause _, _, s) => failed s (cause, base + 16)

end Sys2Proof.Machine
end

