-- ==== Sys2Proof/Machine/Copy.lean ====
section
/-! DEFINITION. Transfers in units (R265 to R267): CPY and CPYW (R275), GATH and SCAT (R277), REORD (R279), the die copy
queues (R280, R281) and MCST (R282), with remote sides (R264). -/

namespace Sys2Proof.Machine

/-! ### Elements of a unit -/

/-- One side of an element: its space and address. -/
structure Side where
  spm    : Bool := false
  remote : Bool := false
  va     : Nat
  deriving DecidableEq, Repr

/-- One single-copy-atomic element of a unit: where it is read (or its bytes), where it goes (nowhere where clipped), and
the format of an atomic add. -/
structure Piece where
  src  : Option Side
  lit  : List Byte
  dst  : Option Side
  size : Nat
  add  : Option Fmt := none
  deriving DecidableEq, Repr

/-- What became of an element: its read is performed and its write is still to come, or it is over. -/
inductive PieceRes where
  | got (b : List Byte) | done | stalled | failed (cause addr : Nat)
  deriving DecidableEq, Repr

/-- A remote access as this package sees it (R259, R264, R411): the far package performs it, refuses it, finds no translation,
meets poison, or holds a write back at a page whose WB bit is set; a read returns bytes that this package cannot know. -/
def State.farAccess (s : State) (size : Nat) (write : Bool) : MemRes × State :=
  if !(List.range 16).any fun p => (s.link (32 + p)).state.works then (.fail 0x0C false, s)
  else
    let (k, s) := s.choice 5
    match k with
    | 1 => (.fail 0x0C false, s)
    | 2 => (.fail 7 false, s)
    | 3 => (.fail 6 false, s)
    | 4 => if write then (.stall, s) else (.fail 6 false, s)
    | _ => (.ok (freeBytes s.fresh size), { s with fresh := s.fresh + size })

/-- The request of a side's access on this package. -/
def Op.sideReq (o : Op) (path : Nat) (d : Side) (size : Nat) (kind : AccKind) (fmt : Fmt) (data : List Byte) (whole : Bool) : Req :=
  { ctx := o.fir.tag.ctx, n := o.fir.n, iss := .core o.fir.n, path := path, spm := d.spm, va := d.va,
    size := size, kind := kind, fmt := fmt, data := data, whole := whole }

/-- One side's access. A remote one is checked here for its alignment and its high bits (R254, R259). -/
def Op.side (o : Op) (s : State) (path : Nat) (d : Side) (size : Nat) (kind : AccKind) (fmt : Fmt) (data : List Byte)
    (whole : Bool) : MemRes × Op × State :=
  if d.remote then
    if d.va % (if size = 0 then 1 else size) != 0 then (.fail 8 false, o, s)
    else if 2 ^ 56 ≤ d.va then (.fail 7 true, o, s.violate o.fir.tag.ctx false d.va)
    else
      let (m, s) := s.farAccess size (kind != .read)
      (m, o, s)
  else o.access s (o.sideReq path d size kind fmt data whole)

/-- Translate a side's access ahead of its performance (R294). -/
def Op.sideAhead (o : Op) (s : State) (path : Nat) (d : Side) (size : Nat) (kind : AccKind) : Op × State :=
  if d.remote then (o, s)
  else
    let (_, o, s) := o.pin s (o.sideReq path d size kind .I [] false)
    (o, s)

/-- The read of an element. -/
def Op.pieceRead (o : Op) (s : State) (path : Nat) (p : Piece) (d : Side) : PieceRes × Op × State :=
  let (m, o, s) := o.side s path d p.size .read .I [] false
  match m with
  | .ok b => (if p.dst.isSome then .got b else .done, o, s)
  | .stall => (.stalled, o, s)
  | .fail c _ => (.failed c (errAddr d.spm d.va), o, s)

/-- The write of an element. -/
def Op.pieceWrite (o : Op) (s : State) (path : Nat) (p : Piece) (whole : Bool) (b : List Byte) : PieceRes × Op × State :=
  match p.dst with
  | none => (.done, o, s)
  | some d =>
    let (m, o, s) := o.side s path d p.size (if p.add.isSome then .rmw 0 else .write) (p.add.getD .I) b whole
    match m with
    | .ok _ => (.done, o, s)
    | .stall => (.stalled, o, s)
    | .fail c _ => (.failed c (errAddr d.spm d.va), o, s)

/-- The next access of an element (R265): its read, then its write; `got` is what was read. -/
def Op.piece (o : Op) (s : State) (path : Nat) (p : Piece) (whole : Bool) (got : Option (List Byte)) : PieceRes × Op × State :=
  match got, p.src with
  | some b, _ => o.pieceWrite s path p whole b
  | none, none => o.pieceWrite s path p whole p.lit
  | none, some d => o.pieceRead s path p d

/-- Every byte of the line of an address is stored by the unit (R384). -/
def wholeLine (ps : List Piece) (d : Side) : Bool :=
  let base := d.va - d.va % 64
  (List.range 64).all fun i => ps.any fun p => p.add.isNone && match p.dst with
    | some e => e.spm == d.spm && !e.remote && e.va ≤ base + i && base + i < e.va + p.size
    | none => false

/-- What an element of the unit in progress has read, its write still to come. -/
def Op.got (o : Op) (i : Nat) : Option (List Byte) := (o.accs.find? (·.e == i)).map (·.res)

/-- Make the next access of element `i` of a unit, alone or (`whole`) with those that fill its line, and note what became of it:
read, performed, failed, stalled, or a missing translation, which stops the transfer (R260). -/
def Op.onePiece (o : Op) (s : State) (path : Nat) (p : Piece) (i : Nat) (whole : Bool) : Op × State :=
  let (r, o, s) := o.piece s path p whole (o.got i)
  match r with
  | .got b => ({ o with accs := o.accs ++ [{ e := i, j := 0, spm := false, va := 0, size := p.size, kind := .read, st := .done, res := b,
                                             since := s.cycle }] }, s)
  | .done => ({ o with mask := insertNat i o.mask }, s)
  | .stalled => (o, s)
  | .failed 0 addr => ({ o with miss := some (o.miss.getD addr) }, s)
  | .failed c addr => ({ (o.failing i c addr) with bad := insertNat i o.bad }, s)

/-- A side lies in a poisoned line. -/
def Op.onPoison (o : Op) (s : State) (d : Side) : Bool :=
  !s.poison.isEmpty && !d.remote &&
  (if d.spm then s.poisoned (spmKey o.fir.n d.va) 1
   else match (s.walk o.fir.tag.ctx o.fir.n d.va o.id).1 with | .leaf e => s.poisoned (e.key d.va) 1 | _ => false)

/-- An engine whose unit may write poisoned lines whole (R384): that of CPY, CPYW or TDRN; PMIG has its own. -/
def Op.fillsLines (o : Op) : Bool := o.opc == 0x12D || o.opc == 0x12E || o.opc == 0x108

/-- The element's own write, and the elements that fill the same line with it, where they fill a poisoned one. -/
def Op.lineMates (o : Op) (s : State) (ps : List Piece) (i : Nat) (p : Piece) : List Nat :=
  match p.dst with
  | some d =>
    if (p.src.isNone || (o.got i).isSome) && o.fillsLines && o.onPoison s d && wholeLine ps d then
      (List.range ps.length).filter fun j => match (ps[j]?).bind (·.dst) with
        | some e => e.spm == d.spm && !e.remote && e.va / 64 == d.va / 64
        | none => false
    else []
  | none => []

/-- The next access of element `i` of a unit. The writes that fill a poisoned line are made together, once every element of
them has its bytes; where one of those could not be read the line is not filled (R384). -/
def Op.doPiece (o : Op) (s : State) (path : Nat) (ps : List Piece) (i : Nat) : Op × State :=
  if o.mask.contains i || o.bad.contains i then (o, s)
  else match ps[i]? with
    | none => (o, s)
    | some p =>
      let mates := o.lineMates s ps i p
      if mates.isEmpty || mates.any o.bad.contains then o.onePiece s path p i false
      else if !(mates.all fun j => (o.got j).isSome || (match ps[j]? with | some q => q.src.isNone | none => true)) then (o, s)
      else mates.foldl (fun (st : Op × State) j => match ps[j]? with
        | some q => if st.1.mask.contains j || st.1.bad.contains j then st else st.1.onePiece st.2 path q j true
        | none => st) (o, s)

/-- Translate the next access of element `i` of a unit ahead (R294). -/
def Op.pieceAhead (o : Op) (s : State) (path : Nat) (ps : List Piece) (i : Nat) : Op × State :=
  if o.mask.contains i || o.bad.contains i then (o, s)
  else match ps[i]? with
    | none => (o, s)
    | some p => match (if (o.got i).isSome then none else p.src), p.dst with
      | some d, _ => o.sideAhead s path d p.size .read
      | none, some d => o.sideAhead s path d p.size (if p.add.isSome then .rmw 0 else .write)
      | none, none => (o, s)

/-- Make the accesses of every element of a unit that are left. -/
def Op.doPieces (o : Op) (s : State) (path : Nat) (ps : List Piece) : Op × State :=
  (List.range ps.length).foldl (fun (st : Op × State) i =>
    let st := st.1.doPiece st.2 path ps i
    st.1.doPiece st.2 path ps i) (o, s)

/-- Every element of a unit is performed or failed. -/
def Op.unitOver (o : Op) (ps : List Piece) : Bool := o.mask.length + o.bad.length == ps.length

/-- The next unit (R267): bookmark advanced, nothing performed of it yet. -/
def Op.nextUnit (o : Op) : Op := { o with book := o.book + 1, mask := [], bad := [], leaves := [], pins := [], vals := [], accs := [] }

/-! ### CPY and CPYW -/

/-- Word `i` of a descriptor. -/
def wordAt (d : List Byte) (i : Nat) : Nat := leNat ((d.drop (8 * i)).take 8)

/-- Word A of a dimension of a shape record. -/
def dimA (r : List Byte) (d : Nat) : Nat := wordAt r (2 + 2 * d)

/-- COUNT + 1 of a dimension. -/
def dimCount (r : List Byte) (d : Nat) : Nat := field (dimA r d) 16 0 + 1

def dimLimit (r : List Byte) (d : Nat) : Nat := field (dimA r d) 33 17

def dimStride (r : List Byte) (d : Nat) : Int := toSigned 64 (wordAt r (3 + 2 * d))

/-- Format of a shape record's elements. -/
def shapeFmt (r : List Byte) : Fmt := Fmt.ofCode (field (wordAt r 0) 63 61)

/-- Bytes of a shape record's element (R263). -/
def shapeSize (r : List Byte) : Nat :=
  match shapeFmt r with
  | .I => 2 ^ field (wordAt r 0) 60 59
  | .G => gSize (field (wordAt r 0) 58 57)
  | f => f.size

def shapeRemote (r : List Byte) : Bool := bitOf (wordAt r 0) 52

/-- Rows of a shape record: the product of the counts above dimension 0. -/
def shapeRows (r : List Byte) : Nat := dimCount r 1 * dimCount r 2 * dimCount r 3 * dimCount r 4

/-- The index tuple of element `i0` of a row, dimension 1 moving fastest. -/
def tuple (r : List Byte) (row i0 : Nat) : List Nat :=
  let a := dimCount r 1
  let b := dimCount r 2
  let c := dimCount r 3
  [i0, row % a, row / a % b, row / (a * b) % c, row / (a * b * c)]

/-- Address of an index tuple (R263). -/
def shapeAddr (r : List Byte) (base : Nat) (t : List Nat) : Nat :=
  ofInt 64 (t.zipIdx.foldl (fun (a : Int) x => a + x.1 * dimStride r x.2) (base : Int))

/-- A tuple is clipped (R265). -/
def clipped (r : List Byte) (t : List Nat) : Bool :=
  t.zipIdx.any fun x => x.2 ≤ field (wordAt r 0) 56 54 && dimLimit r x.2 ≤ x.1

/-- The address that a base operand reaches (R252): a scratchpad operand with bits above its low 23 set names no byte. -/
def reach (spm : Bool) (base va : Nat) : Nat := if spm && 2 ^ 23 ≤ base then base else placed spm va

/-- The side of a shape record at a tuple. -/
def shapeSide (r : List Byte) (base : Nat) (t : List Nat) (off : Nat) : Side :=
  let spm := bitOf (wordAt r 0) 53
  { spm := spm, remote := shapeRemote r, va := reach spm base (shapeAddr r base t + off) }

/-- The elements of a row of CPY or CPYW (R275); a gathering moves as 8-byte words. -/
def rowPieces (o : Op) : List Piece :=
  let x := o.fire
  let a := o.desc.take 96
  let b := (o.desc.drop 96).take 96
  let size := shapeSize a
  let unit := if shapeFmt a = .G then 8 else size
  let add := if bitOf (md o.instr) 3 then some (shapeFmt b) else none
  (List.range (dimCount a 0)).flatMap fun i0 =>
    let t := tuple a o.book i0
    (List.range (size / unit)).map fun w =>
      { src := if clipped a t then none else some (shapeSide a (x.i64 0 0) t (w * unit)), lit := List.replicate unit 0,
        dst := if clipped b t then none else some (shapeSide b (x.i64 1 0) t (w * unit)), size := unit, add := add }

/-- Start a transfer whose ports give one address each: FMT where the matched range is longer (R275). -/
def Fire.startXfer (x : Fire) (s : State) (desc : List Byte) (nums : List Nat) : State :=
  x.fmtGuard s (1 < x.f.len) fun s =>
    let (id, s) := s.newId
    s.addOp { x.op s id .xfer with desc := desc, nums := nums }

def execCpy (n : Node) (s : State) : Host.Outcome State Fault Refusal := fire 0x12D n s false fun x s =>
  x.startXfer s (x.pool s (im n) 192) []

def execCpyw (n : Node) (s : State) : Host.Outcome State Fault Refusal := fire 0x12E n s false fun x s =>
  x.startXfer s (x.pool s (im n) 200) []

/-! ### GATH and SCAT -/

def execGath (n : Node) (s : State) : Host.Outcome State Fault Refusal := fire 0x12F n s false fun x s =>
  x.startXfer s (x.pool s (im n) 32) [0]

def execScat (n : Node) (s : State) : Host.Outcome State Fault Refusal := fire 0x130 n s false fun x s =>
  x.startXfer s (x.pool s (im n) 32) [0]

/-- A shelf-list header is well formed (R392): NBEAM and NBLK, zero where nothing of it clips or changes. -/
def shelfShape (h : List Byte) : Nat × Nat :=
  let w := leNat (h.take 8)
  if field w 15 0 = 0 ∨ field w 39 20 = 0 ∨ field w 19 16 ≠ 0 ∨ field w 63 40 ≠ 0 ∨ (h.drop 8).any (· != 0) then (0, 0)
  else (field w 15 0, field w 39 20)

/-- A read of `k` 8-byte words by an engine; cause 255 stands for a wait (R428). -/
def Op.words (o : Op) (s : State) (path va : Nat) : Nat → List Byte → Except (Nat × Nat) (List Byte) × Op × State
  | 0, acc => (.ok acc, o, s)
  | k + 1, acc =>
    let (m, o, s) := o.side s path { va := va } 8 .read .I [] false
    match m with
    | .ok b => o.words s path (va + 8) k (acc ++ b)
    | .fail c _ => (.error (c, errAddr false va), o, s)
    | .stall => (.error (255, 0), o, s)

/-- The row that index `i` names (R277), through the shelf list under SLV (R392); none where it is clipped. -/
def Op.index (o : Op) (s : State) : Except (Nat × Nat) (Option Nat) × Op × State :=
  let w0 := wordAt o.desc 0
  let w := 2 ^ field w0 59 58
  let at0 : Side := { spm := bitOf w0 62, va := reach (bitOf w0 62) (o.fire.i64 0 0) (o.fire.i64 0 0 + o.book * w) }
  let (m, o, s) := o.side s 2 at0 w .read .I [] false
  match m with
  | .fail c _ => (.error (c, errAddr at0.spm at0.va), o, s)
  | .stall => (.error (255, 0), o, s)
  | .ok b =>
    let x := leNat b
    let bound (r : Nat) : Option Nat := if r < field (wordAt o.desc 2) 63 40 then some r else none
    if !bitOf w0 63 then (.ok (bound x), o, s)
    else
      let base := wordAt o.desc 3
      let (h, o, s) := o.words s 2 base 8 []
      match h with
      | .error e => (.error e, o, s)
      | .ok h =>
        let (nb, nk) := shelfShape h
        if nb * nk ≤ x then (.ok none, o, s)
        else
          let d : Side := { va := (base + 64 + 4 * x) % 2 ^ 64 }
          let (m, o, s) := o.side s 2 d 4 .read .I [] false
          match m with
          | .ok b => (.ok (if leNat b = 0xFFFF_FFFF then none else bound (leNat b)), o, s)
          | .fail c _ => (.error (c, errAddr false d.va), o, s)
          | .stall => (.error (255, 0), o, s)

/-- The elements of one index (R277): 8-byte words, or elements of EFMT under `.add`. -/
def indexPieces (o : Op) : List Piece :=
  let x := o.fire
  let w0 := wordAt o.desc 0
  let gath : Bool := o.opc == 0x12F
  let add : Option Fmt := if !gath && bitOf (md o.instr) 3 then some (Fmt.ofCode (field w0 57 55)) else none
  let unit := match add with | some .I => 2 ^ field w0 54 53 | some f => f.size | none => 8
  let dense := if gath then x.i64 2 0 else x.i64 1 0
  let rows := if gath then x.i64 1 0 else x.i64 2 0
  let n := (field w0 41 25 + 1) / unit
  let dside (k : Nat) : Side :=
    { spm := bitOf w0 60, va := reach (bitOf w0 60) dense (dense + o.book * field (wordAt o.desc 2) 39 0 + k * unit) }
  let xside (r k : Nat) : Side :=
    { spm := bitOf w0 61, va := reach (bitOf w0 61) rows (rows + r * field (wordAt o.desc 1) 39 0 + k * unit) }
  match o.vals.getD 0 0 with
  | 0 => if gath then (List.range n).map fun k =>
      { src := none, lit := List.replicate unit 0, dst := some (dside k), size := unit } else []
  | r + 1 => (List.range n).map fun k =>
      if gath then { src := some (xside r k), lit := [], dst := some (dside k), size := unit }
      else { src := some (dside k), lit := [], dst := some (xside r k), size := unit, add := add }

/-! ### MCST and REORD -/

def execMcst (n : Node) (s : State) : Host.Outcome State Fault Refusal := fire 0x134 n s false fun x s =>
  let (id, s) := s.newId
  s.addOp { x.op s id .xfer with desc := x.pool s (im n) 16 }

/-- The payload of a token as single-copy-atomic elements written from an address on (R281, R282). -/
def payloadPieces (o : Op) (t : Tok) (addr : Nat) : List Piece :=
  let u := accUnit o.instr
  (List.range (t.len * t.planes * (accSize o.instr / u))).map fun k =>
    { src := none, lit := (List.range u).map fun i => (t.data[k * u + i]?).getD (Config.freeByte (k * u + i)),
      dst := some { va := (addr + k * u) % 2 ^ 64 }, size := u }

/-- The replicas of an MCST, ascending. -/
def replicas (desc : List Byte) : List Nat := (List.range 8).filter fun r => bitOf (wordAt desc 0) r

/-- REORD (R279): the elements gathered by matching, as one token in output order. -/
def execReord (n : Node) (s : State) : Host.Outcome State Fault Refusal := firePure 0x131 n s fun x _ =>
  let w := reordWidth n
  ([{ out := 0, tok := x.tok n.fmt x.f.inputs.length 0 (x.f.inputs.flatMap fun t => leBytes w (t.elem w 0 0)) }], 0)

/-! ### Units of a transfer -/

/-- Units of a transfer (R266). -/
def unitsOf (o : Op) : Nat :=
  if o.opc = 0x134 then (replicas o.desc).length
  else if o.opc = 0x12F ∨ o.opc = 0x130 then field (wordAt o.desc 0) 24 0
  else shapeRows (o.desc.take 96)

/-- The elements of the current unit. -/
def unitPieces (o : Op) : List Piece :=
  if o.opc = 0x134 then
    payloadPieces o (o.fire.port 0) (o.fire.i64 1 0 + (replicas o.desc).getD o.book 0 * wordAt o.desc 1)
  else if o.opc = 0x12F ∨ o.opc = 0x130 then indexPieces o
  else rowPieces o

/-- The outputs of a transfer that ended well (R275, R277, R282). -/
def State.endXfer (s : State) (o : Op) : State :=
  let x := o.fire
  let vs := if o.opc = 0x12F ∨ o.opc = 0x130 then [o.book, o.nums.getD 0 0] else [o.book % 2 ^ 32]
  s.complete o (x.completion (pathOf o.opc) vs :: x.ordOuts (pathOf o.opc))

/-- The index tuple of an element of a row at or beyond the last: the outermost dimension that the record uses goes on. -/
def tupleBeyond (r : List Byte) (row i0 : Nat) : List Nat :=
  let nd := field (wordAt r 0) 56 54
  let below := ((List.range nd).drop 1).foldl (fun a d => a * dimCount r d) 1
  if nd = 0 then [i0 + row * dimCount r 0]
  else ((tuple r row i0).take nd) ++ [row / below]

/-- Lines of a source row of CPY or CPYW, `k` rows on (R262); the scratchpad and another package have none. -/
def Op.rowLines (o : Op) (k : Nat) : List Nat :=
  let r := o.desc.take 96
  if shapeRemote r ∨ bitOf (wordAt r 0) 53 = true then []
  else (List.range (dimCount r 0)).map fun i0 => shapeAddr r (o.fire.i64 0 0) (tupleBeyond r (o.book + k) i0) / 64 * 64

/-- Lines of `len` bytes from an address on. -/
def linesOf (a len : Nat) : List Nat := (List.range ((a % 64 + len + 63) / 64)).map fun i => (a / 64 + i) % 2 ^ 58 * 64

/-- What a byte range of a context reads as on P2, where it can be read, without any effect. -/
def State.peek (s : State) (o : Op) (spm : Bool) (va len : Nat) : Option (List Byte) :=
  if spm then some (s.seen (.core o.fir.n) 2 (spmKey o.fir.n va) len)
  else match (s.walk o.fir.tag.ctx o.fir.n va o.id).1 with
    | .leaf e => if bitOf e.pte.toNat 62 then some (s.seen (.core o.fir.n) 2 (e.key va) len) else none
    | _ => none

/-- Lines that GATH or SCAT may read `k` indices ahead (R262): of the index table, and of the row that is read, the one that
the index names or the dense one. -/
def Op.indexLines (o : Op) (s : State) (k : Nat) : List Nat :=
  let w0 := wordAt o.desc 0
  let w := 2 ^ field w0 59 58
  let at_ := reach (bitOf w0 62) (o.fire.i64 0 0) (o.fire.i64 0 0 + (o.book + k) * w)
  let len := field w0 41 25 + 1
  (if bitOf w0 62 then [] else linesOf at_ w) ++
  if o.opc = 0x12F then
    if bitOf w0 61 then []
    else match s.peek o (bitOf w0 62) at_ w with
      | some b => if bitOf w0 63 then [] else linesOf (o.fire.i64 1 0 + leNat b * field (wordAt o.desc 1) 39 0) len
      | none => []
  else if bitOf w0 60 then [] else linesOf (o.fire.i64 1 0 + (o.book + k) * field (wordAt o.desc 2) 39 0) len

/-- Lines that an engine may read ahead when it starts its unit (R262): of up to 4 rows or 64 indices beyond it, beyond the end of
the tensor too. -/
def Op.ahead (o : Op) (s : State) (k : Nat) : List Nat :=
  let vas := if o.opc = 0x12F ∨ o.opc = 0x130 then (List.range (min k 64)).flatMap fun i => o.indexLines s (i + 1)
    else if o.opc = 0x12D ∨ o.opc = 0x12E then (List.range (min k 4)).flatMap fun i => o.rowLines (i + 1)
    else []
  vas.eraseDups

/-- The read-ahead of an engine, as far as it goes: only the count of dropped prefetches tells of it (R262, log 45). -/
def State.readAhead (s : State) (o : Op) : State :=
  let (k, s) := s.choice 65
  (o.ahead s k).foldl (fun s va => if s.prefetchDrops o.fir.tag.ctx o.fir.n va then
    s.count o.fir.tag.ctx o.fir.n o.fir.elem 0x07 1 else s) s

/-- A transfer starts its unit: GATH and SCAT read their index, and a remote side needs a pod job (R264). -/
def Op.begin (o : Op) (s : State) : Op × State :=
  let o := { o with st := .active, since := if o.vals.isEmpty then s.cycle else o.since }
  if !o.vals.isEmpty then (o, s)
  else if o.opc = 0x12F ∨ o.opc = 0x130 then
    let (r, o, s) := o.index s
    match r with
    | .ok none => ({ o with vals := [0] }, s)
    | .ok (some x) => ({ o with vals := [x + 1] }, s)
    | .error (0, a) => ({ o with miss := some a }, s)
    | .error (255, _) => (o, s)
    | .error (c, a) => ({ (o.failing 0 c a) with bad := [0], vals := [] }, s)
  else
    let a := o.desc.take 96
    let b := (o.desc.drop 96).take 96
    if (o.opc = 0x12D ∨ o.opc = 0x12E) ∧ (shapeRemote a ∨ shapeRemote b) ∧ (s.ctx o.fir.tag.ctx).pod = false then
      let va := (if shapeRemote a then o.fire.i64 0 0 else o.fire.i64 1 0) % 2 ^ 56
      ({ (o.failing 0 7 va) with bad := [0], vals := [] }, s.violate o.fir.tag.ctx false va)
    else ({ o with vals := [1] }, s)

/-- Where a unit ended (R267): a missing translation stops the transfer; a failure stops it or, for MCST, stays noted; else the
bookmark advances and the transfer ends after its last unit. -/
def State.afterUnit (s : State) (o : Op) (last : Bool) : State :=
  match o.miss with
  | some a => s.stopOp o 2 a
  | none =>
    if !last then s.putOp o
    else if o.fail.isSome && (o.opc != 0x134 || (match verdict o.cap o.flags with | .halt _ => true | _ => false)) then s.failOp o
    else
      let o := if o.vals == [0] then { o with nums := [o.nums.getD 0 0 + 1] } else o
      let o := o.nextUnit
      if o.book < unitsOf o then s.putOp o
      else if o.fail.isSome then s.failOp o
      else if o.opc = 0x12E then s.putOp o
      else s.endXfer o

/-- CPYW's flag (R275, R289): written once every data write is visible at PKG scope on every path. -/
def State.writeFlag (s : State) (o : Op) : State :=
  if !s.reached o.id 127 127 3 then s
  else
    let d : Side := { remote := shapeRemote ((o.desc.drop 96).take 96), va := o.fire.i64 2 0 }
    let p : Piece := { src := none, lit := (o.desc.drop 192).take 8, dst := some d, size := 8 }
    let (o, s) := { o with st := .active }.doPiece s 1 [p] 0
    match o.miss with
    | some a => s.stopOp o 2 a
    | none => if !o.unitOver [p] then s.putOp o
      else if o.fail.isSome then s.failOp o
      else s.endXfer o

/-- One unit of a transfer: it starts, and later the accesses that are left of it are made. -/
def State.xferUnit (s : State) (o : Op) : State :=
  if unitsOf o ≤ o.book then s.writeFlag o
  else
    let fresh := o.vals.isEmpty
    let (o, s) := o.begin s
    if o.vals.isEmpty && o.miss.isNone && o.fail.isNone then s.putOp o
    else if o.miss.isSome ∨ o.vals = [] then s.afterUnit o true
    else if fresh then (s.putOp o).readAhead o
    else
      let ps := unitPieces o
      let (o, s) := o.doPieces s (pathOf o.opc) ps
      s.afterUnit o (o.unitOver ps)

/-- One access of an element of the unit in progress, ahead of the others; one without translation lets the others be performed before the
transfer stops (R259). -/
def State.xferElem (s : State) (o : Op) (i : Nat) : State :=
  if o.vals.isEmpty || unitsOf o ≤ o.book then s
  else
    let (o, s) := o.doPiece s (pathOf o.opc) (unitPieces o) i
    if o.miss.isSome then s.xferUnit { o with miss := none } else s.putOp o

/-! ### Die copy queues -/

/-- The queue of a DQPUT or DQFLG. -/
def dqOf (x : Fire) : DieQueue :=
  { ctx := x.f.tag.ctx, src := dieOf x.f.n, dst := field (im x.n) 3 0, q := field (im x.n) 5 4 }

/-- Same queue. -/
def DieQueue.same (a b : DieQueue) : Bool := a.ctx == b.ctx && a.src == b.src && a.dst == b.dst && a.q == b.q

def State.dieq (s : State) (d : DieQueue) : DieQueue := (s.dieqs.find? (·.same d)).getD d

def State.putDieq (s : State) (d : DieQueue) : State := { s with dieqs := s.dieqs.filter (fun e => !e.same d) ++ [d] }

/-- Entries of a queue that are not performed at PKG scope on every path yet (R280, R281). -/
def State.unperformed (s : State) (d : DieQueue) : List Nat :=
  d.ops.filter fun id => (match s.findOp id with | some o => o.st != .complete | none => false) || !s.reached id 127 127 3

/-- Number an entry where its queue has room (R280): a DQPUT emits its number at once. -/
def State.dqNumber (s : State) (o : Op) : State :=
  let d := s.dieq (dqOf o.fire)
  let left := s.unperformed d
  if 64 ≤ left.length then s
  else
    let s := s.putDieq { d with next := d.next + 1, ops := left ++ [o.id] }
    let o := { o with st := .active, nums := [d.next % 2 ^ 32] }
    let s := s.putOp o
    if o.opc = 0x132 then o.fire.emitAll s [{ out := 0, tok := { o.fire.one32 (d.next % 2 ^ 32) with deps := joinDeps o.deps [o.id] } }]
    else s

/-- The elements of a die-copy entry (R281, R431): the address, and a flag's value, are those of the first iteration. -/
def dqPieces (o : Op) : List Piece :=
  if o.opc = 0x133 then [{ src := none, lit := leBytes 8 (o.fire.i64 0 0), dst := some { va := o.fire.i64 1 0 }, size := 8 }]
  else payloadPieces o (o.fire.port 0) (o.fire.i64 1 0)

/-- The outputs of an entry that are left once its writes are performed. -/
def State.dqEnd (s : State) (o : Op) : State :=
  let x := o.fire
  let flagOut := if o.opc = 0x133 then [x.completion 4 [o.nums.getD 0 0]] else []
  match o.fail with
  | none => s.complete o (flagOut ++ x.ordOuts 4)
  | some (_, cause, addr) =>
    let o := { o with excs := o.excs ||| o.flags }
    match verdict o.cap o.flags with
    | .halt c => (s.showExcs o).stopOp o c addr
    | _ => s.complete o ((x.failOuts cause addr).filter fun u => o.opc == 0x133 || u.out != 0)

/-- One step of a die-copy entry: its numbering, or its writes once every entry before it is performed (R281). -/
def State.dqUnit (s : State) (o : Op) : State :=
  if o.st = .issued then s.dqNumber o
  else if ((s.unperformed (s.dieq (dqOf o.fire))).takeWhile (· != o.id)).isEmpty then
    let ps := dqPieces o
    let o := if o.vals.isEmpty then { o with vals := [1], since := s.cycle } else o
    let (o, s) := o.doPieces s 4 ps
    match o.miss with
    | some a => s.stopOp o 2 a
    | none => if o.unitOver ps then s.dqEnd o else s.putOp o
  else s

/-- A die-copy firing reaches its sequencer (R280); one that finds 64 entries waits. -/
def Fire.dqStart (x : Fire) (s : State) : State :=
  let (id, s) := s.newId
  let o := x.op s id .dq
  (s.addOp o).dqNumber o

def execDqput (n : Node) (s : State) : Host.Outcome State Fault Refusal := fireStore 0x132 n s fun x s => x.dqStart s

def execDqflg (n : Node) (s : State) : Host.Outcome State Fault Refusal := fire 0x133 n s false fun x s => x.dqStart s

end Sys2Proof.Machine
end

