-- ==== Sys2Proof/Machine/Tile.lean ====
section
/-! DEFINITION. The matrix array: tile references (R223 to R226), the accumulator store and its block states (R227, R237),
block passes (R228 to R235, R242), and the instructions of R238 with the drain (R248, R249). -/

namespace Sys2Proof.Machine

/-! ### References (R224 to R226) -/

/-- A tile reference: the format and order of its token and its two words. -/
structure Ref where
  fmt : Fmt
  jet : Nat
  w0  : Nat
  w1  : Nat
  deriving DecidableEq, Repr

def Ref.ofTok (t : Tok) : Ref := { fmt := t.fmt, jet := t.jet.toNat, w0 := t.elem 8 0 0, w1 := leNat ((t.data.drop 8).take 8) }

def Ref.rows (r : Ref) : Nat := field r.w0 55 46 + 1
def Ref.cols (r : Ref) : Nat := field r.w0 45 36 + 1
def Ref.base (r : Ref) : Nat := field r.w0 22 0
def Ref.rstride (r : Ref) : Nat := field r.w1 22 0
def Ref.mb (r : Ref) : Nat := field r.w0 55 54 + 1
def Ref.nb (r : Ref) : Nat := field r.w0 53 52 + 1
def Ref.off (r : Ref) : Nat := field r.w0 16 0
/-- Bytes between planes, of either kind. -/
def Ref.pstride (r : Ref) : Nat := if bitOf r.w0 62 then field r.w1 16 0 else field r.w1 45 23

/-- How the bytes of an operand tile hold its elements: a float format or INT8, gatherings of a variant, ternary digits. -/
inductive Elems where
  | plain (size : Nat) | gather (variant : Nat) | ternary
  deriving DecidableEq, Repr

/-- Bytes of a row of `cols` elements. -/
def Elems.rowBytes (k : Elems) (cols : Nat) : Nat :=
  match k with
  | .plain s => cols * s
  | .gather v => cols / 64 * gSize v
  | .ternary => (cols + 4) / 5

/-- A plane's extent in bytes. -/
def Ref.extent (r : Ref) (k : Elems) : Nat := (r.rows - 1) * r.rstride + k.rowBytes r.cols

/-- Two jet planes share a byte (R226): planes whose rows only stand between each other's do not. -/
def Ref.planesMeet (r : Ref) (k : Elems) : Bool :=
  let w : Int := k.rowBytes r.cols
  r.jet != 0 && r.pstride < r.extent k && (List.range r.jet).any fun d => (List.range (2 * r.rows - 1)).any fun i =>
    let x : Int := (d + 1) * r.pstride + ((i : Int) - (r.rows - 1 : Nat)) * r.rstride
    decide (-w < x ∧ x < w)

/-- Form of an operand reference (R224, R226). -/
def Ref.operandForm (r : Ref) (k : Elems) : Bool :=
  field r.w0 63 62 == 0 && field r.w0 61 56 == 0 && field r.w0 35 23 == 0 && field r.w1 63 46 == 0 &&
  r.base % 8 == 0 && r.rstride % 8 == 0 && r.pstride % 8 == 0 && (r.jet != 0 || r.pstride == 0) &&
  !r.planesMeet k && (match k with | .gather _ => r.cols % 64 == 0 | _ => true)

/-- Form of an accumulator reference (R225, R226). -/
def Ref.accForm (r : Ref) : Bool :=
  field r.w0 63 62 == 1 && field r.w0 61 56 == 0 && field r.w0 51 17 == 0 && field r.w1 63 17 == 0 &&
  r.off % 8192 == 0 && r.pstride % 8192 == 0 && (r.jet != 0 || r.pstride == 0) &&
  (r.jet == 0 || r.mb * r.nb * 8192 ≤ r.pstride)

/-- The first byte of an operand tile outside the scratchpad granules, if any. -/
def State.outside (s : State) (n : Nat) (r : Ref) (k : Elems) : Option Nat :=
  let limit := field (s.core n).partw.toNat 22 16 * 65536
  if r.base + r.jet * r.pstride + r.extent k ≤ limit then none
  else leastBy (· < ·) ((List.range (r.jet + 1)).flatMap fun j => (List.range r.rows).filterMap fun i =>
    let a := r.base + j * r.pstride + i * r.rstride
    if limit < a + k.rowBytes r.cols then some (max a limit) else none)

/-- An accumulator tile reaches past the accumulator granules. -/
def State.accOutside (s : State) (n : Nat) (r : Ref) : Bool :=
  field (s.core n).partw.toNat 14 8 * 65536 < r.off + r.jet * r.pstride + r.mb * r.nb * 8192

/-! ### Accumulator blocks (R227, R237) -/

/-- Number of a block in the store. -/
def Ref.block (r : Ref) (plane bi bj : Nat) : Nat := (r.off + plane * r.pstride) / 8192 + bi * r.nb + bj

def State.accBlock (s : State) (n b : Nat) : AccBlock := Assoc.get {} (s.core n).acc b

def State.modBlock (s : State) (n b : Nat) (f : AccBlock → AccBlock) : State :=
  s.modCore n fun c => { c with acc := Assoc.set {} c.acc b (f (Assoc.get {} c.acc b)) }

/-- WRITE and PASS. -/
def AccBlock.passed (b : AccBlock) : AccBlock :=
  match b.state with
  | .allocated | .complete | .drained => { b with state := .accumulating }
  | _ => b

/-- FIN. -/
def AccBlock.fin (b : AccBlock) : AccBlock :=
  match b.state with
  | .allocated | .accumulating | .drained => { b with state := .complete }
  | _ => b

/-- ZERO: values and marks cleared. -/
def AccBlock.zero (b : AccBlock) : AccBlock :=
  match b.state with
  | .draining => { b with vals := [] }
  | _ => { b with vals := [], state := .allocated, marks := 0, cause := 0 }

/-- MARK: rows of a mask, with the cause of the block's first mark. -/
def AccBlock.mark (b : AccBlock) (mask cause : Nat) : AccBlock :=
  if mask = 0 then b
  else { b with state := .poisoned, marks := b.marks ||| BitVec.ofNat 32 mask,
                cause := if b.marks = 0 then BitVec.ofNat 8 cause else b.cause }

/-- CLEAR of one row; the last one leaves POISONED. -/
def AccBlock.unmark (b : AccBlock) (row : Nat) : AccBlock :=
  if !bitOf b.marks.toNat row then b
  else
    let m := b.marks &&& ~~~ BitVec.ofNat 32 (2 ^ row)
    { b with marks := m, cause := if m = 0 then 0 else b.cause, state := if m = 0 then .accumulating else b.state }

/-- DRAIN and DONE of a TDRN. -/
def AccBlock.drain (b : AccBlock) (op : Nat) : AccBlock :=
  { b with drains := insertNat op b.drains, state := if b.state == .poisoned then .poisoned else .draining }

def AccBlock.done (b : AccBlock) (op : Nat) : AccBlock :=
  let d := b.drains.filter (· != op)
  { b with drains := d, state := if b.state == .draining && d.isEmpty then .drained else b.state }

def AccBlock.at (b : AccBlock) (r c : Nat) : Nat := (Assoc.get 0 b.vals (32 * r + c)).toNat

def AccBlock.put (b : AccBlock) (r c v : Nat) : AccBlock :=
  { b with vals := Assoc.set 0 b.vals (32 * r + c) (BitVec.ofNat 64 v) }

/-! ### Checks at firing -/

/-- The element layouts of A and B. -/
def operandElems (opc : Nat) (n : Node) (b : Bool) : Elems :=
  if opc = 0x102 then (if b && bitOf (md n) 5 then .ternary else .plain 1)
  else if opc = 0x103 then .gather (field (md n) 4 3)
  else .plain n.fmt.size

/-- The accumulator format of a matrix instruction. -/
def accFmt (opc : Nat) : Fmt := if opc = 0x102 then .I else .D

/-- Outcome of the checks of R226: form, bounds with an address, or good. -/
inductive Check where
  | good | form | bounds (addr : Nat)
  deriving DecidableEq, Repr

/-- The order of an MMAJ result (R242). -/
def jetOrder (a b : Ref) (cap : Nat) : Nat :=
  match [a.jet, b.jet].filter (· != 0) with
  | [] => 0
  | [k] => min k cap
  | k :: l :: _ => min (min k l) cap

/-- The checks of a matrix instruction (R226, R241, R242). -/
def Fire.matrixCheck (x : Fire) (s : State) : Check :=
  let a := Ref.ofTok (x.port 0)
  let b := Ref.ofTok (x.port 1)
  let c := Ref.ofTok (x.port 2)
  let ka := operandElems x.opc x.n false
  let kb := operandElems x.opc x.n true
  let trans : Bool := x.opc == 0x10B
  let K := a.cols
  let N := if trans then b.cols else b.rows
  let jets : Bool := if x.opc = 0x104 then c.jet == jetOrder a b x.cap.cap.toNat else a.jet == 0 && b.jet == 0 && c.jet == 0
  let form : Bool := a.fmt == x.n.fmt && b.fmt == x.n.fmt && c.fmt == accFmt x.opc && jets &&
    a.operandForm ka && b.operandForm kb && c.accForm &&
    (if trans then b.rows else b.cols) == K && (a.rows + 31) / 32 == c.mb && a.rows ≤ 128 &&
    (if isQuad x.n then 96 * c.nb < N && N ≤ 128 * c.nb && N ≤ 512 else (N + 31) / 32 == c.nb && N ≤ 128) &&
    (x.opc != 0x103 || K % 64 == 0)
  if !form then .form
  else match s.outside x.f.n a ka with
    | some o => .bounds (errAddr true o)
    | none => match s.outside x.f.n b kb with
      | some o => .bounds (errAddr true o)
      | none => if (quadCores x.n x.f.n).any fun m => s.accOutside m c then .bounds 0 else .good

/-! ### Operands and sums (R83 to R85, R228, R234) -/

/-- Scratchpad offset of the access that holds element (r, c) of a plane. -/
def Ref.addrOf (r : Ref) (k : Elems) (plane row col : Nat) : Nat :=
  r.base + plane * r.pstride + row * r.rstride + (match k with
    | .plain s => col * s
    | .gather v => col / 64 * gSize v
    | .ternary => col / 5)

/-- The accesses that an element is read by, as offsets from `addrOf` with their bytes (R254): of a gathering its header and the
8-byte words that hold the element's bits. -/
def Elems.reads (k : Elems) (col : Nat) : List (Nat × Nat) :=
  match k with
  | .plain z => [(0, z)]
  | .gather v =>
    let m := gMag v + 1
    ([0, 1 + m * (col % 64) / 64, 1 + (m * (col % 64) + m - 1) / 64].eraseDups).map fun w => (8 * w, 8)
  | .ternary => [(0, 1)]

/-- An element as an operand read on P3 gives it: the bytes it stands in, and the offset of its first access that met an
uncorrectable error. -/
def State.operand (s : State) (n : Nat) (r : Ref) (k : Elems) (plane row col : Nat) : List Byte × Option Nat :=
  let a := r.addrOf k plane row col
  let len := match k with | .plain z => z | .gather v => gSize v | .ternary => 1
  (s.seen (.core n) 3 (spmKey n a) len,
   ((k.reads col).find? fun p => s.poisoned (spmKey n (a + p.1)) p.2).map fun p => a + p.1)

/-- Note that a tile's plane has been read (R287). -/
def State.markTile (s : State) (n : Nat) (r : Ref) (k : Elems) (plane : Nat) : State :=
  (List.range r.rows).foldl (fun s i =>
    (s.rd (.core n) 3 (spmKey n (r.base + plane * r.pstride + i * r.rstride)) (k.rowBytes r.cols)).2) s

/-- What an operand element is to the array: beyond the tile, an exact value, or an integer; with the cause that marks it and
the offset of a failing access. -/
structure Opd where
  beyond : Bool := false
  val    : FP := (.zero, 0)
  int    : Int := 0
  cause  : Nat := 0
  addr   : Nat := 0
  deriving DecidableEq, Repr

/-- Element (row, col) of an operand that has been read: +0 with cause 0x06 where its read failed, with 0x08 in an error
gathering, five zero weights with 0x09 in a byte above 242. -/
def opdOf (r : Ref) (k : Elems) (uns : Bool) (row col : Nat) (got : List Byte × Option Nat) : Opd :=
  if r.rows ≤ row ∨ r.cols ≤ col then { beyond := true }
  else
    let (bytes, bad) := got
    match bad with
    | some at_ => { cause := 6, addr := at_ }
    | none => match k with
      | .plain _ => if r.fmt = .I then { int := readInt 8 uns (leNat bytes) } else { val := opnd r.fmt (leNat bytes) }
      | .gather v => if gExp bytes = 255 then { cause := 8 } else { val := (gElem v bytes (col % 64), 0) }
      | .ternary =>
        let b := leNat bytes
        if 243 ≤ b then { cause := 9 } else { int := (b / 3 ^ (col % 5) % 3 : Nat) - 1 }

/-- Element (row, col) of an operand as it is read now. -/
def State.opd (s : State) (n : Nat) (r : Ref) (k : Elems) (uns : Bool) (plane row col : Nat) : Opd :=
  opdOf r k uns row col (s.operand n r k plane row col)

/-- A product: exact, +0 beyond the tile, and +0 where a gathering zero takes part (R74, R84, R228). -/
def opdProd (gath : Bool) (a b : Opd) : FP :=
  if a.beyond || b.beyond then (.zero, 0)
  else
    let p := mulP a.val b.val
    match gath, p.1 with
    | true, .num _ 0 _ _ => (.zero, p.2)
    | _, _ => p

/-- Elements of one group (R83). -/
def groupSize (fmt : Fmt) : Nat := match fmt with | .H | .B => 16 | .Q => 32 | .G => 64 | _ => 1

/-- The exact sum of a group (R83, R85): infinities of both signs among its products are invalid, whatever else it holds. -/
def groupSum (g : List FP) : FP :=
  let sum := match g with | [] => (XV.zero, 0) | p :: r => r.foldl (addP .rne) p
  if g.any (fun p => p.1 == .inf false) && g.any (fun p => p.1 == .inf true) then (.nan, sum.2 ||| 1) else sum

/-- Accumulate one float cell over K in the order of R83: pattern and flags. `draw k` is the draw of step k. -/
def accFloat (fmt : Fmt) (rm : Rm) (draw : Nat → Nat) (acc : Nat) (ps : List FP) : Nat × Flags :=
  if fmt = .D then
    (ps.zipIdx.foldl (fun (st : Nat × Flags) (p, k) =>
      let r := roundP .D rm (draw k) (addP rm (opnd .D st.1) p)
      (r.1, st.2 ||| r.2)) (acc, 0))
  else
    let z := groupSize fmt
    (chunksOf z (ps.length + 1) ps).foldl (fun (st : Nat × Flags) g =>
      let sum := groupSum g
      let q := if z = 1 then (sum, 0) else (let t := roundP .D .rne 0 sum; (opnd .D t.1, t.2))
      let r := roundP .D .rne 0 (addP .rne (opnd .D st.1) q.1)
      (r.1, st.2 ||| q.2 ||| r.2)) (acc, 0)

/-- Accumulate one INT64 cell: wrapping, OF at each wrap (R83). -/
def accInt (acc : Nat) (ps : List Int) : Nat × Flags :=
  ps.foldl (fun (st : Nat × Flags) p =>
    let v := toSigned 64 st.1 + p
    (ofInt 64 v, st.2 ||| (if clampInt 64 false v |>.2 then 4 else 0))) (acc, 0)

/-- The units of a matrix firing: plane of C, plane of A, MMAJ step number, block (R236, R242). -/
def matrixUnits (o : Op) : List (Nat × Nat × Nat × Nat) :=
  let x := o.fire
  let a := Ref.ofTok (x.port 0)
  let b := Ref.ofTok (x.port 1)
  let c := Ref.ofTok (x.port 2)
  let top := if o.opc = 0x104 then jetOrder a b o.cap.cap.toNat else 0
  (List.range (top + 1)).flatMap fun j => (List.range (j + 1)).flatMap fun i =>
    if i ≤ a.jet ∧ j - i ≤ b.jet then (List.range (c.mb * c.nb)).map fun k => (j, i, i, k) else []

/-- A list of operand elements that a pass multiplies: the operand (B where `b`), its elements' layout and signedness, its plane,
and row and column of element `k` of list `r`. -/
structure PassList where
  ref   : Ref
  elems : Elems
  uns   : Bool
  plane : Nat
  row   : Nat → Nat
  col   : Nat → Nat

/-- List `q` of a pass: rows of A below 32, then rows, or under MMAT columns, of B. -/
def Op.passList (o : Op) (slice : Nat) (u : Nat × Nat × Nat × Nat) (q : Nat) : PassList :=
  let x := o.fire
  let c := Ref.ofTok (x.port 2)
  let at_ := 32 * (u.2.2.2 % c.nb) + 32 * c.nb * slice + (q - 32)
  if q < 32 then
    { ref := Ref.ofTok (x.port 0), elems := operandElems o.opc o.instr false, uns := bitOf (md o.instr) 3, plane := u.2.1,
      row := fun _ => 32 * (u.2.2.2 / c.nb) + q, col := fun k => k }
  else if o.opc = 0x10B then
    { ref := Ref.ofTok (x.port 1), elems := operandElems o.opc o.instr true, uns := false, plane := u.1 - u.2.1,
      row := fun k => k, col := fun _ => at_ }
  else
    { ref := Ref.ofTok (x.port 1), elems := operandElems o.opc o.instr true, uns := bitOf (md o.instr) 4, plane := u.1 - u.2.1,
      row := fun _ => at_, col := fun k => k }

/-- What a core's pass has read ahead of an element: one record per list, of 16 bytes per element (whether and where its read
failed, then its bytes, of which an element has at most 64). -/
def recordOf (got : List Byte × Option Nat) : List Byte :=
  leBytes 8 (match got.2 with | some a => a + 1 | none => 0) ++ leBytes 8 got.1.length ++ got.1 ++ List.replicate (64 - got.1.length) 0

/-- The record of element `k` read back. -/
def recordAt (b : List Byte) (k : Nat) : List Byte × Option Nat :=
  let r := (b.drop (80 * k)).take 80
  ((r.drop 16).take (leNat ((r.drop 8).take 8)), match leNat (r.take 8) with | 0 => none | a + 1 => some a)

/-- The elements of list `q` of a core's pass: as they were read ahead, or as they are read now. -/
def Op.passOpds (o : Op) (s : State) (slice : Nat) (u : Nat × Nat × Nat × Nat) (q : Nat) : List Opd :=
  let l := o.passList slice u q
  let K := (Ref.ofTok (o.fire.port 0)).cols
  match o.accs.find? (·.e == 64 * slice + q) with
  | some y => (List.range K).map fun k => opdOf l.ref l.elems l.uns (l.row k) (l.col k) (recordAt y.res k)
  | none => (List.range K).map fun k => s.opd o.fir.n l.ref l.elems l.uns l.plane (l.row k) (l.col k)

/-- A core reads one list of its next pass ahead of it: the reads of a pass are not made at one moment (R284, R286). -/
def Op.readList (o : Op) (s : State) (slice : Nat) (u : Nat × Nat × Nat × Nat) (q : Nat) : Op × State :=
  if o.accs.any (·.e == 64 * slice + q) then (o, s)
  else
    let l := o.passList slice u q
    let K := (Ref.ofTok (o.fire.port 0)).cols
    let got := (List.range K).flatMap fun k =>
      if l.ref.rows ≤ l.row k ∨ l.ref.cols ≤ l.col k then recordOf ([], none) else recordOf (s.operand o.fir.n l.ref l.elems l.plane (l.row k) (l.col k))
    let s := (List.range K).foldl (fun s k =>
      (s.rd (.core o.fir.n) 3 (spmKey o.fir.n (l.ref.addrOf l.elems l.plane (l.row k) (l.col k))) 1).2) s
    ({ o with accs := o.accs ++ [{ e := 64 * slice + q, j := 0, spm := true, va := 0, size := 0, kind := .read, st := .done, res := got,
                                   since := s.cycle }] }, s)

/-- One block pass on one core (R228, R241): `slice` is its place in a quad split. -/
def Op.pass (o : Op) (s : State) (core slice : Nat) (u : Nat × Nat × Nat × Nat) : Op × State :=
  let x := o.fire
  let (j, i, step, blk) := u
  let c := Ref.ofTok (x.port 2)
  let trans : Bool := o.opc == 0x10B
  let bi := blk / c.nb
  let bj := blk % c.nb
  let col0 := 32 * bj + 32 * c.nb * slice
  let rowA := (List.range 32).map fun r => o.passOpds s slice u r
  let rowB := (List.range 32).map fun r => o.passOpds s slice u (32 + r)
  let bn := c.block j bi bj
  let zero : Bool := bitOf (md o.instr) 0 && i == 0
  let s := if zero then s.modBlock core bn AccBlock.zero else s
  let old := s.accBlock core bn
  let gath : Bool := o.opc == 0x103
  let cells := (List.range 32).flatMap fun r => (List.range 32).map fun cc =>
    let ra := rowA.getD r []
    let rb := rowB.getD cc []
    let start := if zero then 0 else old.at r cc
    let res := if o.opc = 0x102 then accInt start ((ra.zip rb).map fun p => p.1.int * p.2.int)
      else accFloat o.instr.fmt (if o.instr.fmt = .D then o.cap.rm else .rne)
        (fun k => x.drawAt o.fir.tag 0 j (1 + k + 2 ^ 11 * (32 * bi + r) + 2 ^ 18 * (col0 + cc) + 2 ^ 27 * step))
        start ((ra.zip rb).map fun p => opdProd gath p.1 p.2)
    (r, cc, res)
  let s := s.modBlock core bn fun blkv => (cells.foldl (fun (v : AccBlock) (r, cc, res) => v.put r cc res.1) blkv).passed
  let fl := cells.foldl (fun a q => a ||| q.2.2.2) 0
  let causeOfRow (l : List Opd) (c : Nat) : Bool := l.any (·.cause == c)
  let maskFor (c : Nat) : Nat :=
    if rowB.any fun l => causeOfRow l c then 2 ^ 32 - 1
    else (List.range 32).foldl (fun m r => if causeOfRow (rowA.getD r []) c then m + 2 ^ r else m) 0
  let s := [6, 8, 9].foldl (fun s c => s.modBlock core bn fun v => v.mark (maskFor c) c) s
  let s := if bitOf (md o.instr) 1 then s.modBlock core bn AccBlock.fin else s
  let forced := [8, 9].filter fun c => maskFor c != 0
  let poisoned := ((rowA.zipIdx.flatMap fun (l, r) => l.zipIdx.filterMap fun (e, k) =>
      if e.cause = 6 then some ((32 * bi + r) * 2048 + k, e.addr) else none) ++
    (rowB.zipIdx.flatMap fun (l, r) => l.zipIdx.filterMap fun (e, k) =>
      if e.cause = 6 then
        let (br, bc) := if trans then (k, col0 + r) else (col0 + r, k)
        some (2 ^ 24 + br * 2048 + bc, e.addr) else none))
  let o := poisoned.foldl (fun (o : Op) p => o.failing p.1 6 (errAddr true p.2)) o
  ({ o with flags := o.flags ||| chargeTo j fl, accs := o.accs.filter (·.e / 64 != slice), vals := if o.vals.isEmpty then forced.take 1 else o.vals }, s)

/-- Every block of the result of a matrix firing is marked (R233). -/
def State.markAll (s : State) (c : Ref) (cores : List Nat) (cause : Nat) : State :=
  cores.foldl (fun s n => (List.range (c.jet + 1)).foldl (fun s j => (List.range (c.mb * c.nb)).foldl (fun s k =>
    s.modBlock n (c.block j (k / c.nb) (k % c.nb)) fun b => b.mark (2 ^ 32 - 1) cause) s) s) s

/-- The end of a matrix firing (R232 to R234): flags, marks and output 0. -/
def State.endMatrix (s : State) (o : Op) (c : Ref) (cores : List Nat) (out : Tok) : State :=
  let x := o.fire
  s.closeOp o o.flags fun s => match verdict o.cap o.flags with
  | .halt cause => x.fault s cause (match o.fail with | some (_, _, a) => a | none => 0) true 0 o.book
  | .token cause =>
    let s := if cause = 6 then s else s.markAll c cores cause
    let cause' := o.vals.headD cause
    x.emitAll s (x.errOuts cause' (if cause' = 6 then match o.fail with | some (_, _, a) => a | none => 0 else 0))
  | .go => match o.vals with
    | cause :: _ => x.emitAll s (x.errOuts cause 0)
    | [] => x.emitAll s [{ out := 0, tok := out }]

/-- The regular output of a tile instruction: a reference at the matched tag (R95). -/
def Fire.refTok (x : Fire) (p : Nat) : Tok := { x.port p with tag := x.f.tag, eos := x.eos, deps := x.deps, port := 0 }

/-- Units completed on each core that a matrix firing spans (R236). -/
def Op.counts (o : Op) : List Nat := (List.range (quadCores o.instr o.fir.n).length).map fun k => o.nums.getD k 0

/-- One unit of a matrix firing on one of the cores it spans (R235, R236); its bookmark is the least of theirs. A numeric class
under HALT ends it after the pass (R233). -/
def State.matrixUnitOn (s : State) (o : Op) (core slice : Nat) : State :=
  let x := o.fire
  let cores := quadCores o.instr o.fir.n
  let c := Ref.ofTok (x.port 2)
  match (matrixUnits o)[o.counts.getD slice 0]? with
  | none => s
  | some u =>
    let (o, s) := o.pass s core slice u
    let s := s.markTile o.fir.n (Ref.ofTok (x.port 0)) (operandElems o.opc o.instr false) u.2.1
    let s := s.markTile o.fir.n (Ref.ofTok (x.port 1)) (operandElems o.opc o.instr true) (u.1 - u.2.1)
    let done := setAt o.counts slice (o.counts.getD slice 0 + 1)
    let least := done.foldl min (done.headD 0)
    let o := { o with nums := done, book := least, st := .active, since := s.cycle }
    let numeric := (List.range 8).foldl (fun a j => a ||| (o.flags &&& (31 * 2 ^ (8 * j)))) 0
    match verdict o.cap numeric with
    | .halt _ => s.endMatrix { o with flags := numeric } c cores (x.refTok 2)
    | _ => if (matrixUnits o).length ≤ o.book then s.endMatrix o c cores (x.refTok 2) else s.putOp o

/-- One unit of a matrix firing on one of its cores that are not halted. -/
def State.matrixUnit (s : State) (o : Op) : State :=
  let left := (quadCores o.instr o.fir.n).zipIdx.filter fun p => o.counts.getD p.2 0 < (matrixUnits o).length && (s.elem p.1 84).halted.isNone
  let (i, s) := if left.length ≤ 1 then (0, s) else s.choice left.length
  match left[i]? with
  | none => s
  | some (core, slice) => s.matrixUnitOn o core slice

/-- A core of a matrix firing that is not halted reads a list of its next pass: `k` is 64 times its place, and the list. -/
def State.matrixRead (s : State) (o : Op) (k : Nat) : State :=
  match (quadCores o.instr o.fir.n)[k / 64]?, (matrixUnits o)[o.counts.getD (k / 64) 0]? with
  | some core, some u =>
    if (s.elem core 84).halted.isSome then s
    else
      let (o, s) := o.readList s (k / 64) u (k % 64)
      s.putOp o
  | _, _ => s

/-- A matrix instruction at firing (R226, R232): an error token on port 2 absorbs the others, one elsewhere is forwarded, the
references are checked, and the passes begin. The address word of the error token of a breach of form is 0, since R226 gives one
for a breach of bounds alone: the model's choice (log 47). -/
def Fire.matrix (x : Fire) (s : State) : State :=
  match (x.port? 2).bind fun t => if t.isErr then some t else none with
  | some e =>
    let k := x.f.inputs.length - 1
    x.emitAll (s.count x.f.tag.ctx x.f.n x.f.elem 0x0E k) [{ out := 0, tok := { x.forwardTok e with data := absorb k e.data } }]
  | none => match x.firstErr s with
    | some e => x.forward s e
    | none =>
      let jets : Bool := x.opc == 0x104 && x.cap.cap == 0 && ((x.port 0).jet != 0 || (x.port 1).jet != 0)
      x.fmtGuard s jets fun s =>
        match x.matrixCheck s with
        | .form => x.fail s clsFMT
        | .bounds a => x.fail s clsPROT a
        | .good =>
          let (id, s) := s.newId
          s.addOp { x.op s id .matrix with st := .active }

def execMma (n : Node) (s : State) : Host.Outcome State Fault Refusal := fire 0x101 n s true fun x s => x.matrix s

def execMmai (n : Node) (s : State) : Host.Outcome State Fault Refusal := fire 0x102 n s true fun x s => x.matrix s

def execMmag (n : Node) (s : State) : Host.Outcome State Fault Refusal := fire 0x103 n s true fun x s => x.matrix s

def execMmaj (n : Node) (s : State) : Host.Outcome State Fault Refusal := fire 0x104 n s true fun x s => x.matrix s

def execMmat (n : Node) (s : State) : Host.Outcome State Fault Refusal := fire 0x10B n s true fun x s => x.matrix s

/-! ### TREF and TSPLT -/

/-- TREF (R240): one reference for each base offset. -/
def execTref (n : Node) (s : State) : Host.Outcome State Fault Refusal := fire 0x100 n s false fun x s =>
  let t := x.pool s (im n) 16
  let w0 := wordAt t 0
  let acc : Bool := bitOf w0 62
  let old := if acc then field w0 16 0 else field w0 22 0
  let width := if acc then 17 else 23
  let one (e : Nat) : Tok × Bool :=
    let v := old + x.i64 0 e
    let bad := 2 ^ width ≤ v || v % (if acc then 8192 else 8) != 0
    let tok : Tok := { tag := x.f.tag.atIter (x.f.tag.iter + BitVec.ofNat 16 e), fmt := n.fmt, jet := BitVec.ofNat 3 (md n), deps := x.deps,
                       eos := x.eos && e + 1 == x.f.len, data := leBytes 8 (w0 - old + v) ++ t.drop 8 }
    (if bad then { tok with fmt := .X, jet := 0, data := errPayload x.f.n x.f.img.nodeid.toNat 8 0 } else tok, bad)
  let outs := (List.range x.f.len).map one
  let fl := if outs.any (·.2) then flag clsFMT 0 else 0
  let s := s.setFlags x.f.tag.ctx x.cap false fl
  match verdict x.cap fl with
  | .halt c => x.fault s c
  | _ => x.emitAll s (outs.map fun o => { out := 0, tok := o.1 })

/-- The element layout that TSPLT cuts by. -/
def spltElems (n : Node) : Elems :=
  if n.fmt = .G then .gather (field (md n) 2 1)
  else if n.fmt = .I then (if bitOf (md n) 3 then .ternary else .plain 1)
  else .plain n.fmt.size

/-- The pieces of TSPLT (R247): none for a size or an axis that the reference does not allow. -/
def spltPieces (n : Node) (r : Ref) : Option (List (Nat × Nat)) :=
  let p := im n + 1
  let rows : Bool := !bitOf (md n) 0
  if bitOf r.w0 62 then
    if !rows || p % 32 != 0 then none
    else
      let q := p / 32
      some ((List.range ((r.mb + q - 1) / q)).map fun i =>
        let k := min q (r.mb - i * q)
        (r.w0 - r.off - (r.mb - 1) * 2 ^ 54 + (r.off + i * q * r.nb * 8192) + (k - 1) * 2 ^ 54, r.w1))
  else if rows then
    some ((List.range ((r.rows + p - 1) / p)).map fun i =>
      let k := min p (r.rows - i * p)
      (r.w0 - r.base - (r.rows - 1) * 2 ^ 46 + (r.base + i * p * r.rstride) + (k - 1) * 2 ^ 46, r.w1))
  else
    let step : Option Nat := match spltElems n with
      | .plain z => some (p * z)
      | .gather v => if p % 64 = 0 then some (p / 64 * gSize v) else none
      | .ternary => if p % 5 = 0 then some (p / 5) else none
    step.map fun d => (List.range ((r.cols + p - 1) / p)).map fun i =>
      let k := min p (r.cols - i * p)
      (r.w0 - r.base - (r.cols - 1) * 2 ^ 36 + (r.base + i * d) + (k - 1) * 2 ^ 36, r.w1)

def execTsplt (n : Node) (s : State) : Host.Outcome State Fault Refusal := fire 0x109 n s false fun x s =>
  let r := Ref.ofTok (x.port 0)
  let acc : Bool := bitOf r.w0 62
  let good := if acc then r.accForm else r.fmt == n.fmt && r.operandForm (spltElems n)
  match (if good then spltPieces n r else none) with
  | none => x.fail s clsFMT
  | some ps =>
    let out := if acc then s.accOutside x.f.n r else (s.outside x.f.n r (spltElems n)).isSome
    if out then x.fail s clsPROT (if acc then 0 else errAddr true ((s.outside x.f.n r (spltElems n)).getD 0))
    else x.emitAll s (ps.mapIdx fun i w => { out := 0, tok := { x.refTok 0 with
      tag := x.f.tag.atIter (x.f.tag.iter + BitVec.ofNat 16 i), eos := x.eos && i + 1 == ps.length,
      data := leBytes 8 w.1 ++ leBytes 8 w.2 } })

/-! ### ACCZ, ACCRD, ACCWR, ACCPS (R243 to R246) -/

/-- The check of one accumulator reference on the executing core. -/
def Fire.accCheck (x : Fire) (s : State) (p : Nat) (more : Bool) : Check :=
  let r := Ref.ofTok (x.port p)
  if !(r.accForm && more && (r.fmt == x.n.fmt)) then .form else if s.accOutside x.f.n r then .bounds 0 else .good

/-- Run a body when a check is good. -/
def Fire.checked (x : Fire) (s : State) (c : Check) (act : State → State) : State :=
  match c with
  | .form => x.fail s clsFMT
  | .bounds a => x.fail s clsPROT a
  | .good => act s

/-- Start an operation of the array whose unit is a block. -/
def Fire.blockOp (x : Fire) (s : State) : State :=
  let (id, s) := s.newId
  s.addOp { x.op s id .matrix with st := .active }

def execAccz (n : Node) (s : State) : Host.Outcome State Fault Refusal := fire 0x105 n s false fun x s =>
  x.checked s (x.accCheck s 0 true) x.blockOp

/-- Blocks of a reference, plane by plane. -/
def Ref.blocks (r : Ref) : List Nat :=
  (List.range (r.jet + 1)).flatMap fun j => (List.range (r.mb * r.nb)).map fun k => r.block j (k / r.nb) (k % r.nb)

/-- One block of ACCZ. -/
def State.acczUnit (s : State) (o : Op) : State :=
  let bs := (Ref.ofTok (o.fire.port 0)).blocks
  let s := match bs[o.book]? with | some b => s.modBlock o.fir.n b AccBlock.zero | none => s
  if bs.length ≤ o.book + 1 then s.complete o [plainOut (o.fire.refTok 0)] else s.putOp { o with book := o.book + 1 }

def execAccrd (n : Node) (s : State) : Host.Outcome State Fault Refusal := fire 0x106 n s false fun x s =>
  x.checked s (x.accCheck s 0 (im n ≤ (Ref.ofTok (x.port 0)).jet)) x.blockOp

/-- The token of a row chunk that ACCRD has read as a list of its mark's cause, or 0, and its elements (R244). -/
def Fire.accTok (x : Fire) (r : Ref) (row ch : Nat) (vs : List Nat) : Tok :=
  let tag := x.f.tag.atIter (x.f.tag.iter + BitVec.ofNat 16 (32 * (row * r.nb + ch)))
  let t : Tok := if vs.headD 0 != 0 && !bitOf (md x.n) 0 then x.errTok (vs.headD 0) 0 else x.tok x.n.fmt 32 0 (elems 8 (vs.drop 1))
  { t with tag := tag, eos := x.eos && row + 1 == 32 * r.mb && ch + 1 == r.nb }

/-- One block of ACCRD (R236, R244): it is read, and with the last block of a block row that row's tokens are emitted in ascending
order of rows, then of chunks. -/
def State.accrdUnit (s : State) (o : Op) : State :=
  let x := o.fire
  let r := Ref.ofTok (x.port 0)
  let bi := o.book / r.nb
  let b := s.accBlock o.fir.n (r.block (im o.instr) bi (o.book % r.nb))
  let rows := (List.range 32).flatMap fun i =>
    (if bitOf b.marks.toNat i then b.cause.toNat else 0) :: (List.range 32).map fun c => b.at i c
  let o := { o with vals := o.vals ++ rows, book := o.book + 1, st := .active }
  if o.book % r.nb != 0 then s.putOp o
  else
    let outs := (List.range 32).flatMap fun i => (List.range r.nb).map fun ch =>
      { out := 0, tok := x.accTok r (32 * bi + i) ch ((o.vals.drop (33 * (32 * ch + i))).take 33) }
    x.emitAll (if r.mb * r.nb ≤ o.book then s.dropOp o.id else s.putOp { o with vals := [] }) outs

/-- ACCWR: part of a row chunk; a whole chunk clears its mark. -/
def execAccwr (n : Node) (s : State) : Host.Outcome State Fault Refusal := fire 0x107 n s false fun x s =>
  let r := Ref.ofTok (x.port 0)
  let row := field (im n) 6 0
  let ch := field (im n) 8 7
  let plane := field (im n) 11 9
  let d := x.port 1
  x.checked s (x.accCheck s 0 (row < 32 * r.mb && ch < r.nb && plane ≤ r.jet && d.len ≤ 32)) fun s =>
    let s := s.modBlock x.f.n (r.block plane (row / 32) ch) fun b =>
      let b := ((List.range d.len).foldl (fun (b : AccBlock) c => b.put (row % 32) c (d.elem 8 0 c)) b).passed
      if d.len = 32 then b.unmark (row % 32) else b
    x.emitAll s [{ out := 0, tok := x.refTok 0 }]

/-- The source core of ACCPS. -/
def accpsCore (n : Node) (core : Nat) : Nat := core - core % 4 + field (md n) 1 0

def execAccps (n : Node) (s : State) : Host.Outcome State Fault Refusal := fire 0x10A n s false fun x s =>
  let a := Ref.ofTok (x.port 0)
  let b := Ref.ofTok (x.port 1)
  let src := accpsCore n x.f.n
  let form := a.accForm && b.accForm && a.fmt == n.fmt && b.fmt == n.fmt && a.mb == b.mb && a.nb == b.nb && a.jet == b.jet
  let c : Check := if !form then .form
    else if (s.core src).owner != some x.f.tag.ctx || s.accOutside x.f.n a || s.accOutside src b then .bounds 0 else .good
  x.checked s c x.blockOp

/-- One row of a source block as ACCPS reads it: values, then its mark's cause or 0. -/
def State.accRow (s : State) (n b r : Nat) : List Byte :=
  let v := s.accBlock n b
  (List.range 32).flatMap (fun c => leBytes 8 (v.at r c)) ++
    leBytes 8 (if bitOf v.marks.toNat r then v.cause.toNat else 0)

/-- ACCPS reads a row of its source ahead of its step (R231). -/
def State.accpsRow (s : State) (o : Op) (r : Nat) : State :=
  match (Ref.ofTok (o.fire.port 1)).blocks[o.book]? with
  | some b =>
    if r < 32 ∧ !o.accs.any (·.e == r) then
      s.putOp { o with accs := o.accs ++ [{ e := r, j := 0, spm := false, va := 0, size := 0, kind := .read,
                                            res := s.accRow (accpsCore o.instr o.fir.n) b r }] }
    else s
  | none => s

/-- One block of ACCPS. -/
def State.accpsUnit (s : State) (o : Op) : State :=
  let x := o.fire
  let a := Ref.ofTok (x.port 0)
  let src := accpsCore o.instr o.fir.n
  match a.blocks[o.book]?, (Ref.ofTok (x.port 1)).blocks[o.book]? with
  | some d, some b =>
    let row (r : Nat) : List Byte := match o.accs.find? (·.e == r) with | some y => y.res | none => s.accRow src b r
    let cells := (List.range 32).flatMap fun r => (List.range 32).map fun c =>
      let u := (s.accBlock o.fir.n d).at r c
      let v := leNat (((row r).drop (8 * c)).take 8)
      (r, c, if o.instr.fmt = .D then roundP .D .rne 0 (addP .rne (opnd .D u) (opnd .D v)) else accInt u [toSigned 64 v])
    let s := s.modBlock o.fir.n d fun blk =>
      let blk := (cells.foldl (fun (k : AccBlock) (r, c, res) => k.put r c res.1) blk).passed
      let blk := (List.range 32).foldl (fun (k : AccBlock) r =>
        let cause := leNat ((row r).drop 256)
        if cause = 0 then k else k.mark (2 ^ r) cause) blk
      if bitOf (md o.instr) 2 then blk.fin else blk
    let o := { o with flags := o.flags ||| cells.foldl (fun a q => a ||| q.2.2.2) 0, book := o.book + 1, accs := [] }
    match verdict o.cap o.flags with
    | .halt _ => s.endMatrix o a [o.fir.n] (x.refTok 0)
    | _ => if a.blocks.length ≤ o.book then s.endMatrix o a [o.fir.n] (x.refTok 0) else s.putOp o
  | _, _ => s.dropOp o.id

/-! ### TDRN (R248, R249) -/

/-- The blocks of a drain's plane that rows `32·bi` on and its columns read. -/
def drainBlocks (r : Ref) (d : List Byte) (bi : Nat) : List Nat :=
  (List.range ((field (wordAt d 0) 43 36 + 31) / 32)).map fun bj => r.block (field (wordAt d 0) 56 54) bi bj

/-- TDRN at firing. -/
def execTdrn (n : Node) (s : State) : Host.Outcome State Fault Refusal := fire 0x108 n s false fun x s =>
  let r := Ref.ofTok (x.port 0)
  let d := x.pool s (im n) 16
  let w0 := wordAt d 0
  x.checked s (x.accCheck s 0 (field w0 56 54 ≤ r.jet && field w0 51 44 ≤ 32 * r.mb && field w0 43 36 ≤ 32 * r.nb)) fun s =>
    let (id, s) := s.newId
    s.addOp { x.op s id .drain with desc := d, book := field w0 56 54 * 1024 }

/-- Output format of a drain, and its element size. -/
def drainTy (d : List Byte) : NumTy := { fmt := Fmt.ofCode (field (wordAt d 0) 63 61), w := 8 * 2 ^ field (wordAt d 0) 60 59 }

/-- Destination of element (r, c). -/
def drainAddr (o : Op) (r c : Nat) : Nat :=
  (o.fire.i64 1 0 + r * field (wordAt o.desc 1) 39 0 + c * (drainTy o.desc).size) % 2 ^ 64

/-- A drained element: pattern and flags. -/
def drainElem (o : Op) (r c v : Nat) : Nat × Nat :=
  let t := drainTy o.desc
  let w0 := wordAt o.desc 0
  let draw := o.fire.drawAt o.fir.tag 0 (field w0 56 54) (1 + c + 2 ^ 8 * r)
  if o.instr.fmt = .D then cvtElem { fmt := .D } t o.cap.rm draw v
  else if t.fmt = .I then
    (if bitOf w0 58 then let k := clampInt t.w false (toSigned 64 v); (ofInt t.w k.1, if k.2 then 4 else 0) else (v % 2 ^ t.w, 0))
  else roundX t.fmt o.cap.rm draw (.int (toSigned 64 v))

/-- Columns of a row that a drain writes, and the first column of each skipped segment with its cause. -/
def State.drainRow (s : State) (o : Op) (r : Nat) : List Nat × List (Nat × Nat) :=
  let ref := Ref.ofTok (o.fire.port 0)
  let cols := field (wordAt o.desc 0) 43 36
  let blk (c : Nat) := s.accBlock o.fir.n (ref.block (field (wordAt o.desc 0) 56 54) (r / 32) (c / 32))
  let skip (c : Nat) : Bool := !bitOf (md o.instr) 4 && bitOf (blk c).marks.toNat (r % 32)
  ((List.range cols).filter fun c => !skip c,
   (List.range cols).filterMap fun c => if c % 32 = 0 ∧ skip c then some (c, (blk c).cause.toNat) else none)

/-- The writes of a row that a drain has read: the elements that its accesses hold, by column. -/
def drainPieces (o : Op) (r : Nat) : List Piece :=
  let t := drainTy o.desc
  o.accs.map fun a => { src := none, lit := a.res, size := t.size,
                        dst := some { spm := bitOf (wordAt o.desc 0) 57, va := drainAddr o r a.j },
                        add := if bitOf (md o.instr) 3 then some t.fmt else none }

/-- A drain reads its row (R231): blocks begin DRAINING, the elements are converted and kept, with their flags and the segments
that marks skip. -/
def State.drainRead (s : State) (o : Op) (r : Nat) : Op × State :=
  let ref := Ref.ofTok (o.fire.port 0)
  let d := o.desc
  let s := if r % 32 = 0 then (drainBlocks ref d (r / 32)).foldl (fun s b => s.modBlock o.fir.n b fun k => k.drain o.id) s else s
  let row := s.drainRow o r
  let es := row.1.map fun c =>
    let b := s.accBlock o.fir.n (ref.block (field (wordAt d 0) 56 54) (r / 32) (c / 32))
    (c, drainElem o r c (b.at (r % 32) (c % 32)))
  let skips := row.2.map fun p => (p.2, errAddr (bitOf (wordAt d 0) 57) (drainAddr o r p.1))
  let fl := es.foldl (fun a e => a ||| e.2.2) (if skips.isEmpty then 0 else flag clsPOISON 0)
  ({ o with
     accs := es.zipIdx.map fun (e, i) => { e := i, j := e.1, spm := false, va := 0, size := 0, kind := .read, st := .done,
                                           res := leBytes (drainTy d).size e.2.1, since := s.cycle },
     flags := o.flags ||| fl, pairs := o.pairs ++ skips, vals := [1], st := .active }, s)

/-- Blocks of a drain leave DRAINING. -/
def State.drainDone (s : State) (o : Op) : State :=
  let r := Ref.ofTok (o.fire.port 0)
  (List.range 4).foldl (fun s bi => (drainBlocks r o.desc bi).foldl (fun s b =>
    if (s.accBlock o.fir.n b).drains.contains o.id then s.modBlock o.fir.n b fun k => k.done o.id else s) s) s

/-- The end of a drain: flags, then the reference and the ordering output, or error tokens; a POISON token carries the first
skipped segment's cause and address. A class under HALT ends the firing by Fault (R7). -/
def State.endDrain (s : State) (o : Op) : State :=
  let x := o.fire
  let s := s.drainDone o
  let o := { o with excs := o.excs ||| o.flags }
  let first (c : Nat) : Nat × Nat := match o.pairs with | p :: _ => if c = 6 then p else (c, 0) | [] => (c, 0)
  match verdict o.cap o.flags with
  | .halt c => x.fault ((s.showExcs o).dropOp o.id) c (if c = 0x0004 then (first 6).2 else 0) true 0 o.book
  | .token c => s.complete o (x.failOuts (first c).1 (first c).2)
  | .go => s.complete o ({ out := 0, tok := x.refTok 0, paths := 2, scope := 0 } :: x.ordOuts 1)

/-- One row of a drain (R236, R249, R267). -/
def State.drainUnit (s : State) (o : Op) : State :=
  let plane := field (wordAt o.desc 0) 56 54 * 1024
  let rows := field (wordAt o.desc 0) 51 44
  let r := o.book - plane
  if rows ≤ r then s.endDrain o
  else
    let (o, s) := if o.vals.isEmpty then s.drainRead o r else (o, s)
    let ps := drainPieces o r
    let (o, s) := o.doPieces s 1 ps
    match o.miss with
    | some a => s.stopOp o 2 a
    | none =>
      if !o.unitOver ps then s.putOp o
      else if o.fail.isSome then
        let o := { o with flags := if o.pairs.isEmpty then o.flags else o.flags ||| flag clsPOISON 0 }
        (if o.fire.halts o.flags then s else s.drainDone o).failOp o
      else
        let o := { o with mask := [], leaves := [], pins := [], accs := [], vals := [], book := plane + r + 1,
                          flags := if o.pairs.isEmpty then o.flags else o.flags ||| flag clsPOISON 0 }
        if rows ≤ r + 1 then s.endDrain o else s.putOp o

/-- An access of an operation of the array, ahead of its unit. -/
def State.arrayRead (s : State) (o : Op) (k : Nat) : State :=
  if o.opc = 0x10A then s.accpsRow o k
  else if o.opc = 0x105 ∨ o.opc = 0x106 then s
  else s.matrixRead o k

/-- Finish the unit of the array that an operation is in on a core (R236, R353): one for which it has read something. -/
def State.arrayFinish (s : State) (o : Op) (n : Nat) : State :=
  if o.opc = 0x10A then (if o.accs.isEmpty then s else s.accpsUnit o)
  else if o.opc = 0x105 ∨ o.opc = 0x106 then s
  else if o.accs.any (·.e / 64 == n - o.fir.n) then s.matrixUnitOn o n (n - o.fir.n) else s

/-- One unit of an operation of the array. -/
def State.arrayUnit (s : State) (o : Op) : State :=
  if o.opc = 0x105 then s.acczUnit o else if o.opc = 0x106 then s.accrdUnit o else if o.opc = 0x10A then s.accpsUnit o else s.matrixUnit o

end Sys2Proof.Machine
end

