-- ==== Sys2Proof/Machine/Firing.lean ====
section
/-! DEFINITION. The choice of the firing that an element starts (R323, R324, R109, R253) and its loading (R51, R100). -/

namespace Sys2Proof.Machine

/-- A firing's class at the moment (R323): the least class among its tokens, lowered to the kernel's effective class and by
one for each 256 cycles, up to 512, that it has been ready, never so below 1. -/
def State.firingClass (s : State) (f : Firing) : Nat :=
  let c := f.inputs.foldl (fun a t => min a t.cls.toNat) 3
  let c := min c (s.effClass (s.instAt f.tag.ctx f.n f.elem f.slot))
  if 2 ≤ c then max 1 (c - max f.promo (min 2 ((s.cycle - f.ready) / 256))) else c

/-- Instructions of R253, which hold one of an MAE's outstanding firings while requests are unanswered. -/
def isRequest (opc : Nat) : Bool := (0x120 ≤ opc && opc ≤ 0x126) || opc == 0x135 || opc == 0x136

/-- A slot holds an instruction that issues requests on P0. -/
def Elem.requests (e : Elem) (slot : Nat) : Bool :=
  match (e.slot slot).info with
  | some (opc, _, _) => isRequest opc
  | none => false

/-- Firings of an MAE with outstanding requests. -/
def State.outstanding (s : State) (n elem : Nat) : Nat :=
  (s.ops.filter fun o => o.kind == .mem && isRequest o.opc && o.fir.n == n && o.fir.elem == elem).length

/-- The instruction of a configured slot. -/
def Slot.instr (x : Slot) : Option Instr :=
  match decodeNode x.iw.toNat x.lw.toNat with
  | .ok i => some i
  | .error _ => none

/-- A firing at the MXA finds it busy. -/
def State.mxaBusy (s : State) (f : Firing) (opc : Nat) (n : Node) : Bool :=
  f.elem == 84 && s.ops.any fun o => o.kind == .matrix && o.fir.elem == 84 &&
    (mxaCores o.opc o.instr o.fir.n).any fun c => (mxaCores opc n f.n).contains c

/-- A firing that would wait in its slot (R199, R306): a TSPACE without a free instance number, a CALL without a frame it may
take, a QPUT or QGET that stands in line at its pipe and is not yet served. -/
def State.firingWaits (s : State) (f : Firing) (opc : Nat) (n : Node) : Bool :=
  match s.frame f.tag with
  | none => false
  | some fr => match opc with
    | 0x0E0 => !fr.ended && (s.freeInsts f.tag fr).isEmpty
    | 0x0E7 => !fr.ended && !s.mayCall f.n fr
    | 0x160 | 0x161 => match s.instAt f.tag.ctx f.n f.elem f.slot with
      | none => false
      | some (g, _, i) => match g.pipes[field (im n) 11 0]? with
        | none => false
        | some p => s.alive f.tag fr && (if opc = 0x160 then p.waits.contains f.id && p.putWaits i fr.root f.id
                    else p.takes.contains (i.replica, f.id) && g.getWaits i (field (im n) 11 0) p f.id)
    | _ => false

/-- The image of its slot that a firing runs on (R51): that of the moment, or the one kept while its Emit waits. -/
def State.imageOf (s : State) (f : Firing) : Slot := if f.held.isSome then f.img else (s.elem f.n f.elem).slot f.slot

/-- Emits that wait do not hold a firing of a class up (R109): while one of class 1 to 3 waits, no other firing of class 1 to 3
starts, and a firing whose own Emit waits goes on when that Emit takes an entry. -/
def State.emitsLet (s : State) (f : Firing) (c : Nat) : Bool :=
  let e := s.elem f.n f.elem
  match f.held with
  | some h => e.emitsNow (s.keepsZero f.n f.elem) h.cls && e.roomFor (s.keepsZero f.n f.elem) h.cls h.need
  | none => c == 0 || !(e.emitq.any (·.tok.cls != 0) || e.ready.any fun g => match g.held with | some h => h.cls != 0 | none => false)

/-- Jet multiplications of FPOWN where a_0 is ±0 (R176). -/
def pownSteps (n : Nat) : Nat := (Ser.lowBits n).length + ((Ser.lowBits n).filter (·)).length

/-- Series steps of element `e` at result order `k` (R177); 0 where the firing takes the time of the plain instruction. -/
def Fire.series (x : Fire) (k e : Nat) : Nat :=
  let sq := (k + 1) * (k + 2) / 2
  let p := x.argI32 1 e
  if x.opc = 0x0BA then
    if p = 0 then 0 else if 0 < p ∧ (x.port 0).elem x.n.fmt.size 0 e % 2 ^ (fbits x.n.fmt - 1) = 0 then pownSteps p.toNat * sq else sq
  else if [0x072, 0x073, 0x074, 0x075, 0x076, 0x077, 0x0B0, 0x0B1, 0x0B2, 0x0B3].contains x.opc then sq
  else if 0x0B4 ≤ x.opc ∧ x.opc ≤ 0x0B9 then (k + 1) * (k + 2)
  else if [0x019, 0x070, 0x071, 0x078, 0x079, 0x07A, 0x07B, 0x07E, 0x07F, 0x082, 0x083, 0x0A0].contains x.opc then k + 1
  else 0

/-- Cycles for which a firing occupies its element (R177). -/
def Fire.cycles (x : Fire) : Nat :=
  let n := x.f.len
  let jets := (x.f.inputs.filter fun t => t.jet != 0 && x.dataPorts.contains t.port.toNat).map (·.jet.toNat)
  let k := if x.n.lane = .jet ∧ !jets.isEmpty then jets.foldl min x.capK else 0
  let lanes := 64 / max x.n.fmt.size 4
  let w := if k = 0 then 0 else (List.range n).foldl (fun a e => a + x.series k e) 0
  let f := 16 / max x.n.fmt.size 4
  let c0 := if x.opc = 0x077 ∨ (0x0B0 ≤ x.opc ∧ x.opc ≤ 0x0BA) then (n + f - 1) / f else 0
  max 1 (c0 + (w + lanes - 1) / lanes)

/-- Whether an element may start a firing now: free of the last one (R177, R323), not halted (R353), not held up by a waiting Emit (R109), an MAE below its 32
outstanding firings with four kept for class 0 (R253, R324), the MXA free (R229), nothing to wait for in its slot. -/
def State.mayStart (s : State) (f : Firing) : Bool :=
  let e := s.elem f.n f.elem
  let c := s.firingClass f
  (e.busy ≤ s.cycle || f.held.isSome) && e.halted.isNone && (s.ctx f.tag.ctx).state != .destroyed && s.emitsLet f c &&
  match (s.imageOf f).info, (s.imageOf f).instr with
  | some (opc, _, n), some _ =>
    (!isRequest opc || s.outstanding f.n f.elem < (if c = 0 then 32 else 28)) && !s.mxaBusy f opc n && !s.firingWaits f opc n
  | _, _ => false

/-- The order of R323 between two ready firings: class, age, slot, first iteration in window order. -/
def State.sooner (s : State) (a b : Firing) : Bool :=
  let x := s.firingClass a
  let y := s.firingClass b
  x < y || (x == y && (a.ready < b.ready || (a.ready == b.ready && (a.slot < b.slot ||
    (a.slot == b.slot && a.tag.sameKey b.tag && iterBefore a.tag.iter b.tag.iter)))))

/-- The firing that an element starts next. -/
def State.nextFiring (s : State) (n elem : Nat) : Option Firing :=
  leastBy s.sooner ((s.elem n elem).ready.filter s.mayStart)

/-- Load a matched set (R51): the firing reads the slot's image of this moment. The element notes it for its trace (R446) and
for its stop record (R354), and how long the firing occupies it (R177). -/
def State.load (s : State) (f : Firing) : State :=
  let e := s.elem f.n f.elem
  let img := s.imageOf f
  let kidx := match s.instAt f.tag.ctx f.n f.elem f.slot with | some (_, _, i) => i.kernel | none => 0
  let w0 := BitVec.ofNat 64 (img.nodeid.toNat * 2 ^ 46 + kidx * 2 ^ 34)
  let busy := s.cycle + (match img.info with
    | some (opc, _, nd) => Fire.cycles { f := f, n := nd, opc := opc, cap := s.capture f nd }
    | none => 1)
  let e := { e with ready := e.ready.filter (·.id != f.id), started := Assoc.set 0 e.started f.slot f.id }
  let e := if f.held.isSome then e
    else { e with busy := busy, firedAt := some (s.cycle, w0, BitVec.ofNat 64 (f.tag.bits * 65536)) }
  let s := s.setElem f.n f.elem e
  let s := if s.firingClass f = 0 ∧ f.counted = false then s.count f.tag.ctx f.n f.elem 0x0B 1 else s
  { s with firing := some { f with img := img, counted := true } }

/-- Instructions that do more than emit and raise exceptions: with Emits that wait they wait whole. -/
def actsElsewhere (opc : Nat) : Bool := (0x0E0 ≤ opc && opc < 0x100) || (0x160 ≤ opc && opc < 0x1A0)

/-- No effect of a firing is visible before its last Emit (R8). A firing whose one Emit waits is had when that Emit takes its
entry, so the state stays as it was, with the firing's captures and image kept (R51, R352); so is one with several Emits that acts
elsewhere too. Of any other with several Emits, what other firings could see is kept back. `s` is the state before it, `t` the
state it left. -/
def State.holdBack (s t : State) (f : Firing) : State :=
  let e := t.elem f.n f.elem
  let mine := (e.out ++ e.emitq).filter fun o => s.fresh ≤ o.id
  match (e.emitq.filter fun o => s.fresh ≤ o.id).head?, (s.imageOf f).info with
  | some o, some (opc, _, n) =>
    if mine.length = 1 ∨ (actsElsewhere opc ∧ mine.length ≤ 14) then
      let h : Held := { cap := s.capture f n, cls := o.tok.cls.toNat, dest := (o.dests.headD (0, 0, 0)).1, need := mine.length }
      let keep (g : Firing) : Firing := { g with held := some h, img := s.imageOf f }
      s.modElem f.n f.elem fun e => { e with ready := updFirst (·.id == f.id) keep e.ready }
    else s.lastEmit t f ((s.elem f.n f.elem).held f)
  | _, _ => s.lastEmit t f ((s.elem f.n f.elem).held f)

end Sys2Proof.Machine
end

