-- ==== Sys2Proof/Machine/Group.lean ====
section
/-! DEFINITION. The group instructions (R326 to R329): GPRI, GINFO and LAUNCH. -/

namespace Sys2Proof.Machine

/-- GPRI (R327): a class operand outside 0 to 3 raises IV and leaves G. -/
def execGpri (n : Node) (s : State) : Host.Outcome State Fault Refusal := fire 0x165 n s false fun x s =>
  let c := x.argI32 1 0
  match x.own s with
  | none => x.emitAll s [{ out := 0, tok := x.one32 0 }]
  | some (g, _, _) =>
    if c < 0 ∨ 3 < c then x.finish s [{ out := 0, tok := x.one32 g.cls.toNat }] (flag clsIV 0)
    else
      let new := max c.toNat g.base.toNat
      let s := s.modGroup g.serial fun g => { g with cls := BitVec.ofNat 2 new }
      x.emitAll s [{ out := 0, tok := x.one32 new }]

/-- State codes of GINFO (R328). -/
def GState.code : GState → Nat
  | .declared => 0 | .placing => 1 | .resident => 2 | .running => 3 | .parked => 4 | .draining => 5 | .drained => 6 | .shelved => 7

/-- The element of a GINFO selector (R328). -/
def groupInfo (s : State) (g : Group) (k : Kernel) (i : KInst) (sel : Nat) : Nat :=
  match sel with
  | 0 => groupIdOf g.words * 2 ^ 32 + g.state.code * 2 ^ 24 + i.kernel
  | 1 => i.replica * 2 ^ 32 + k.repl * 2 ^ 24 + k.enabled.length * 2 ^ 16
  | 2 => g.base.toNat * 64 + g.cls.toNat * 16 + groupClass g k * 4 + s.effClass (some (g, k, i))
  | _ => (g.words.getD 11 0).toNat

/-- GINFO (R328). -/
def execGinfo (n : Node) (s : State) : Host.Outcome State Fault Refusal := fire 0x166 n s false fun x s =>
  x.emitAll s [{ out := 0, tok := x.one64 (match x.own s with
    | some (g, k, i) => groupInfo s g k i (im n)
    | none => 0) }]

/-- LAUNCH (R329): its records are read and accepted one after another, as the bindery has room. -/
def execLaunch (n : Node) (s : State) : Host.Outcome State Fault Refusal := fire 0x16B n s false fun x s =>
  let (id, s) := s.newId
  s.addOp { x.op s id .launch with st := .active }

/-- Words of a record, read 8 bytes at a time on P0 of a context (R314). -/
def Op.readRecord (o : Op) (s : State) (va : Nat) (k : Nat) : Except (Nat × Nat) (List Nat) × State :=
  if va % 64 != 0 then (.error (8, va), s)
  else
    let (r, s) := s.readWords o.fir.tag.ctx (coreNum (dieOf o.fir.n) 0) o.id va k []
    match r with
    | .error (7, a) => (.error (7, a), s.violate o.fir.tag.ctx false a)
    | r => (r, s)

/-- The next record of a LAUNCH (R329): it waits while the die's bindery holds 16 pending records. -/
def State.launchStep (s : State) (o : Op) : State :=
  let x := o.fire
  let b := dieOf o.fir.n
  let e := o.book
  let out (s : State) (fl : Nat) (t : Tok) : State :=
    let t := { t with tag := x.f.tag.atIter (x.f.tag.iter + BitVec.ofNat 16 e), eos := x.eos && e + 1 == x.f.len, deps := joinDeps x.deps [o.id] }
    if e + 1 = x.f.len then s.closeOp o fl fun s => x.emitAll s (out0 t)
    else if x.emitsAll s (out0 t) then x.emitAll (s.putOp { o with book := e + 1, excs := o.excs ||| fl, nums := [] }) (out0 t)
    else x.emitAll (s.dropOp o.id) (out0 t)
  if 16 ≤ (s.bind b).launches.length then s.putOp { o with nums := [] }
  else if o.nums.isEmpty then s.putOp { o with nums := [1], since := s.cycle }
  else match o.readRecord s (x.i64 0 e) 16 with
    | (.error (0, a), s) => s.stopOp o 2 (errAddr false a)
    | (.error (c, a), s) =>
      let fl := match clsOfCause c with | some k => flag k 0 | none => 0
      match verdict o.cap fl with
      | .halt h => (s.showExcs { o with excs := o.excs ||| fl }).stopOp o h (errAddr false a)
      | _ => out s fl (x.errTok c (errAddr false a))
    | (.ok ws, s) =>
      let (k, s) := s.newId
      let w0 := BitVec.ofNat 64 (ws.getD 0 0 ||| 2 ^ 41)
      let l : Launch := { serial := k, number := (s.bind b).serial, ctx := BitVec.ofNat 6 (field w0.toNat 55 50),
                          words := w0 :: (ws.drop 1).map (BitVec.ofNat 64), source := some x.f.tag.ctx }
      let num := (s.bind b).serial.toNat
      let s := s.modBind b fun y => { y with launches := y.launches ++ [l], serial := y.serial + 1 }
      out s 0 (x.one32 num)

end Sys2Proof.Machine
end

