-- ==== Sys2Proof/Machine/Codec.lean ====
section
/-! DEFINITION. How the model lays out the bodies of an image's sections 0x0004 to 0x000A, whose contents R363 names and whose
layout the manual does not give (log 8): one codec for each kind of record, its fields one after another. -/

namespace Sys2Proof.Machine

/-- How values are written as bytes, and read back from the head of a list. -/
structure Codec (α : Type) where
  put : α → List Byte
  get : List Byte → Option (α × List Byte)

/-- How the fields of a record are written one after another, up to the field that `α` still waits for. -/
structure Fields (σ α : Type) where
  put : σ → List Byte
  get : List Byte → Option (α × List Byte)

/-- A record without fields yet. -/
def Fields.of {σ α : Type} (f : α) : Fields σ α := { put := fun _ => [], get := fun b => some (f, b) }

/-- The next field of a record. -/
def Fields.fld {σ α β : Type} (r : Fields σ (β → α)) (proj : σ → β) (c : Codec β) : Fields σ α :=
  { put := fun x => r.put x ++ c.put (proj x),
    get := fun b => (r.get b).bind fun p => (c.get p.2).map fun q => (p.1 q.1, q.2) }

/-- The codec of a record all of whose fields are there. -/
def Fields.done {σ : Type} (r : Fields σ σ) : Codec σ := { put := r.put, get := r.get }

/-! ### Basic values -/

/-- A number in groups of seven bits, least significant first; bit 7 says that another follows. -/
def natPut : Nat → Nat → List Byte
  | 0, n => [BitVec.ofNat 8 (n % 128)]
  | k + 1, n => if n < 128 then [BitVec.ofNat 8 n] else BitVec.ofNat 8 (n % 128 + 128) :: natPut k (n / 128)

def natGet : List Byte → Option (Nat × List Byte)
  | [] => none
  | b :: r => if b.toNat < 128 then some (b.toNat, r) else (natGet r).map fun p => (b.toNat - 128 + 128 * p.1, p.2)

namespace Codec

def nat : Codec Nat := { put := fun n => natPut (n.log2 / 7) n, get := natGet }

/-- A type written as another. -/
def via {α β : Type} (c : Codec β) (into : α → β) (back : β → α) : Codec α :=
  { put := fun x => c.put (into x), get := fun b => (c.get b).map fun p => (back p.1, p.2) }

def bv (w : Nat) : Codec (BitVec w) := nat.via BitVec.toNat (BitVec.ofNat w)

def bool : Codec Bool := nat.via (fun b => if b then 1 else 0) (· == 1)

/-- A value of a type whose values are listed, as its place in the list. -/
def enum {α : Type} [DecidableEq α] (d : α) (l : List α) : Codec α := nat.via (fun x => l.findIdx (· == x)) (fun i => l.getD i d)

def pair {α β : Type} (a : Codec α) (b : Codec β) : Codec (α × β) :=
  { put := fun x => a.put x.1 ++ b.put x.2,
    get := fun l => (a.get l).bind fun p => (b.get p.2).map fun q => ((p.1, q.1), q.2) }

def option {α : Type} (c : Codec α) : Codec (Option α) :=
  { put := fun x => match x with | none => nat.put 0 | some v => nat.put 1 ++ c.put v,
    get := fun l => (nat.get l).bind fun p => if p.1 = 0 then some (none, p.2) else (c.get p.2).map fun q => (some q.1, q.2) }

/-- `n` values one after another. -/
def many {α : Type} (c : Codec α) : Nat → List Byte → Option (List α × List Byte)
  | 0, b => some ([], b)
  | n + 1, b => (c.get b).bind fun p => (many c n p.2).map fun q => (p.1 :: q.1, q.2)

def list {α : Type} (c : Codec α) : Codec (List α) :=
  { put := fun l => nat.put l.length ++ l.flatMap c.put, get := fun b => (nat.get b).bind fun p => many c p.1 p.2 }

/-- Bytes as they are, behind their number. -/
def raw : Codec (List Byte) :=
  { put := fun l => nat.put l.length ++ l,
    get := fun b => (nat.get b).bind fun p => if p.2.length < p.1 then none else some (p.2.take p.1, p.2.drop p.1) }

/-! ### Records -/

def fmt : Codec Fmt := enum .I [.I, .D, .S, .H, .B, .Q, .G, .X]

def rm : Codec Rm := enum .rne [.ctx, .rne, .rtz, .rup, .rdn, .rna, .sr]

def node : Codec Node :=
  (Fields.of Node.mk).fld Node.fmt fmt |>.fld Node.arity (bv 2) |>.fld Node.lane (enum .value [.value, .jet, .tile])
    |>.fld Node.tagop (enum .keep [.keep, .next, .iter, .enter, .exit, .callee, .caller]) |>.fld Node.rm rm |>.fld Node.cf bool
    |>.fld Node.cls (bv 2) |>.fld Node.immp bool |>.fld Node.mod (bv 6) |>.fld Node.imm (bv 32)
    |>.fld Node.dests (list ((Fields.of Dest.mk).fld Dest.node (bv 18) |>.fld Dest.port (bv 2)).done) |>.done

def instId : Codec InstId :=
  (Fields.of InstId.mk).fld InstId.serial nat |>.fld InstId.kernel nat |>.fld InstId.replica nat |>.done

def barId : Codec BarId :=
  (Fields.of BarId.mk).fld BarId.coll bool |>.fld BarId.ctx nat |>.fld BarId.scope nat |>.fld BarId.inst nat
    |>.fld BarId.ident nat |>.done

def tag : Codec Tag :=
  (Fields.of Tag.mk).fld Tag.ctx (bv 6) |>.fld Tag.die (bv 4) |>.fld Tag.frame (bv 14) |>.fld Tag.space (bv 8)
    |>.fld Tag.iter (bv 16) |>.done

def tok : Codec Tok :=
  (Fields.of Tok.mk).fld Tok.tag tag |>.fld Tok.fmt fmt |>.fld Tok.run (bv 5) |>.fld Tok.port (bv 2) |>.fld Tok.cls (bv 2)
    |>.fld Tok.jet (bv 3) |>.fld Tok.eos bool |>.fld Tok.data raw |>.fld Tok.deps (list nat) |>.fld Tok.span nat |>.done

def slot : Codec Slot :=
  (Fields.of Slot.mk).fld Slot.iw (bv 64) |>.fld Slot.lw (bv 64) |>.fld Slot.dest0 (bv 32) |>.fld Slot.dest1 (bv 32)
    |>.fld Slot.dest2 (bv 32) |>.fld Slot.nodeid (bv 18) |>.fld Slot.grank (bv 18) |>.fld Slot.sfmt (bv 8)
    |>.fld Slot.conv0 (bv 32) |>.fld Slot.conv1 (bv 32) |>.fld Slot.conv2 (bv 32) |>.done

def entry : Codec Entry :=
  (Fields.of Entry.mk).fld Entry.slot nat |>.fld Entry.spilled bool |>.fld Entry.seq nat |>.fld Entry.tok tok |>.done

def capture : Codec Capture :=
  (Fields.of Capture.mk).fld Capture.rm rm |>.fld Capture.exc (bv 16) |>.fld Capture.jtrap (bv 40) |>.fld Capture.cap (bv 3)
    |>.fld Capture.key (bv 64) |>.done

def held : Codec Held :=
  (Fields.of Held.mk).fld Held.cap capture |>.fld Held.cls nat |>.fld Held.dest nat |>.fld Held.need nat |>.done

def firing : Codec Firing :=
  (Fields.of Firing.mk).fld Firing.id nat |>.fld Firing.n nat |>.fld Firing.elem nat |>.fld Firing.slot nat
    |>.fld Firing.tag tag |>.fld Firing.len nat |>.fld Firing.inputs (list tok) |>.fld Firing.ready nat |>.fld Firing.promo nat
    |>.fld Firing.part nat |>.fld Firing.img slot |>.fld Firing.held (option held) |>.fld Firing.counted bool
    |>.fld Firing.seq nat |>.done

def late : Codec Late :=
  (Fields.of Late.mk).fld Late.ff (bv 8) |>.fld Late.jf (bv 40) |>.fld Late.tag tag
    |>.fld Late.slots (list (pair nat (option (bv 64)))) |>.fld Late.hold nat |>.done

def outEntry : Codec OutEntry :=
  (Fields.of OutEntry.mk).fld OutEntry.id nat |>.fld OutEntry.slot nat |>.fld OutEntry.tok tok
    |>.fld OutEntry.dests (list (pair nat (pair nat nat))) |>.fld OutEntry.sent (list nat)
    |>.fld OutEntry.late (option late) |>.done

def fold : Codec Fold :=
  (Fields.of Fold.mk).fld Fold.slot nat |>.fld Fold.tag tag |>.fld Fold.group nat |>.fld Fold.next nat
    |>.fld Fold.acc (list nat) |>.fld Fold.jet nat |>.fld Fold.err (option raw) |>.fld Fold.skip nat
    |>.fld Fold.deps (list nat) |>.done

def inst : Codec Inst :=
  (Fields.of Inst.mk).fld Inst.num nat |>.fld Inst.space nat |>.fld Inst.parent (option (pair nat nat)) |>.fld Inst.window nat
    |>.fld Inst.next (bv 16) |>.fld Inst.live (list (bv 16)) |>.fld Inst.grants nat
    |>.fld Inst.state (enum .open [.open, .full, .closing, .closed]) |>.fld Inst.opened nat |>.fld Inst.waits (list nat)
    |>.fld Inst.closer (option nat) |>.done

def frame : Codec Frame :=
  (Fields.of Frame.mk).fld Frame.owner instId |>.fld Frame.kidx nat |>.fld Frame.size nat |>.fld Frame.jord (bv 3)
    |>.fld Frame.actno (bv 16) |>.fld Frame.bookmark nat |>.fld Frame.slots (list (pair nat (option (bv 64))))
    |>.fld Frame.insts (list inst) |>.fld Frame.ret (option (pair nat (pair nat nat))) |>.fld Frame.root nat
    |>.fld Frame.counts (list (pair nat nat)) |>.fld Frame.armed (option (bv 16)) |>.fld Frame.ended bool
    |>.fld Frame.ends (list nat) |>.done

def accBlock : Codec AccBlock :=
  (Fields.of AccBlock.mk).fld AccBlock.vals (list (pair nat (bv 64)))
    |>.fld AccBlock.state (enum .allocated [.allocated, .accumulating, .complete, .draining, .drained, .poisoned])
    |>.fld AccBlock.marks (bv 32) |>.fld AccBlock.cause (bv 8) |>.fld AccBlock.drains (list nat) |>.done

/-- A core, with its frame store and its accumulator store. -/
def core : Codec Core :=
  (Fields.of Core.mk).fld Core.owner (option (bv 6)) |>.fld Core.partw (bv 32) |>.fld Core.fsize nat |>.fld Core.fcount nat
    |>.fld Core.frames (list (pair nat (option frame))) |>.fld Core.acc (list (pair nat accBlock))
    |>.fld Core.staged (list (pair nat (pair nat (pair nat nat)))) |>.fld Core.bad (list nat) |>.fld Core.shift nat
    |>.fld Core.applied (option nat) |>.fld Core.had (list (pair nat nat)) |>.done

/-- The kind of an access: 0 a read, 1 a write, 2 and up an RMW's operation. -/
def accKind : Codec AccKind :=
  nat.via (fun k => match k with | .read => 0 | .write => 1 | .rmw op => op + 2)
    fun n => if n = 0 then .read else if n = 1 then .write else .rmw (n - 2)

def accState : Codec AccState1 :=
  nat.via (fun k => match k with | .pending => 0 | .stalled => 1 | .done => 2 | .failed c => c + 3)
    fun n => if n = 0 then .pending else if n = 1 then .stalled else if n = 2 then .done else .failed (n - 3)

def access : Codec Access :=
  (Fields.of Access.mk).fld Access.e nat |>.fld Access.j nat |>.fld Access.spm bool |>.fld Access.va nat |>.fld Access.size nat
    |>.fld Access.kind accKind |>.fld Access.data raw |>.fld Access.cmp raw |>.fld Access.st accState |>.fld Access.res raw
    |>.fld Access.since nat |>.done

def tlbEntry : Codec TlbEntry :=
  (Fields.of TlbEntry.mk).fld TlbEntry.ctx nat |>.fld TlbEntry.lvl nat |>.fld TlbEntry.page nat |>.fld TlbEntry.addr nat
    |>.fld TlbEntry.pte (bv 64) |>.fld TlbEntry.gone (list (pair nat nat)) |>.done

def pin : Codec Pin :=
  (Fields.of Pin.mk).fld Pin.va nat |>.fld Pin.write bool |>.fld Pin.own nat |>.fld Pin.e tlbEntry |>.done

def pendOut : Codec PendOut :=
  (Fields.of PendOut.mk).fld PendOut.out nat |>.fld PendOut.tok tok |>.fld PendOut.paths nat |>.fld PendOut.scope nat |>.done

def opKind : Codec OpKind :=
  enum .mem [.mem, .fence, .slotRead, .grant, .close, .nqget, .barArrive, .barWait, .coll, .select, .xfer, .drain, .matrix, .ctxOp,
    .launch, .record, .pmig, .pwb, .dq, .counter, .notify, .page, .image, .remote]

def op : Codec Op :=
  (Fields.of Op.mk).fld Op.id nat |>.fld Op.kind opKind |>.fld Op.fir firing |>.fld Op.instr node |>.fld Op.opc nat
    |>.fld Op.cap capture |>.fld Op.st (enum .issued [.issued, .active, .stopped, .complete, .failed]) |>.fld Op.book nat
    |>.fld Op.accs (list access) |>.fld Op.mask (list nat) |>.fld Op.leaves (list nat) |>.fld Op.pins (list pin)
    |>.fld Op.desc raw |>.fld Op.nums (list nat) |>.fld Op.vals (list nat) |>.fld Op.pairs (list (pair nat nat))
    |>.fld Op.outs (list pendOut) |>.fld Op.flags nat |>.fld Op.excs nat |>.fld Op.deps (list nat) |>.fld Op.since nat
    |>.fld Op.fail (option (pair nat (pair nat nat))) |>.fld Op.bad (list nat) |>.fld Op.miss (option nat)
    |>.fld Op.was (list nat) |>.done

def elem : Codec Elem :=
  (Fields.of Elem.mk).fld Elem.slots (list (pair nat slot)) |>.fld Elem.eclass (bv 2) |>.fld Elem.equota (bv 9)
    |>.fld Elem.sshare (bv 32) |>.fld Elem.ctrsel0 (bv 16) |>.fld Elem.ctrsel1 (bv 16) |>.fld Elem.slotsel (bv 5)
    |>.fld Elem.conc (list entry) |>.fld Elem.ready (list firing) |>.fld Elem.out (list outEntry) |>.fld Elem.emitq (list outEntry)
    |>.fld Elem.lastC0 (option nat) |>.fld Elem.closed (list (pair nat (pair tag nat))) |>.fld Elem.folds (list fold)
    |>.fld Elem.reord (list (pair nat (pair tag (pair nat nat)))) |>.fld Elem.notes (list (pair nat (pair tag nat)))
    |>.fld Elem.halted (option nat) |>.fld Elem.stop (option (list (bv 64))) |>.fld Elem.ctr0 (bv 48) |>.fld Elem.ctr1 (bv 48)
    |>.fld Elem.armed (option (pair nat (pair nat (pair nat nat)))) |>.fld Elem.firedAt (option (pair nat (pair (bv 64) (bv 64))))
    |>.fld Elem.busy nat |>.fld Elem.traced (list (pair nat (pair (bv 64) (pair (bv 64) (bv 64))))) |>.fld Elem.cause nat
    |>.fld Elem.culprit (option op) |>.fld Elem.async bool |>.fld Elem.started (list (pair nat nat)) |>.done

def kernel : Codec Kernel :=
  (Fields.of Kernel.mk).fld Kernel.first nat |>.fld Kernel.count nat |>.fld Kernel.framesz nat
    |>.fld Kernel.spaces (list ((Fields.of SpaceRec.mk).fld SpaceRec.wlog nat |>.fld SpaceRec.parent (option nat)
      |>.fld SpaceRec.func bool).done)
    |>.fld Kernel.ports (list ((Fields.of PortRec.mk).fld PortRec.out bool |>.fld PortRec.rate nat |>.fld PortRec.pipe nat
      |>.fld PortRec.node nat |>.fld PortRec.port nat).done)
    |>.fld Kernel.exc (bv 16) |>.fld Kernel.excv bool |>.fld Kernel.cls (bv 2) |>.fld Kernel.jord (bv 3)
    |>.fld Kernel.unchecked bool |>.fld Kernel.main nat |>.fld Kernel.aff bool |>.fld Kernel.lowat nat |>.fld Kernel.hiwat nat
    |>.fld Kernel.repl nat |>.fld Kernel.enabled (list nat) |>.fld Kernel.evalAt (option nat) |>.fld Kernel.footprint nat
    |>.fld Kernel.callees nat |>.fld Kernel.maxinst nat |>.fld Kernel.dirty bool |>.done

def kinst : Codec KInst :=
  (Fields.of KInst.mk).fld KInst.kernel nat |>.fld KInst.replica nat |>.fld KInst.n nat
    |>.fld KInst.state (enum .loaded [.loaded, .placed, .resident, .firing, .parked, .draining, .drained, .evicted])
    |>.fld KInst.nodes (list (pair nat (pair nat nat))) |>.fld KInst.limit nat |>.fld KInst.fires (list (pair nat (pair nat tok)))
    |>.fld KInst.live (list nat) |>.fld KInst.actno (bv 16) |>.fld KInst.started bool |>.fld KInst.marked (list nat)
    |>.fld KInst.gotEos (list nat) |>.fld KInst.cut bool |>.fld KInst.lastCut (list (pair nat nat)) |>.fld KInst.issued (list nat)
    |>.done

def staged : Codec Staged :=
  (Fields.of Staged.mk).fld Staged.kernel nat |>.fld Staged.replica nat |>.fld Staged.frame nat |>.fld Staged.seq nat
    |>.fld Staged.tok tok |>.done

def pipe : Codec Pipe :=
  (Fields.of Pipe.mk).fld Pipe.state (enum .unbound [.unbound, .empty, .open, .full, .eosSeen, .closed]) |>.fld Pipe.cap nat
    |>.fld Pipe.prod nat |>.fld Pipe.home nat
    |>.fld Pipe.entries (list ((Fields.of PEntry.mk).fld PEntry.seq nat |>.fld PEntry.tok tok |>.fld PEntry.replica nat
      |>.fld PEntry.since nat).done)
    |>.fld Pipe.staged (list staged) |>.fld Pipe.waits (list nat) |>.fld Pipe.takes (list (pair nat nat))
    |>.fld Pipe.deps (list nat) |>.done

def gstate : Codec GState := enum .declared [.declared, .placing, .resident, .running, .parked, .draining, .drained, .shelved]

def group : Codec Group :=
  (Fields.of Group.mk).fld Group.serial nat |>.fld Group.die nat |>.fld Group.number (bv 32) |>.fld Group.ctx (bv 6)
    |>.fld Group.words (list (bv 64)) |>.fld Group.state gstate |>.fld Group.saved gstate |>.fld Group.base (bv 2)
    |>.fld Group.cls (bv 2) |>.fld Group.digest raw |>.fld Group.pool raw |>.fld Group.nodes (list (pair (bv 64) (bv 64)))
    |>.fld Group.order (list nat) |>.fld Group.convs (list (pair nat (pair nat nat))) |>.fld Group.map (list (pair nat (pair nat nat)))
    |>.fld Group.kernels (list kernel) |>.fld Group.insts (list kinst) |>.fld Group.pipes (list pipe) |>.fld Group.compl (bv 64)
    |>.fld Group.source (option (bv 6)) |>.fld Group.todo nat |>.fld Group.keys (list (list nat)) |>.done

def launch : Codec Launch :=
  (Fields.of Launch.mk).fld Launch.serial nat |>.fld Launch.number (bv 32) |>.fld Launch.ctx (bv 6)
    |>.fld Launch.words (list (bv 64)) |>.fld Launch.source (option (bv 6)) |>.done

def contrib : Codec Contrib :=
  (Fields.of Contrib.mk).fld Contrib.rank nat |>.fld Contrib.op nat |>.fld Contrib.err (option tok) |>.fld Contrib.desc nat
    |>.fld Contrib.time nat |>.done

def bar : Codec Bar :=
  (Fields.of Bar.mk).fld Bar.id barId |>.fld Bar.state (enum .idle [.idle, .gathering, .released]) |>.fld Bar.released nat
    |>.fld Bar.gens (list ((Fields.of Gen.mk).fld Gen.gen nat |>.fld Gen.party nat |>.fld Gen.count nat |>.fld Gen.deps (list nat)
      |>.fld Gen.p5 (list nat) |>.fld Gen.values (list tok) |>.fld Gen.ops (list nat) |>.fld Gen.who (list instId)).done)
    |>.fld Bar.contribs (list contrib) |>.fld Bar.first nat |>.fld Bar.later (list (pair (list contrib) nat))
    |>.fld Bar.running (list contrib) |>.fld Bar.expired (list (list contrib)) |>.fld Bar.last (option (pair nat nat)) |>.done

def arrival : Codec Arrival :=
  (Fields.of Arrival.mk).fld Arrival.id nat |>.fld Arrival.bar barId |>.fld Arrival.n nat |>.fld Arrival.op nat
    |>.fld Arrival.party nat |>.fld Arrival.p5 bool |>.fld Arrival.deps (list nat) |>.fld Arrival.value (option tok)
    |>.fld Arrival.src bool |>.fld Arrival.who (option instId) |>.fld Arrival.gen (option nat) |>.fld Arrival.via nat |>.done

def dieQueue : Codec DieQueue :=
  (Fields.of DieQueue.mk).fld DieQueue.ctx (bv 6) |>.fld DieQueue.src nat |>.fld DieQueue.dst nat |>.fld DieQueue.q nat
    |>.fld DieQueue.next nat |>.fld DieQueue.ops (list nat) |>.done

def count : Codec Count :=
  (Fields.of Count.mk).fld Count.ctx (bv 6) |>.fld Count.va nat |>.fld Count.n nat |>.fld Count.ev0 nat |>.fld Count.ev1 nat
    |>.fld Count.per nat |>.fld Count.ring nat |>.fld Count.log nat |>.fld Count.written nat |>.fld Count.drops nat
    |>.fld Count.sum0 nat |>.fld Count.sum1 nat |>.fld Count.reached nat |>.fld Count.starts (list nat)
    |>.fld Count.stops (list nat) |>.fld Count.own nat |>.fld Count.stopper (option nat)
    |>.fld Count.fail (option (pair nat nat)) |>.done

def faultRec : Codec FaultRec :=
  (Fields.of FaultRec.mk).fld FaultRec.cause (bv 16) |>.fld FaultRec.count (bv 32) |>.fld FaultRec.tag tag
    |>.fld FaultRec.node (bv 18) |>.fld FaultRec.kidx (bv 12) |>.fld FaultRec.die (bv 4) |>.fld FaultRec.core (bv 5)
    |>.fld FaultRec.elem (bv 7) |>.fld FaultRec.async bool |>.fld FaultRec.addr (bv 64) |>.fld FaultRec.imm (bv 32)
    |>.fld FaultRec.bookmark (bv 32) |>.fld FaultRec.cycle (bv 64) |>.fld FaultRec.code (bv 16) |>.fld FaultRec.arrived nat
    |>.fld FaultRec.folio raw |>.fld FaultRec.rank nat |>.fld FaultRec.serial nat |>.done

def commit : Codec Commit :=
  (Fields.of Commit.mk).fld Commit.id nat |>.fld Commit.serial nat |>.fld Commit.items (list (pair nat staged))
    |>.fld Commit.ends (list (pair nat (pair nat nat))) |>.fld Commit.deps (list nat) |>.fld Commit.armed (option (pair faultRec op)) |>.done

def mark : Codec Mark :=
  (Fields.of Mark.mk).fld Mark.id nat |>.fld Mark.serial nat |>.fld Mark.pipe nat |>.fld Mark.deps (list nat) |>.done

end Codec

end Sys2Proof.Machine
end

