-- ==== Sys2Proof/Machine/Fabric.lean ====
section
/-! DEFINITION. The fabric and tag instructions (R114 to R128). -/

namespace Sys2Proof.Machine

/-- The piece of a port over the matched range, as an output token (R95, R97). -/
def Fire.same (x : Fire) (p : Nat) : Tok := { x.port p with eos := x.eos, deps := x.deps, port := 0 }

def execPass (n : Node) (s : State) : Host.Outcome State Fault Refusal := moveData 0x001 n s fun x _ => (out0 (x.same 0), 0)

def execCopy (n : Node) (s : State) : Host.Outcome State Fault Refusal := moveData 0x002 n s fun x _ => (out0 (x.same 0), 0)

/-- Maximal stretches of a predicate (R118): offset, length and value of each. -/
def stretches (p : Nat → Bool) (len : Nat) : Nat → Nat → List (Nat × Nat × Bool)
  | 0, _ => []
  | fuel + 1, off =>
    if len ≤ off then []
    else
      let k := ((List.range (len - off)).takeWhile fun j => p (off + j) == p off).length
      (off, k, p off) :: stretches p len fuel (off + max k 1)

/-- STEER (R118). -/
def execSteer (n : Node) (s : State) : Host.Outcome State Fault Refusal := moveData 0x003 n s fun x _ =>
  ((stretches (x.pred 1) x.f.len 32 0).map fun (off, k, b) => { out := if b then 0 else 1, tok := (x.same 0).slice off k }, 0)

/-- MERGE (R119): each accepted token alone, unchanged, error tokens included. -/
def execMerge (n : Node) (s : State) : Host.Outcome State Fault Refusal := fireMove 0x004 n s true fun x s =>
  x.emitAll s (x.f.inputs.map fun t => { out := 0, tok := { t with port := 0 } })

def execGate (n : Node) (s : State) : Host.Outcome State Fault Refusal := moveData 0x005 n s fun x _ => (out0 (x.same 0), 0)

def execSync (n : Node) (s : State) : Host.Outcome State Fault Refusal := moveData 0x006 n s fun x _ =>
  ((List.range n.arity.toNat).map fun j => { out := j, tok := x.same j }, 0)

/-- CONST (R121): on a jet lane the order is the frame's JORD. -/
def execConst (n : Node) (s : State) : Host.Outcome State Fault Refusal := firePure 0x007 n s fun x s =>
  let w := nodeSize n
  let v := if bitOf (md n) 0 then leNat (x.pool s (im n) w) else immPattern n
  let k := match n.lane, s.frame x.f.tag with | .jet, some fr => fr.jord.toNat | _, _ => 0
  let es := List.replicate x.f.len (v :: List.replicate k 0)
  (out0 (x.tok n.fmt x.f.len k (planes w k es)), 0)

/-- SINK (R116): error tokens too. -/
def execSink (n : Node) (s : State) : Host.Outcome State Fault Refusal := fireMove 0x008 n s true fun _ s => s

/-- SELECT (R117): on a jet lane the least order of the data operands, a plain one counting as 0. Integer operands of unlike
widths, for which R117 gives no width, are both read at that of port 1 (DESIGN CHOICE, log 53). -/
def execSelect (n : Node) (s : State) : Host.Outcome State Fault Refusal := firePure 0x009 n s fun x _ =>
  let a := x.port 1
  let b := x.port 2
  let k := if n.lane = .jet then min (min a.jet.toNat b.jet.toNat) x.capK else 0
  let w := a.esize
  let data := (List.range (k + 1)).flatMap fun j => (List.range x.f.len).flatMap fun e =>
    leBytes w ((if x.pred 0 e then a else b).elem w j e)
  (out0 (x.tok n.fmt x.f.len k data), x.jetOff [1, 2])

def execTnext (n : Node) (s : State) : Host.Outcome State Fault Refusal := moveData 0x00A n s fun x _ =>
  let t := x.same 0
  (out0 { t with tag := t.tag.atIter (t.tag.iter + BitVec.ofNat 16 (im n)) }, 0)

/-- RETAG (R120): the fields come from port 1's element for the first iteration; a DIE of 8 to 15 is the FMT fault of R9. -/
def execRetag (n : Node) (s : State) : Host.Outcome State Fault Refusal := fire 0x00B n s false fun x s =>
  let g := Tag.ofBits (x.i64 1 0 / 65536)
  let t := x.capped.same 0
  let tag : Tag := { t.tag with
    die := if bitOf (md n) 3 then g.die else t.tag.die,
    frame := if bitOf (md n) 2 then g.frame else t.tag.frame,
    space := if bitOf (md n) 1 then g.space else t.tag.space,
    iter := if bitOf (md n) 0 then g.iter else t.tag.iter }
  if 8 ≤ tag.die.toNat then x.fault s 0x000D else x.finish s (out0 { t with tag := tag }) x.jetFlag

/-- TGET (R116). -/
def execTget (n : Node) (s : State) : Host.Outcome State Fault Refusal := firePure 0x00C n s fun x _ =>
  x.plainMap .I 8 0 fun k => ((x.f.tag.atIter (x.f.tag.iter + BitVec.ofNat 16 k)).bits * 65536, 0)

/-- TSET (R116). -/
def execTset (n : Node) (s : State) : Host.Outcome State Fault Refusal := moveData 0x00D n s fun x _ =>
  let t := x.same 0
  let tag := match field (md n) 1 0 with
    | 0 => t.tag.atIter (BitVec.ofNat 16 (im n))
    | 1 => { t.tag with space := BitVec.ofNat 8 (im n) }
    | _ => { t.tag with frame := BitVec.ofNat 14 (im n) }
  (out0 { t with tag := tag }, 0)

/-- SPLIT (R122). -/
def execSplit (n : Node) (s : State) : Host.Outcome State Fault Refusal := moveData 0x00E n s fun x _ =>
  let k := field (md n) 4 0 + 1
  let t := x.same 0
  ((List.range ((t.len + k - 1) / k)).map fun i => { out := 0, tok := t.slice (i * k) (min k (t.len - i * k)) }, 0)

/-- The elements of a gathered block, in order, as (token, index) pairs. -/
def gathered (ts : List Tok) : List (Tok × Nat) := ts.flatMap fun t => (List.range t.len).map fun k => (t, k)

/-- JOIN (R123): the block as one token. On a jet lane its order is the least among the jets joined, and a plain element is a
constant jet (R169). Where its tokens differ in format or element size, the manual gives no one header: the token that names
them is free (log 11). -/
def execJoin (n : Node) (s : State) : Host.Outcome State Fault Refusal := fireMove 0x00F n s false fun x s =>
  let (i, s) := s.choice (max x.f.inputs.length 1)
  let t := (x.f.inputs[i]?).getD {}
  let w := t.esize
  let jets := (x.f.inputs.map (·.jet.toNat)).filter (· != 0)
  let k := if n.lane = .jet then jets.foldl min (jets.headD 0) else t.jet.toNat
  let data := (List.range (k + 1)).flatMap fun j => (gathered x.f.inputs).flatMap fun (u, e) =>
    leBytes w (if j ≤ u.jet.toNat then u.elem w j e else 0)
  x.finish s (out0 (x.tok t.fmt x.f.len k data)) 0

/-- BCAST (R124). -/
def execBcast (n : Node) (s : State) : Host.Outcome State Fault Refusal := moveData 0x010 n s fun x _ =>
  let k := field (md n) 4 0 + 1
  let t := x.port 0
  let w := t.esize
  let data := (List.range t.planes).flatMap fun j => (List.range k).flatMap fun _ => leBytes w (t.elem w j 0)
  (out0 (x.tok t.fmt k t.jet.toNat data), if t.run = 0 then 0 else flag clsFMT 0)

/-! ### Folds -/

/-- One integer fold step (R127). -/
def foldInt (op w : Nat) (uns : Bool) (a b : Nat) : Nat :=
  match op with
  | 0 => (a + b) % 2 ^ w
  | 1 => a * b % 2 ^ w
  | 2 => if readInt w uns b < readInt w uns a then b else a
  | 3 => if readInt w uns a < readInt w uns b then b else a
  | 4 => a &&& b
  | 5 => a ||| b
  | _ => a ^^^ b

/-- One float fold step on coefficient lists of order `k` (R81, R127): add coefficient by coefficient, mul on plain values,
min and max of whole jets by c_0. -/
def foldFlt (S : Ser) (op k : Nat) (a b : List Nat) : Coefs :=
  match op with
  | 0 => S.add k a b
  | 1 => S.mul 0 a b
  | _ =>
    let m := minMax S.fmt (op == 3) (a.getD 0 0) (b.getD 0 0)
    (if m.2.2 = 0 then a.take (k + 1) else if m.2.2 = 1 then b.take (k + 1) else List.replicate (k + 1) (defNan S.fmt), m.2.1)

/-- The first element of a fold: a NaN becomes the default NaN, a signalling one raises IV (R70). -/
def foldStart (S : Ser) (op k : Nat) (a : List Nat) : Coefs :=
  let canon (x : Nat) : Nat := if isNanPat S.fmt x then defNan S.fmt else x
  ((a.take (k + 1)).map canon, ((List.range (k + 1)).filter fun j => (j == 0 || op == 0) && isSig S.fmt (a.getD j 0)).foldl
    (fun f j => f ||| flag clsIV j) 0)

/-- A fold step of a node; `e` is the element's index in the emitted token. -/
def Fire.foldStep (x : Fire) (tag : Tag) (k e : Nat) (acc : Option (List Nat)) (b : List Nat) : Coefs :=
  let op := field (md x.n) 2 0
  let S : Ser := { fmt := x.n.fmt, rm := x.cap.rm, draw := fun j => x.drawAt tag e j 0 }
  match acc with
  | none => if x.n.fmt = .I then (b.take 1, 0) else foldStart S op k b
  | some a =>
    if x.n.fmt = .I then ([foldInt op (intWidth x.n) (isUns x.n) (a.getD 0 0) (b.getD 0 0)], 0)
    else
      let r := foldFlt S op k a b
      (r.1.map fun c => if isNanPat x.n.fmt c then defNan x.n.fmt else c, r.2)

/-- The coefficients of element `e` of a token up to order `k`. -/
def Tok.coefs (t : Tok) (w k e : Nat) : List Nat :=
  (List.range (k + 1)).map fun j => if j ≤ t.jet.toNat then t.elem w j e else 0

/-- Every running value of a left fold in ascending order (R81): values with the flags so far. -/
def Fire.folds (x : Fire) (tag : Tag) (k : Nat) (start : Option (List Nat)) (xs : List (List Nat)) : List Coefs :=
  ((xs.zipIdx).foldl (fun (st : List Coefs × Option (List Nat) × Nat) p =>
    let r := x.foldStep tag k p.2 st.2.1 p.1
    (st.1 ++ [(r.1, st.2.2 ||| r.2)], some r.1, st.2.2 ||| r.2)) ([], start, 0)).1

/-- The order of a fold over tokens (R127): the least, capped at K. -/
def Fire.foldOrder (x : Fire) (ts : List Tok) : Nat :=
  if x.n.lane = .jet then ts.foldl (fun a t => min a t.jet.toNat) x.capK else 0

/-- Flag(FMT, 0) for a jet where K is 0, over gathered tokens (R170). -/
def Fire.jetOffAll (x : Fire) (ts : List Tok) : Nat :=
  if x.n.lane == .jet && x.capK == 0 && ts.any (·.jet != 0) then flag clsFMT 0 else 0

/-- An error token in a group absorbs every later token that the fold reaches (R93, R421): exactly one leaves, at the first
offender's tag, on every output. -/
def Fire.absorbGroup (x : Fire) (s : State) (ts : List Tok) : Option State :=
  match ts.findIdx? (·.isErr) with
  | none => none
  | some i =>
    let t := (ts[i]?).getD {}
    let k := ts.length - i - 1
    let e := { x.tok .X 1 0 (absorb k t.data) with tag := t.tag, span := x.outSpan }
    let s := s.count x.f.tag.ctx x.f.n x.f.elem 0x0E k
    some (x.emitAll s ((List.range x.outputs).map fun j => { out := j, tok := e }))

/-- The data tokens of a gathered group, without a temperature token. -/
def Fire.groupToks (x : Fire) : List Tok := x.f.inputs.filter (·.port == 0)

/-- The node folds over a group (R127). -/
def isGroup (n : Node) : Bool := bitOf (im n) 5

/-- REDUCE (R127). -/
def execReduce (n : Node) (s : State) : Host.Outcome State Fault Refusal := fire 0x011 n s true fun x s =>
  let ts := x.groupToks
  match (if isGroup n then x.absorbGroup s ts else (x.firstErr s).map (x.forward s)) with
  | some s => s
  | none =>
    let k := x.foldOrder ts
    let w := nodeSize n
    let xs := (gathered ts).map fun (t, e) => t.coefs w k e
    let rs := x.folds x.f.tag k none xs
    let r := rs.getLastD ([], 0)
    x.finish s (out0 (x.tok n.fmt 1 k (planes w k [r.1]))) (r.2 ||| x.jetOffAll ts)

/-- A group of a SCAN goes on: what is kept for its next token (R127, R290), and the group's end. An error token stands for the
iterations that it replaced (log 44). -/
def State.scanNext (s : State) (x : Fire) (t : Tok) (acc : List Nat) (jet : Nat) (err : Option (List Byte)) (deps : List Nat) : State :=
  let z := 2 ^ field (im x.n) 4 0
  let next := t.tag.iter.toNat + t.len
  let skip := if t.isErr then t.span else 0
  let fin := t.eos || x.f.part + z ≤ next + skip
  let s := s.modElem x.f.n x.f.elem fun e =>
    let fs := e.folds.filter fun f => !(f.slot == x.f.slot && f.tag.sameKey t.tag && f.group == x.f.part)
    if fin then ({ e with folds := fs }).close x.f.slot t.tag x.f.part
    else { e with folds := { slot := x.f.slot, tag := t.tag.atIter 0, group := x.f.part, next := next, acc := acc, jet := jet,
                             err := err, skip := skip, deps := deps } :: fs }
  if s.halted t.tag.ctx then s else s.rematchSlot x.f.n x.f.elem x.f.slot

/-- SCAN (R127): over a run from the token's own first element, over a group from what the group has kept. -/
def execScan (n : Node) (s : State) : Host.Outcome State Fault Refusal := fire 0x012 n s true fun x s =>
  let t := x.port 0
  let w := nodeSize n
  let held := if isGroup n then (s.elem x.f.n x.f.elem).folds.find? fun f =>
      f.slot == x.f.slot && f.tag.sameKey t.tag && f.group == x.f.part
    else none
  let deps := joinDeps x.deps (match held with | some f => f.deps | none => [])
  match (if t.isErr then some t.data else held.bind (·.err)) with
  | some data =>
    let os := out0 { x.tok .X 1 0 data with tag := t.tag, deps := deps, span := t.reach - 1 }
    if isGroup n && x.emitsAll s os then (x.emitAll s os).scanNext x t [] 0 (some data) deps else x.emitAll s os
  | none =>
    let k := min (x.foldOrder [t]) (match held with | some f => f.jet | none => 7)
    let rs := x.folds t.tag k (held.map (·.acc)) ((List.range t.len).map (t.coefs w k))
    let r := rs.getLastD ([], 0)
    let fl := r.2 ||| x.jetOffAll [t]
    let os := out0 { x.tok n.fmt t.len k (planes w k (rs.map (·.1))) with deps := deps }
    if isGroup n && !x.halts fl && x.emitsAll s os then (x.finish s os fl).scanNext x t r.1 k none deps else x.finish s os fl

/-- PERM (R125). -/
def execPerm (n : Node) (s : State) : Host.Outcome State Fault Refusal := moveData 0x013 n s fun x s =>
  let idx := x.pool s (im n) 32
  let t := x.port 0
  let w := t.esize
  let k := t.jet.toNat
  let data := (List.range (k + 1)).flatMap fun j => (List.range x.f.len).flatMap fun e =>
    let i := (idx.getD e 0).toNat
    leBytes w (if i < x.f.len then t.elem w j i else 0)
  (out0 (x.tok n.fmt x.f.len k data), 0)

def execEos (n : Node) (s : State) : Host.Outcome State Fault Refusal := moveData 0x014 n s fun x _ =>
  (out0 { x.same 0 with eos := true }, 0)

/-- ISEOS (R126). -/
def execIseos (n : Node) (s : State) : Host.Outcome State Fault Refusal := moveData 0x015 n s fun x _ =>
  let p := elems 4 ((List.range x.f.len).map fun k => ofBool (x.eos && k + 1 == x.f.len))
  ([{ out := 0, tok := x.tok .I x.f.len 0 p }, { out := 1, tok := x.same 0 }], 0)

/-- ERRT (R126): it does not forward error tokens. -/
def execErrt (n : Node) (s : State) : Host.Outcome State Fault Refusal := fireMove 0x016 n s true fun x s =>
  let t := x.port 0
  if t.isErr then
    x.finish s [{ out := 0, tok := x.one32 1 },
      { out := 1, tok := if bitOf (md n) 0 then x.tok .I 2 0 t.data else x.same 0 }] 0
  else
    x.finish s [{ out := 0, tok := x.tok .I x.f.len 0 (List.replicate (4 * x.f.len) 0) }, { out := 1, tok := x.same 0 }] 0

def execMkerr (n : Node) (s : State) : Host.Outcome State Fault Refusal := firePure 0x017 n s fun x _ =>
  (out0 (x.errTok (im n % 256) 0), 0)

/-- ITIDX (R116). -/
def execItidx (n : Node) (s : State) : Host.Outcome State Fault Refusal := firePure 0x018 n s fun x _ =>
  x.plainMap .I (intWidth n / 8) 0 fun k => ((x.f.tag.iter + BitVec.ofNat 16 k).toNat, 0)

/-- CONV (R128). -/
def execConv (n : Node) (s : State) : Host.Outcome State Fault Refusal := firePure 0x019 n s fun x _ => x.convert

end Sys2Proof.Machine
end

