-- ==== Sys2Proof/Machine/Integer.lean ====
section
/-! DEFINITION. The integer and logic instructions (R133 to R136): operands read as exact integers of their type, the exact
result reduced modulo 2^w. -/

namespace Sys2Proof.Machine

/-- An integer instruction (R134): `f` gives the exact result and its exceptions. -/
def execInt (opc : Nat) (n : Node) (s : State) (f : Int → Int → Int → Int × Nat) : Host.Outcome State Fault Refusal :=
  firePure opc n s fun x _ =>
    let w := intWidth n
    let rd (p k : Nat) : Int := readInt w (isUns n) (x.arg p k)
    x.plainMap .I (w / 8) 0 fun k => let r := f (rd 0 k) (rd 1 k) (rd 2 k); (ofInt w r.1, r.2)

/-- A logic instruction on bit patterns of `w` bits. -/
def execBits (opc : Nat) (n : Node) (s : State) (f : Nat → Nat → Nat → Nat) : Host.Outcome State Fault Refusal :=
  firePure opc n s fun x _ =>
    let w := intWidth n
    x.plainMap .I (w / 8) 0 fun k => (f w (x.arg 0 k % 2 ^ w) (x.arg 1 k % 2 ^ w) % 2 ^ w, 0)

/-- The quotient truncated toward zero. -/
def truncDiv (a b : Int) : Int := a.tdiv b

/-- IDIV with its corner cases (R135). -/
def divInt (w : Nat) (uns : Bool) (a b : Int) : Int × Nat :=
  if b = 0 then (-1, flag clsDZ 0)
  else if uns = false ∧ a = intMin w false ∧ b = -1 then (a, flag clsOF 0)
  else (truncDiv a b, 0)

/-- IREM with its corner cases (R135). -/
def remInt (w : Nat) (uns : Bool) (a b : Int) : Int × Nat :=
  if b = 0 then (a, flag clsDZ 0)
  else if uns = false ∧ a = intMin w false ∧ b = -1 then (0, flag clsOF 0)
  else (a - b * truncDiv a b, 0)

/-- A sum or difference clamped to the type's range (R133). -/
def satInt (w : Nat) (uns : Bool) (x : Int) : Int × Nat :=
  let c := clampInt w uns x
  (c.1, if c.2 then flag clsOF 0 else 0)

/-- The six conditions of ICMP (R134), and of FCMP where the operands compare (R139). -/
def cond (c : Nat) (less eq : Bool) : Bool :=
  match c with
  | 0 => eq
  | 1 => !eq
  | 2 => less
  | 3 => less || eq
  | 4 => !less && !eq
  | _ => !less

/-- Leading zero bits of a `w`-bit pattern. -/
def clzBits (w x : Nat) : Nat := w - bitLen x

/-- Trailing zero bits of a `w`-bit pattern. -/
def ctzBits (w x : Nat) : Nat := ((List.range w).takeWhile fun i => !bitOf x i).length

/-- One bits of a `w`-bit pattern. -/
def popBits (w x : Nat) : Nat := ((List.range w).filter fun i => bitOf x i).length

/-- The bit order reversed. -/
def revBits (w x : Nat) : Nat := ((List.range w).filter fun i => bitOf x i).foldl (fun a i => a + 2 ^ (w - 1 - i)) 0

def execIadd (n : Node) (s : State) : Host.Outcome State Fault Refusal := execInt 0x040 n s fun a b _ => (a + b, 0)

def execIsub (n : Node) (s : State) : Host.Outcome State Fault Refusal := execInt 0x041 n s fun a b _ => (a - b, 0)

def execImul (n : Node) (s : State) : Host.Outcome State Fault Refusal := execInt 0x042 n s fun a b _ => (a * b, 0)

/-- IMULH: bits [2w−1:w] of the exact product. -/
def execImulh (n : Node) (s : State) : Host.Outcome State Fault Refusal :=
  execInt 0x043 n s fun a b _ => (a * b / (2 ^ intWidth n : Nat), 0)

def execImad (n : Node) (s : State) : Host.Outcome State Fault Refusal := execInt 0x044 n s fun a b c => (a * b + c, 0)

def execIdiv (n : Node) (s : State) : Host.Outcome State Fault Refusal :=
  execInt 0x045 n s fun a b _ => divInt (intWidth n) (isUns n) a b

def execIrem (n : Node) (s : State) : Host.Outcome State Fault Refusal :=
  execInt 0x046 n s fun a b _ => remInt (intWidth n) (isUns n) a b

def execIneg (n : Node) (s : State) : Host.Outcome State Fault Refusal := execInt 0x047 n s fun a _ _ => (-a, 0)

def execIabs (n : Node) (s : State) : Host.Outcome State Fault Refusal := execInt 0x048 n s fun a _ _ => (a.natAbs, 0)

def execImin (n : Node) (s : State) : Host.Outcome State Fault Refusal := execInt 0x049 n s fun a b _ => (min a b, 0)

def execImax (n : Node) (s : State) : Host.Outcome State Fault Refusal := execInt 0x04A n s fun a b _ => (max a b, 0)

def execIadds (n : Node) (s : State) : Host.Outcome State Fault Refusal :=
  execInt 0x04B n s fun a b _ => satInt (intWidth n) (isUns n) (a + b)

def execIsubs (n : Node) (s : State) : Host.Outcome State Fault Refusal :=
  execInt 0x04C n s fun a b _ => satInt (intWidth n) (isUns n) (a - b)

/-- ICMP (R134): 32-bit elements of 0 or 1. -/
def execIcmp (n : Node) (s : State) : Host.Outcome State Fault Refusal := firePure 0x04D n s fun x _ =>
  let rd (p k : Nat) : Int := readInt (intWidth n) (isUns n) (x.arg p k)
  x.plainMap .I 4 0 fun k => (ofBool (cond (field (md n) 2 0) (rd 0 k < rd 1 k) (rd 0 k == rd 1 k)), 0)

/-- IDOT4 (R136): four byte products and the addend exactly, clamped under `.sat`. -/
def execIdot4 (n : Node) (s : State) : Host.Outcome State Fault Refusal := firePure 0x04E n s fun x _ =>
  let w := intWidth n
  let byte (p k i : Nat) (uns : Bool) : Int := readInt 8 uns (field ((x.port p).elem 4 0 k) (8 * i + 7) (8 * i))
  x.plainMap .I (w / 8) 0 fun k =>
    let v := (List.range 4).foldl (fun a i => a + byte 0 k i (bitOf (md n) 1) * byte 1 k i (bitOf (md n) 0))
      (toSigned w ((x.port 2).elem (w / 8) 0 k))
    let r := if bitOf (md n) 2 then satInt w false v else (v, 0)
    (ofInt w r.1, r.2)

def execIclamp (n : Node) (s : State) : Host.Outcome State Fault Refusal :=
  execInt 0x04F n s fun a b c => (min (max a b) c, 0)

def execAndw (n : Node) (s : State) : Host.Outcome State Fault Refusal := execBits 0x050 n s fun _ a b => a &&& b

def execOrw (n : Node) (s : State) : Host.Outcome State Fault Refusal := execBits 0x051 n s fun _ a b => a ||| b

def execXorw (n : Node) (s : State) : Host.Outcome State Fault Refusal := execBits 0x052 n s fun _ a b => a ^^^ b

def execNotw (n : Node) (s : State) : Host.Outcome State Fault Refusal := execBits 0x053 n s fun w a _ => 2 ^ w - 1 - a

def execAndn (n : Node) (s : State) : Host.Outcome State Fault Refusal :=
  execBits 0x054 n s fun w a b => a &&& (2 ^ w - 1 - b)

def execShl (n : Node) (s : State) : Host.Outcome State Fault Refusal := execBits 0x055 n s fun w a b => a <<< (b % w)

def execShr (n : Node) (s : State) : Host.Outcome State Fault Refusal := execBits 0x056 n s fun w a b => a >>> (b % w)

/-- SAR: sign fill. -/
def execSar (n : Node) (s : State) : Host.Outcome State Fault Refusal :=
  execBits 0x057 n s fun w a b => ofInt w (toSigned w a / (2 ^ (b % w) : Nat))

def execRotl (n : Node) (s : State) : Host.Outcome State Fault Refusal :=
  execBits 0x058 n s fun w a b => a <<< (b % w) ||| a >>> (w - b % w)

def execPopc (n : Node) (s : State) : Host.Outcome State Fault Refusal := execBits 0x059 n s fun w a _ => popBits w a

def execClz (n : Node) (s : State) : Host.Outcome State Fault Refusal := execBits 0x05A n s fun w a _ => clzBits w a

def execCtz (n : Node) (s : State) : Host.Outcome State Fault Refusal := execBits 0x05B n s fun w a _ => ctzBits w a

def execBrev (n : Node) (s : State) : Host.Outcome State Fault Refusal := execBits 0x05C n s fun w a _ => revBits w a

/-- BFX: bits [pos+len−1:pos], sign-extended unless unsigned. -/
def execBfx (n : Node) (s : State) : Host.Outcome State Fault Refusal := execBits 0x05D n s fun w a _ =>
  let pos := field (im n) 5 0
  let len := field (im n) 13 8
  ofInt w (readInt len (isUns n) (a >>> pos))

/-- BFI: bits [pos+len−1:pos] of a replaced by the low len bits of b. -/
def execBfi (n : Node) (s : State) : Host.Outcome State Fault Refusal := execBits 0x05E n s fun _ a b =>
  let pos := field (im n) 5 0
  let len := field (im n) 13 8
  a % 2 ^ pos + b % 2 ^ len * 2 ^ pos + a / 2 ^ (pos + len) * 2 ^ (pos + len)

/-- ADDR (R134): port 0 is I64, port 1 has the type of MOD[5:3]. -/
def execAddr (n : Node) (s : State) : Host.Outcome State Fault Refusal := firePure 0x05F n s fun x _ =>
  x.plainMap .I 8 0 fun k =>
    (ofInt 64 ((x.i64 0 k : Int) + readInt (intWidth n) (isUns n) (x.arg 1 k) * (2 ^ field (im n) 2 0 : Nat) + immHi n), 0)

end Sys2Proof.Machine
end

