-- ==== Sys2Proof/Machine/FloatOps.lean ====
section
/-! DEFINITION. The float instructions (R137 to R141), on plain values and on jets (R175). -/

namespace Sys2Proof.Machine

/-- A float instruction of one operand. -/
def execFlt1 (opc : Nat) (n : Node) (s : State) (f : Ser → Nat → List Nat → Coefs) : Host.Outcome State Fault Refusal :=
  firePure opc n s fun x _ => x.jetMap [0] fun S k e => f S k (x.coefs 0 e k)

/-- A float instruction of two operands. -/
def execFlt2 (opc : Nat) (n : Node) (s : State) (f : Ser → Nat → List Nat → List Nat → Coefs) :
    Host.Outcome State Fault Refusal :=
  firePure opc n s fun x _ => x.jetMap [0, 1] fun S k e => f S k (x.coefs 0 e k) (x.coefs 1 e k)

/-- A float instruction of three operands. -/
def execFlt3 (opc : Nat) (n : Node) (s : State) (f : Ser → Nat → List Nat → List Nat → List Nat → Coefs) :
    Host.Outcome State Fault Refusal :=
  firePure opc n s fun x _ => x.jetMap [0, 1, 2] fun S k e => f S k (x.coefs 0 e k) (x.coefs 1 e k) (x.coefs 2 e k)

/-- The whole operand that FMIN or FMAX selects by c_0 (R138, R175). -/
def pick (S : Ser) (mx : Bool) (k : Nat) (a b : List Nat) : Coefs :=
  let m := minMax S.fmt mx (a.getD 0 0) (b.getD 0 0)
  (if m.2.2 = 0 then a else if m.2.2 = 1 then b else List.replicate (k + 1) (defNan S.fmt), m.2.1)

/-- FCLAMP: FMIN(FMAX(a, b), c), a NaN a giving the default NaN (R138). -/
def clampFlt (S : Ser) (k : Nat) (a b c : List Nat) : Coefs :=
  let m := pick S true k a b
  let r := pick S false k m.1 c
  if isNanPat S.fmt (a.getD 0 0) then (List.replicate (k + 1) (defNan S.fmt), m.2 ||| r.2) else (r.1, m.2 ||| r.2)

/-- FABS (R175): the whole jet negated where its sign is −, then c_0's sign bit cleared. -/
def absJet (S : Ser) (a : List Nat) : List Nat := S.setSign false (if S.sigma a then S.flip a else a)

/-- FCPSGN (R175), on a cut to the order of the result: σ is the sign of those coefficients of a (DESIGN CHOICE, log 53). -/
def copySign (S : Ser) (a b : List Nat) : List Nat :=
  let sb := signOf S.fmt (b.getD 0 0)
  S.setSign sb (if S.sigma a != sb then S.flip a else a)

/-- FCMP of two patterns (R139). -/
def cmpFlt (f : Fmt) (c a b : Nat) : Nat × Nat :=
  let un := isNanPat f a || isNanPat f b
  let fl := if isSig f a || isSig f b then flag clsIV 0 else 0
  let o := cmpX (valueOf f a) (valueOf f b)
  (ofBool (if c = 6 then un else if c = 7 then !un else if un then c == 1 else cond c (o == -1) (o == 0)), fl)

/-- FCLASS of a pattern (R139): the bit that is set. -/
def classBit (f : Fmt) (a : Nat) : Nat :=
  let sg := signOf f a
  if isNanPat f a then (if isSig f a then 0 else 1)
  else if isInfPat f a then (if sg then 2 else 9)
  else
    let m := a % 2 ^ (fbits f - 1)
    if m = 0 then (if sg then 5 else 6)
    else if m < 2 ^ fracBits f then (if sg then 4 else 7)
    else (if sg then 3 else 8)

/-- FGETX of a pattern (R140). -/
def getExp (f : Fmt) (a : Nat) : Int × Nat :=
  match valueOf f a with
  | .nan | .inf _ => (2 ^ 31 - 1, flag clsIV 0)
  | .num _ m e _ => if m = 0 then (-(2 ^ 31), flag clsIV 0) else ((bitLen m : Int) - 1 + e, 0)

def execFadd (n : Node) (s : State) : Host.Outcome State Fault Refusal := execFlt2 0x070 n s Ser.add

def execFsub (n : Node) (s : State) : Host.Outcome State Fault Refusal := execFlt2 0x071 n s Ser.sub

def execFmul (n : Node) (s : State) : Host.Outcome State Fault Refusal := execFlt2 0x072 n s Ser.mul

def execFfma (n : Node) (s : State) : Host.Outcome State Fault Refusal := execFlt3 0x073 n s Ser.fma

def execFdiv (n : Node) (s : State) : Host.Outcome State Fault Refusal := execFlt2 0x074 n s Ser.div

def execFsqrt (n : Node) (s : State) : Host.Outcome State Fault Refusal := execFlt1 0x075 n s Ser.sqrt

def execFrcp (n : Node) (s : State) : Host.Outcome State Fault Refusal := execFlt1 0x076 n s Ser.rcp

def execFrsq (n : Node) (s : State) : Host.Outcome State Fault Refusal := execFlt1 0x077 n s Ser.rsqrt

def execFmin (n : Node) (s : State) : Host.Outcome State Fault Refusal := execFlt2 0x078 n s fun S => pick S false

def execFmax (n : Node) (s : State) : Host.Outcome State Fault Refusal := execFlt2 0x079 n s fun S => pick S true

def execFabs (n : Node) (s : State) : Host.Outcome State Fault Refusal := execFlt1 0x07A n s fun S _ a => (absJet S a, 0)

def execFneg (n : Node) (s : State) : Host.Outcome State Fault Refusal := execFlt1 0x07B n s fun S _ a => (S.flip a, 0)

/-- FCMP (R139): c_0 only on jets. -/
def execFcmp (n : Node) (s : State) : Host.Outcome State Fault Refusal := firePure 0x07C n s fun x _ =>
  x.plainMap .I 4 (x.jetOff [0, 1]) fun e => cmpFlt n.fmt (field (md n) 2 0) (x.arg 0 e) (x.arg 1 e)

/-- FCLASS (R139): c_0 only on jets. -/
def execFclass (n : Node) (s : State) : Host.Outcome State Fault Refusal := firePure 0x07D n s fun x _ =>
  x.plainMap .I 4 (x.jetOff [0]) fun e => (2 ^ classBit n.fmt (x.arg 0 e), 0)

/-- FRND (R140): on jets c_1 and above become +0. -/
def execFrnd (n : Node) (s : State) : Host.Outcome State Fault Refusal := execFlt1 0x07E n s fun S k a =>
  let r := S.rint (bitOf (md n) 0) (a.getD 0 0)
  (r.1 :: List.replicate k 0, r.2)

/-- FSCALE (R140): port 1 is I32, or IMM as a signed number. -/
def execFscale (n : Node) (s : State) : Host.Outcome State Fault Refusal := firePure 0x07F n s fun x _ =>
  x.jetMap [0] fun S k e => S.scale k (x.coefs 0 e k) (x.argI32 1 e)

/-- FGETX (R140). -/
def execFgetx (n : Node) (s : State) : Host.Outcome State Fault Refusal := firePure 0x080 n s fun x _ =>
  x.plainMap .I 4 0 fun e => let r := getExp n.fmt (x.arg 0 e); (ofInt 32 r.1, r.2)

/-- FDOT2 (R141): two exact products of 16-bit pairs and a binary32 addend, rounded once. -/
def execFdot2 (n : Node) (s : State) : Host.Outcome State Fault Refusal := firePure 0x081 n s fun x _ =>
  x.plainMap .S 4 0 fun e =>
    let half (p i : Nat) : FP := opnd n.fmt (field ((x.port p).elem 4 0 e) (16 * i + 15) (16 * i))
    let a := mulP (half 0 0) (half 1 0)
    let b := mulP (half 0 1) (half 1 1)
    let c := opnd .S ((x.port 2).elem 4 0 e)
    let infs := [a.1, b.1, c.1]
    let clash : Bool := infs.contains (.inf true) && infs.contains (.inf false)
    let fl := a.2 ||| b.2 ||| c.2 ||| (if clash then 1 else 0)
    if fl % 2 = 1 then (defNan .S, flag clsIV 0)
    else
      let zero (v : XV) : Bool := match v with | .num _ 0 _ _ => true | _ => false
      let neg (v : XV) : Bool := v.sign
      let sum := addP x.cap.rm (addP x.cap.rm a b) c
      let allZero := infs.all zero
      let v : XV := if allZero then
          .num (if x.cap.rm == .rdn then infs.any neg else infs.all neg) 0 0 false
        else match sum.1 with
          | .num _ 0 _ _ => .num (x.cap.rm == .rdn) 0 0 false
          | y => y
      roundX .S x.cap.rm (x.drawAt x.f.tag e 0 0) v

def execFcpsgn (n : Node) (s : State) : Host.Outcome State Fault Refusal := execFlt2 0x082 n s fun S _ a b => (copySign S a b, 0)

def execFclamp (n : Node) (s : State) : Host.Outcome State Fault Refusal := execFlt3 0x083 n s clampFlt

end Sys2Proof.Machine
end

