-- ==== Sys2Proof/Machine/SpecialOps.lean ====
section
/-! DEFINITION. The special-function instructions (R150, R151) with their series (R176), and RNG (R154). -/

namespace Sys2Proof.Machine

def execFexp (n : Node) (s : State) : Host.Outcome State Fault Refusal := execFlt1 0x0B0 n s fun S => S.special .exp

def execFexp2 (n : Node) (s : State) : Host.Outcome State Fault Refusal := execFlt1 0x0B1 n s fun S => S.special .exp2

def execFlog (n : Node) (s : State) : Host.Outcome State Fault Refusal := execFlt1 0x0B2 n s fun S => S.special .log

def execFlog2 (n : Node) (s : State) : Host.Outcome State Fault Refusal := execFlt1 0x0B3 n s fun S => S.special .log2

def execFsin (n : Node) (s : State) : Host.Outcome State Fault Refusal := execFlt1 0x0B4 n s fun S => S.special .sin

def execFcos (n : Node) (s : State) : Host.Outcome State Fault Refusal := execFlt1 0x0B5 n s fun S => S.special .cos

def execFtanh (n : Node) (s : State) : Host.Outcome State Fault Refusal := execFlt1 0x0B6 n s fun S => S.special .tanh

def execFsigm (n : Node) (s : State) : Host.Outcome State Fault Refusal := execFlt1 0x0B7 n s fun S => S.special .sigm

def execFerf (n : Node) (s : State) : Host.Outcome State Fault Refusal := execFlt1 0x0B8 n s fun S => S.special .erf

def execFatan (n : Node) (s : State) : Host.Outcome State Fault Refusal := execFlt1 0x0B9 n s fun S => S.special .atan

/-- FPOWN: the exponent is I32 from port 1 or IMM, never a jet (R150, R176). -/
def execFpown (n : Node) (s : State) : Host.Outcome State Fault Refusal := firePure 0x0BA n s fun x _ =>
  x.jetMap [0] fun S k e => S.pown k (x.coefs 0 e k) (x.argI32 1 e)

/-- One element of RNG from its draw (R154). -/
def rngElem (n : Node) (x : Nat) : Nat :=
  match n.fmt with
  | .I => if intWidth n = 64 then x else x >>> 32
  | .D => (roundX .D .rne 0 (.num false (x >>> 11) (-53) false)).1
  | _ => (roundX .S .rne 0 (.num false (x >>> 40) (-24) false)).1

/-- RNG (R154): stream 0, salt IMM[7:0]. -/
def execRng (n : Node) (s : State) : Host.Outcome State Fault Refusal := firePure 0x1A4 n s fun x _ =>
  x.plainMap n.fmt (nodeSize n) 0 fun k =>
    (rngElem n (draw64 x.cap.key.toNat x.f.tag.bits x.f.img.nodeid.toNat k 0 0 (field (im n) 7 0) 0), 0)

end Sys2Proof.Machine
end

