-- ==== Sys2Proof/Machine/Select.lean ====
section
/-! DEFINITION. Selection and sampling (R155 to R164): the order of R157, the temperature cases and passes of R160, TOPK and
SAMPLE over rows in memory, SMAXT and ARGMX over groups, CMPR and EXPD. -/

namespace Sys2Proof.Machine

/-! ### The order of R157 and the computation of R160 -/

/-- Float pattern `a` ranks above `b`: +∞ through the finite values to −∞, every NaN below. -/
def ranksAbove (f : Fmt) (a b : Nat) : Bool :=
  if isNanPat f a then false else if isNanPat f b then true else cmpX (valueOf f a) (valueOf f b) == 1

/-- (a, i) stands before (b, j) under ≺ (R157). -/
def precedes (f : Fmt) (a : Nat × Nat) (b : Nat × Nat) : Bool :=
  ranksAbove f a.1 b.1 || (!ranksAbove f b.1 a.1 && a.2 < b.2)

/-- Insert a pair under ≺. -/
def insertPair (f : Fmt) (p : Nat × Nat) : List (Nat × Nat) → List (Nat × Nat)
  | [] => [p]
  | q :: r => if precedes f p q then p :: q :: r else q :: insertPair f p r

/-- A row element in binary64; a NaN becomes the default NaN. -/
def toD (f : Fmt) (x : Nat) : Nat := (roundX .D .rne 0 (valueOf f x)).1

/-- The cases of a temperature in the order of R160: NaN, near zero, negative, +∞, finite. -/
inductive Temp where
  | nan | greedy | negative | infinite | finite
  deriving DecidableEq, Repr

/-- The case of a temperature pattern. -/
def tempOf (f : Fmt) (t : Nat) : Temp :=
  match valueOf f t with
  | .nan => .nan
  | .inf s => if s then .negative else .infinite
  | .num s m e _ => if m = 0 ∨ (bitLen m : Int) - 1 + e < -126 then .greedy else if s then .negative else .finite

/-- A temperature that gives TEMP, and whether it raises IV. -/
def tempBad (f : Fmt) (t : Nat) : Option Bool :=
  match tempOf f t with
  | .nan => some (isSig f t)
  | .negative => some true
  | _ => none

/-- What a sampler keeps: the best pair (index plus one) or the greatest finite logit and what was seen (bit 0 a finite one,
bit 1 +∞), the sum S, the last positive index plus one, the sum P, the index found plus one, and the greatest finite logit read so far
(R438), as its pattern plus one. -/
structure Sampler where
  best : Nat := 0
  idx  : Nat := 0
  seen : Nat := 0
  sum  : Nat := 0
  last : Nat := 0
  part : Nat := 0
  hit  : Nat := 0
  top  : Nat := 0
  deriving DecidableEq, Repr

def Sampler.list (a : Sampler) : List Nat := [a.best, a.idx, a.seen, a.sum, a.last, a.part, a.hit, a.top]

def Sampler.ofList (l : List Nat) : Sampler :=
  { best := l.getD 0 0, idx := l.getD 1 0, seen := l.getD 2 0, sum := l.getD 3 0, last := l.getD 4 0, part := l.getD 5 0,
    hit := l.getD 6 0, top := l.getD 7 0 }

/-- A finite binary64 pattern. -/
def finiteD (x : Nat) : Bool := !isNanPat .D x && !isInfPat .D x

/-- Sum of two binary64 patterns. -/
def addD (a b : Nat) : Nat := (roundP .D .rne 0 (addP .rne (valueOf .D a, 0) (valueOf .D b, 0))).1

/-- exp((l − m) / t) in binary64 (R160). -/
def expWeight (t : XV) (m l : Nat) : Nat :=
  let d := (roundP .D .rne 0 (divP (addP .rne (valueOf .D l, 0) ((valueOf .D m).neg, 0)) (t, 0))).1
  (special .exp .D .rne 0 d).1

/-- The weight of a logit (R160). -/
def Sampler.weight (a : Sampler) (c : Temp) (t : XV) (l : Nat) : Nat :=
  if c = .infinite then (if finiteD l then oneOf .D else 0)
  else if bitOf a.seen 1 then (if valueOf .D l == .inf false then oneOf .D else 0)
  else if finiteD l then expWeight t a.best l else 0

/-- One logit in pass 0: the first pair under ≺, or the greatest finite logit. -/
def Sampler.pass0 (a : Sampler) (c : Temp) (i l : Nat) : Sampler :=
  if c = .greedy then (if a.idx = 0 || precedes .D (l, i) (a.best, a.idx - 1) then { a with best := l, idx := i + 1 } else a)
  else if valueOf .D l == .inf false then { a with seen := a.seen ||| 2 }
  else if finiteD l then
    (if !bitOf a.seen 0 || ranksAbove .D l a.best then { a with best := l, seen := a.seen ||| 1 } else a)
  else a

/-- One logit in pass 1. -/
def Sampler.pass1 (a : Sampler) (c : Temp) (t : XV) (i l : Nat) : Sampler :=
  let w := a.weight c t l
  { a with sum := addD a.sum w, last := if w = 0 then a.last else i + 1 }

/-- One logit in pass 2, against T. -/
def Sampler.pass2 (a : Sampler) (c : Temp) (t : XV) (T i l : Nat) : Sampler :=
  if a.hit ≠ 0 then a
  else
    let w := a.weight c t l
    let p := addD a.part w
    { a with part := p, hit := if w ≠ 0 ∧ cmpX (valueOf .D p) (valueOf .D T) = 1 then i + 1 else 0 }

/-- T = Round(D, u × S, RTZ) with the draw's upper 53 bits. -/
def sampleT (draw S : Nat) : Nat := (roundP .D .rtz 0 (mulP (.num false (draw >>> 11) (-53) false, 0) (valueOf .D S, 0))).1

/-- Note a logit that has been read. -/
def Sampler.note (a : Sampler) (l : Nat) : Sampler :=
  if finiteD l ∧ (a.top = 0 ∨ ranksAbove .D l (a.top - 1)) then { a with top := l + 1 } else a

/-- Take a granule of logits into a pass. -/
def Sampler.take (a : Sampler) (c : Temp) (t : XV) (pass T : Nat) (ls : List (Nat × Nat)) : Sampler :=
  ls.foldl (fun (a : Sampler) p =>
    let a := a.note p.2
    if pass = 0 then a.pass0 c p.1 p.2 else if pass = 1 then a.pass1 c t p.1 p.2 else a.pass2 c t T p.1 p.2) a

/-- After a pass: the next pass, or the index that is the result (R160). -/
def Sampler.after (a : Sampler) (c : Temp) (pass : Nat) : Except Nat Nat :=
  if pass = 0 then (if c = .greedy then .error (a.idx - 1) else .ok 1)
  else if pass = 1 then (if a.sum = 0 then .error 0xFFFF_FFFF else .ok 2)
  else .error (if a.hit ≠ 0 then a.hit - 1 else a.last - 1)

/-- The first pass a temperature needs. -/
def firstPass (c : Temp) : Nat := if c = .infinite then 1 else 0

/-! ### TOPK and SAMPLE (R155 to R160) -/

def execTopk (n : Node) (s : State) : Host.Outcome State Fault Refusal := fire 0x1A2 n s false fun x s =>
  let (id, s) := s.newId
  s.addOp { x.op s id .select with st := .active, desc := x.pool s (im n) 8 }

/-- Elements of a row, its format, K and space in a selection descriptor (R155). -/
def selN (d : Nat) : Nat := field d 24 0
def selFmt (d : Nat) : Fmt := Fmt.ofCode (field d 34 32)
def selK (d : Nat) : Nat := field d 46 40
def selSpm (d : Nat) : Bool := bitOf d 35

/-- Row, pass and granule of a bookmark (R158, R159). -/
def selRow (o : Op) : Nat := field o.book 22 18
def selPass (o : Op) : Nat := field o.book 24 23
def selGran (o : Op) : Nat := field o.book 17 0

/-- Granules of a row. -/
def selGrans (d : Nat) : Nat := (selN d + 63) / 64

/-- What marks a TOPK that has inserted every granule of its row and writes its records; it stands above the bookmark's 32 bits,
whose 18 bits for granules cannot name 2^18 of them (log 48). -/
def selWrites : Nat := 2 ^ 32

def selWriting (o : Op) : Bool := selWrites ≤ o.book

/-- The pairs that a TOPK holds. -/
def heldPairs : List Nat → List (Nat × Nat)
  | v :: i :: r => (v, i) :: heldPairs r
  | _ => []

/-- Accesses of the current unit: the elements of a granule, or the two words of each record. -/
def selTasks (o : Op) : Nat :=
  let d := wordAt o.desc 0
  if selWriting o then o.vals.length else min 64 (selN d - 64 * selGran o)

/-- One access of the unit. -/
def selReq (o : Op) (k : Nat) : Req :=
  let d := wordAt o.desc 0
  let r : Req := { ctx := o.fir.tag.ctx, n := o.fir.n, iss := .core o.fir.n, path := 0, spm := selSpm d, va := 0, size := 8, kind := .read }
  if selWriting o then
    { r with va := (o.fire.i64 1 (selRow o) + 8 * k) % 2 ^ 64, kind := .write,
             data := leBytes 8 (if k % 2 = 0 then o.vals.getD k 0 else o.vals.getD k 0 % 2 ^ 32) }
  else
    let w := (selFmt d).size
    { r with va := (o.fire.i64 0 (selRow o) + (64 * selGran o + k) * w) % 2 ^ 64, size := w }

/-- The temperature of a row. -/
def selTemp (o : Op) (row : Nat) : Nat := (o.fire.port 1).elem (nodeSize o.instr) 0 row

/-- A row's result as one number: an index or count, or a failure with its cause and address. -/
def rowOk (v : Nat) : Nat := 2 * v
def rowFail (cause addr : Nat) : Nat := 2 * (addr * 256 + cause) + 1

/-- The output tokens for a firing's rows: maximal runs of results, and an error token for each failed row. -/
def rowToks (x : Fire) : Nat → Nat → List Nat → List Tok
  | 0, _, _ => []
  | _, _, [] => []
  | fuel + 1, e, r :: rs =>
    let tag := x.f.tag.atIter (x.f.tag.iter + BitVec.ofNat 16 e)
    if r % 2 = 1 then
      { x.errTok (r / 2 % 256) (r / 512) with tag := tag, eos := x.eos && rs.isEmpty } :: rowToks x fuel (e + 1) rs
    else
      let run := (r :: rs).takeWhile (· % 2 == 0)
      let rest := (r :: rs).drop run.length
      { x.tok .I run.length 0 (elems 4 (run.map (· / 2))) with tag := tag, eos := x.eos && rest.isEmpty } ::
        rowToks x fuel (e + run.length) rest

/-- The end of a TOPK or SAMPLE: its results, one TEMP error token (R160), or what IV's disposition makes of it. Where a row
failed, the ordering output carries the error token of the first that did (R156, R259). -/
def State.endSelect (s : State) (o : Op) : State :=
  let x := o.fire
  let temps := if o.opc = 0x1A3 then (List.range x.f.len).filterMap fun e => tempBad o.instr.fmt (selTemp o e) else []
  let iv := temps.any id || (o.opc == 0x1A3 && o.nums.contains (rowOk 0xFFFF_FFFF))
  let fl := if iv then flag clsIV 0 else 0
  let o := { o with excs := o.excs ||| fl }
  let ord := match o.nums.find? (· % 2 == 1) with
    | some r => (x.ordOuts 0).map fun p => { p with tok := x.errTok (r / 2 % 256) (r / 512) }
    | none => x.ordOuts 0
  let give (ts : List Tok) : State := s.complete o (ts.map plainOut ++ ord)
  match verdict o.cap fl with
  | .halt c => x.fault ((s.showExcs o).dropOp o.id) c 0 true 0 o.book
  | v =>
    if !temps.isEmpty then give [x.errTok 0x0A 0]
    else match v with
      | .token c => s.complete o (x.failOuts c 0)
      | _ => give (rowToks x 33 0 o.nums)

/-- The bookmark of a row's first granule of a pass. -/
def selBook (pass row gran : Nat) : Nat := pass * 2 ^ 23 + row * 2 ^ 18 + gran

/-- Start row `row`: a SAMPLE row whose temperature gives TEMP reads nothing; after the last row the firing ends. -/
def State.startRow (s : State) : Nat → Op → Nat → State
  | 0, o, _ => s.endSelect o
  | fuel + 1, o, row =>
    if o.fir.len ≤ row then s.endSelect o
    else
      let t := selTemp o row
      if o.opc = 0x1A3 ∧ (tempBad o.instr.fmt t).isSome then
        s.startRow fuel { o with nums := o.nums ++ [rowOk 0] } (row + 1)
      else
        let pass := if o.opc = 0x1A3 then firstPass (tempOf o.instr.fmt t) else 0
        s.putOp { o with book := selBook pass row 0, vals := if o.opc = 0x1A3 then Sampler.list {} else [], pairs := [],
                         bad := [], mask := [], fail := none, flags := 0, since := s.cycle }

/-- A row is over. -/
def State.endRow (s : State) (o : Op) (r : Nat) : State :=
  s.startRow 33 { o with nums := o.nums ++ [r] } (selRow o + 1)

/-- A pass or the records of a row failed: the row's error; its flags are visible with the firing's last Emit (R8). -/
def State.failRow (s : State) (o : Op) : State :=
  let (_, c, a) := o.fail.getD (0, 0, 0)
  s.endRow { o with excs := o.excs ||| o.flags } (rowFail c a)

/-- T of a SAMPLE row. -/
def selT (o : Op) (a : Sampler) : Nat :=
  sampleT (draw64 o.cap.key.toNat o.fir.tag.bits o.fir.img.nodeid.toNat (selRow o) 0 2 0 0) a.sum

/-- The unit is over: granule inserted, pass ended, or records written. -/
def State.endGranule (s : State) (o : Op) : State :=
  let d := wordAt o.desc 0
  let halts := match verdict o.cap o.flags with | .halt c => some c | _ => none
  match o.fail, halts with
  | some (_, _, a), some c => (s.showExcs { o with excs := o.excs ||| o.flags }).stopOp o c a
  | _, _ =>
    if selWriting o then
      if o.fail.isSome then s.failRow o else s.endRow o (rowOk (o.vals.length / 2))
    else
      let ls := (List.range (selTasks o)).filterMap fun k =>
        (o.pairs.find? (·.1 == k)).map fun p => (64 * selGran o + k, toD (selFmt d) p.2)
      let last := selGran o + 1 == selGrans d
      let next : Op := { o with book := if selGran o + 1 < 2 ^ 18 then o.book + 1 else o.book, pairs := [], bad := [], mask := [],
                                since := s.cycle }
      if o.opc = 0x1A2 then
        let best := (ls.foldl (fun b p => (insertPair .D (p.2, p.1) b).take (selK d)) (heldPairs o.vals))
        let next := { next with vals := best.flatMap fun p => [p.1, p.2] }
        if !last then s.putOp next
        else if o.fail.isSome then s.failRow next else s.putOp { next with book := next.book + selWrites }
      else
        let t := selTemp o (selRow o)
        let c := tempOf o.instr.fmt t
        let a := Sampler.ofList o.vals
        let a := a.take c (valueOf o.instr.fmt t) (selPass o) (selT o a) ls
        let next := { next with vals := a.list }
        if a.hit ≠ 0 ∧ o.fail.isNone then s.endRow { next with book := o.book } (rowOk (a.hit - 1))
        else if !last then s.putOp next
        else if o.fail.isSome then s.failRow { next with book := o.book }
        else match a.after c (selPass o) with
          | .ok p => s.putOp { next with book := selBook p (selRow o) 0 }
          | .error r => s.endRow { next with book := o.book } (rowOk r)

/-- SAMPLE (R159, R160). -/
def execSample (n : Node) (s : State) : Host.Outcome State Fault Refusal := fire 0x1A3 n s false fun x s =>
  let (id, s) := s.newId
  let o : Op := { x.op s id .select with st := .active, desc := x.pool s (im n) 8 }
  (s.addOp o).startRow 33 o 0

/-- Perform access `k` of the current unit and note what became of it. -/
def Op.selTry (o : Op) (s : State) (k : Nat) : Op × State :=
  if selTasks o ≤ k || o.bad.contains k || o.mask.contains k then (o, s)
  else
    let r := selReq o k
    let bad16 := selWriting o && o.fire.i64 1 (selRow o) % 16 != 0
    let (m, o, s) := if bad16 then (MemRes.fail 8 false, o, s) else o.access s r
    match m with
    | .ok b => ({ o with mask := insertNat k o.mask, pairs := if selWriting o then [] else o.pairs ++ [(k, leNat b)] }, s)
    | .stall => (o, s)
    | .fail 0 _ => ({ o with miss := some (o.miss.getD (errAddr r.spm r.va)) }, s)
    | .fail c _ => ({ (o.failing (64 * selGran o + k) c (errAddr r.spm r.va)) with bad := insertNat k o.bad }, s)

/-- Perform one access of the current unit (R156). One without translation lets the others of the unit be performed, and then
stops the selection (R259, R353). -/
def State.selectStep (s : State) (o : Op) (k : Nat) : State :=
  if selTasks o ≤ k || o.bad.contains k || o.mask.contains k then s
  else
    let (o, s) := o.selTry s k
    let (o, s) := if o.miss.isNone then (o, s)
      else (List.range (selTasks o)).foldl (fun (st : Op × State) j => st.1.selTry st.2 j) ({ o with miss := none }, s)
    match o.miss with
    | some a => s.stopOp o 2 a
    | none => if o.mask.length + o.bad.length = selTasks o then s.endGranule o else s.putOp o

/-! ### SMAXT and ARGMX (R161, R162) -/

/-- The temperature of an SMAXT: IMM under ARITY 1, else port 1. -/
def Fire.smaxTemp (x : Fire) : Nat := if x.n.immp then immPattern x.n else (x.port 1).elem (nodeSize x.n) 0 0

/-- Unnormalised values of a group: for each logit the numerator and the common divisor S, both binary64, or none where the
quotient is 0/0. -/
def softmax (f : Fmt) (t : Nat) (ls : List Nat) : List Nat × Nat :=
  let c := tempOf f t
  let ps := (ls.map (toD f)).zipIdx.map fun p => (p.2, p.1)
  let a := ({} : Sampler).take c (valueOf f t) 0 0 ps
  let ws := ps.map fun p => if c = .greedy then (if p.1 + 1 = a.idx then oneOf .D else 0) else a.weight c (valueOf f t) p.2
  (ws, ws.foldl addD 0)

/-- SMAXT (R161): one output token for each input token. -/
def execSmaxt (n : Node) (s : State) : Host.Outcome State Fault Refusal := fire 0x1A5 n s true fun x s =>
  let ts := x.groupToks
  match (x.absorbGroup s ts).orElse fun _ => (x.firstErr s).map (x.forward s) with
  | some s => s
  | none =>
    let t := x.smaxTemp
    let w := nodeSize n
    let ls := ts.flatMap fun p => (List.range p.len).map (p.elem w 0)
    let fin (s : State) (fl : Nat) (make : Tok → Nat → Tok) : State :=
      let outs := (ts.foldl (fun (st : List Out × Nat) p => (st.1 ++ [{ out := 0, tok := make p st.2 }], st.2 + p.len)) ([], 0)).1
      let s := s.setFlags x.f.tag.ctx x.cap false fl
      match verdict x.cap fl with
      | .halt c => x.fault s c
      | .token c => if (tempBad n.fmt t).isSome then x.emitAll s outs else x.emitAll s (x.errOuts c 0)
      | .go => x.emitAll s outs
    let like (p : Tok) (d : List Byte) : Tok := { x.tok n.fmt p.len 0 d with tag := p.tag, eos := p.eos }
    match tempBad n.fmt t with
    | some iv => fin s (if iv then flag clsIV 0 else 0) fun p _ => { x.errTok 0x0A 0 with tag := p.tag, eos := p.eos, span := p.len - 1 }
    | none =>
      let nan (iv : Bool) : State := fin s (if iv then flag clsIV 0 else 0) fun p _ =>
        like p (elems w (List.replicate p.len (defNan n.fmt)))
      if ls.any (isNanPat n.fmt) then nan (ls.any (isSig n.fmt))
      else
        let (ws, S) := softmax n.fmt t ls
        if S = 0 then nan true
        else
          let rs := ts.foldl (fun (acc : List (Nat × Nat)) p => acc ++ (List.range p.len).map fun k =>
            roundP n.fmt x.cap.rm (x.drawAt p.tag k 0 0) (divP (valueOf .D (ws.getD (acc.length + k) 0), 0) (valueOf .D S, 0))) []
          fin s (rs.foldl (fun a r => a ||| r.2) 0) fun p off => like p (elems w (((rs.drop off).take p.len).map (·.1)))

/-- One element stands before another under ≺, in the node's type (R162). -/
def argBefore (n : Node) (a b : Nat) : Bool :=
  if n.fmt = .I then readInt (intWidth n) (isUns n) b < readInt (intWidth n) (isUns n) a else ranksAbove n.fmt a b

/-- ARGMX (R162). -/
def execArgmx (n : Node) (s : State) : Host.Outcome State Fault Refusal := fire 0x1A6 n s true fun x s =>
  let ts := x.groupToks
  match (if isGroup n then x.absorbGroup s ts else (x.firstErr s).map (x.forward s)) with
  | some s => s
  | none =>
    let w := nodeSize n
    let es := (ts.flatMap fun p => (List.range p.len).map (p.elem w 0)).zipIdx
    let best := es.foldl (fun (b : Nat × Nat) e => if argBefore n e.1 b.1 then e else b) (es.headD (0, 0))
    let v := if n.fmt != .I && isNanPat n.fmt best.1 then defNan n.fmt else best.1
    x.emitAll s [{ out := 0, tok := x.one32 best.2 }, { out := 1, tok := x.tok n.fmt 1 0 (leBytes w v) }]

/-! ### CMPR and EXPD (R163, R164) -/

/-- CMPR (R163): a granted token, or frame slots. -/
def execCmpr (n : Node) (s : State) : Host.Outcome State Fault Refusal := fire 0x1A0 n s false fun x s =>
  let sel := x.selected
  if !bitOf (md n) 0 then
    if sel.isEmpty then x.emitAll s [{ out := 1, tok := x.one32 0 }] else (x.request s sel.length 0 true).1
  else match x.frame? s with
    | none => x.stranded s
    | some f =>
      match f.writeSlots ((List.range x.f.len).map fun k => (im n + k, BitVec.ofNat 64 (sel.getD k 0))) with
      | none => x.fault s 0x0006
      | some f' => x.emitAll (s.modFrame x.f.tag fun _ => f') [{ out := 1, tok := x.one32 sel.length }]

/-- EXPD (R164). -/
def execExpd (n : Node) (s : State) : Host.Outcome State Fault Refusal := fire 0x1A1 n s false fun x s =>
  let mask := x.port 0
  let data := (x.port? 1).getD { data := [] }
  let want := (List.range mask.len).filter (x.pred 0)
  let has := if (x.port? 1).isSome then data.len else 0
  let w := nodeSize n
  let vs := (List.range mask.len).map fun k =>
    if x.pred 0 k then (let i := (want.filter (· < k)).length; if i < has then data.elem w 0 i else 0) else 0
  x.finish s [{ out := 0, tok := x.tok n.fmt mask.len 0 (elems w vs) }]
    (if want.isEmpty || want.length == has then 0 else flag clsFMT 0)

end Sys2Proof.Machine
end

