-- ==== Sys2Proof/Machine/Barrier.lean ====
section
/-! DEFINITION. Barriers (R330 to R339): arrivals, generations, releases, BARA, BARW and BART; the collective engine and COLL
(R340 to R344). -/

namespace Sys2Proof.Machine

/-! ### Instances -/

def State.bar (s : State) (b : BarId) : Bar := (s.bars.find? (·.id == b)).getD { id := b }

/-- The state of an instance from what it holds (R335). -/
def Bar.refresh (b : Bar) : Bar :=
  { b with state := if b.gens.any (fun g => g.count == g.party) || !b.running.isEmpty || !b.expired.isEmpty then .released
                    else if b.gens.isEmpty && b.contribs.isEmpty then .idle else .gathering }

def State.putBar (s : State) (b : Bar) : State := { s with bars := s.bars.filter (·.id != b.id) ++ [b.refresh] }

/-- Every path but P5 (R293), and P5 where it is named. -/
def barPaths (p5 : Bool) : Nat := 95 + (if p5 then 32 else 0)

/-- Every access that an arrival depends on has reached a scope (R293); entries of die copy queues are performed. -/
def State.certifies (s : State) (deps : List Nat) (p5 : Bool) (scope : Nat) : Bool :=
  deps.all fun d => s.reached d 127 (barPaths p5) scope && !s.ops.any fun q => q.id == d && q.kind == .dq

/-- The barrier a firing names. -/
def Fire.bar (x : Fire) : BarId := barOf x.f.tag.ctx.toNat x.f.n (field (md x.n) 2 0) (field (im x.n) 3 0) false

/-- N of an arrival. -/
def Fire.party (x : Fire) : Nat := field (im x.n) 31 8 + 1

/-- Send an arrival up the tree: its operation waits for the root (R331, R337). -/
def Fire.arriveAt (x : Fire) (s : State) (b : BarId) (kind : OpKind) (value : Option Tok) (desc : List Byte) : State :=
  let (id, s) := s.newId
  let (aid, s) := s.newId
  let s := s.addOp { x.op s id kind with st := .active, desc := desc }
  let a : Arrival := { id := aid, bar := b, n := x.f.n, op := id, party := x.party, p5 := !b.coll && bitOf (md x.n) 3,
                       deps := s.live x.deps, value := value, src := value.isSome,
                       who := (x.own s).map fun (g, _, i) => { serial := g.serial, kernel := i.kernel, replica := i.replica } }
  { s with arrivals := s.arrivals ++ [a] }

/-- BARA (R337): one arrival; the ticket follows when the root has numbered it. -/
def execBara (n : Node) (s : State) : Host.Outcome State Fault Refusal := fire 0x167 n s true fun x s =>
  x.arriveAt s x.bar .barArrive none []

/-- BART (R339): one arrival that waits for its generation. -/
def execBart (n : Node) (s : State) : Host.Outcome State Fault Refusal := fire 0x169 n s true fun x s =>
  let t := x.port 0
  x.arriveAt s x.bar .barArrive (if bitOf (md n) 4 then some (if t.isErr then t else t.slice 0 1) else none) []

/-- A ticket's generation counts as released (R338). -/
def ticketDone (released ticket : Nat) : Bool :=
  let d := (released + 2 ^ 32 - ticket % 2 ^ 32) % 2 ^ 32
  1 ≤ d && d ≤ 2 ^ 31

/-- BARW (R338): the ticket goes on once its generation is released. -/
def execBarw (n : Node) (s : State) : Host.Outcome State Fault Refusal := fire 0x168 n s false fun x s =>
  let g := (x.port 0).elem 4 0 0
  if ticketDone (s.bar x.bar).released g && !s.halted x.f.tag.ctx then x.emitAll s [{ out := 0, tok := x.one32 g }]
  else
    let (id, s) := s.newId
    s.addOp { x.op s id .barWait with st := .active, nums := [g] }

/-! ### Generations (R331 to R335) -/

/-- Wake a BARW whose ticket counts as released (R338). -/
def State.wakeBarw (s : State) (o : Op) : State :=
  let g := o.nums.getD 0 0
  if o.kind == .barWait && ticketDone (s.bar o.fire.bar).released g && !s.halted o.fir.tag.ctx then
    s.closeOp o 0 fun s => o.fire.emitAll s (out0 (o.fire.one32 g))
  else s

/-- Count an arrival into the generation being formed: the state, and its generation. -/
def Bar.count (b : Bar) (a : Arrival) : Bar × Nat :=
  let add (g : Gen) : Gen := { g with
    count := g.count + 1, deps := joinDeps g.deps a.deps, p5 := if a.p5 then joinDeps g.p5 a.deps else g.p5, ops := g.ops ++ [a.op],
    values := g.values ++ a.value.toList, who := g.who ++ a.who.toList }
  match b.gens.getLast? with
  | some g =>
    if g.count < g.party then ({ b with gens := b.gens.dropLast ++ [add g] }, g.gen)
    else
      let k := b.released + b.gens.length
      ({ b with gens := b.gens ++ [add { gen := k, party := a.party, count := 0, deps := [], p5 := [], values := [], ops := [], who := [] }] }, k)
  | none =>
    ({ b with gens := [add { gen := b.released, party := a.party, count := 0, deps := [], p5 := [], values := [], ops := [], who := [] }] }, b.released)

/-- N of the generation that the next arrival joins. -/
def Bar.forming (b : Bar) : Option Nat := b.gens.getLast?.bind fun g => if g.count < g.party then some g.party else none

/-- An arrival may be numbered now (R331): none from a later core has been numbered in this cycle. -/
def Bar.inTurn (b : Bar) (a : Arrival) (cycle : Nat) : Bool :=
  match b.last with
  | some (t, n) => t != cycle || n ≤ a.n
  | none => true

/-- A barrier arrival reaches the root and is numbered; one with another N raises FMT at its own firing (R332). -/
def State.number (s : State) (a : Arrival) : State :=
  let b := { s.bar a.bar with last := some (s.cycle, a.n) }
  let differs := match b.forming with | some p => p != a.party | none => false
  let drop (s : State) : State := { s with arrivals := s.arrivals.filter (·.id != a.id) }
  match s.findOp a.op with
  | some o =>
    let v := if differs then verdict o.cap (flag clsFMT 0) else .go
    match v with
    | .halt _ => (drop s).failClose o clsFMT
    | _ =>
      let (b, g) := b.count a
      let s := (s.putBar b).putOp { o with flags := if differs then flag clsFMT 0 else 0 }
      if o.opc = 0x167 then { s with arrivals := s.arrivals.map fun y => if y.id == a.id then { y with gen := some g } else y }
      else drop s
  | none => if a.op = 0 then drop (s.putBar (b.count a).1) else drop s

/-- TICKET_RETURN (R337). -/
def execTicketReturn (arrival : Nat) (s : State) : Host.Outcome State Fault Refusal :=
  .next (match s.arrivals.find? (fun a => a.id == arrival && a.gen.isSome) with
    | none => s
    | some a =>
      if s.halted (BitVec.ofNat 6 a.bar.ctx) then s
      else
        let s := { s with arrivals := s.arrivals.filter (·.id != arrival) }
        match s.findOp a.op, a.gen with
        | some o, some g =>
          let x := o.fire
          s.closeOp o o.flags fun s => match x.firstErr s with
            | some e => x.forward s e
            | none => x.ends s [{ out := 0, tok := x.one32 (g % 2 ^ 32) }] o.flags
        | _, _ => s)

/-- What a BART emits when its generation is released (R334, R339). -/
def State.bartOut (s : State) (g : Gen) (o : Op) : State :=
  let x := o.fire
  match g.values with
  | [v] => s.closeOp o o.flags fun s =>
    match (if bitOf (md o.instr) 4 then none else x.firstErr s) with
    | some e => x.forward s e
    | none =>
      let deps := joinDeps x.deps v.deps
      if v.isErr then x.ends s [{ out := 0, tok := { x.forwardTok v with deps := deps } }] o.flags
      else x.ends s [{ out := 0, tok := { x.tok o.instr.fmt 1 0 v.data with deps := deps } }] o.flags
  | _ => s.closeOp o (o.flags ||| flag clsFMT 0) fun s => x.failEnds s clsFMT 0

/-- DELIVERED (R333, R335): the oldest complete generation is certified and its release wakes its waiters. -/
def execDelivered (bar : BarId) (s : State) : Host.Outcome State Fault Refusal :=
  .next (let b := s.bar bar
    match b.gens with
    | [] => s
    | g :: rest =>
      if g.count != g.party || !s.certifies g.deps false bar.scope || !s.certifies g.p5 true bar.scope || s.halted (BitVec.ofNat 6 bar.ctx) then s
      else
        let s := s.putBar { b with released := b.released + 1, gens := rest }
        let s := g.ops.foldl (fun (s : State) id => match s.findOp id with
          | some o => if o.opc = 0x169 then s.bartOut g o else s
          | none => s) s
        (s.ops.filter fun o => o.kind == .barWait && o.fire.bar == bar).foldl State.wakeBarw s)

/-! ### Collectives (R340 to R344) -/

/-- Fields of a collective descriptor (R342). -/
def collFmt (d : Nat) : Fmt := Fmt.ofCode (field d 60 58)
def collParts (d : Nat) : Nat := field d 51 46 + 1
def collCount (d : Nat) : Nat := field d 24 0 + 1
def collTmo (d : Nat) : Nat := field d 41 32 * 65536
def collSize (d : Nat) : Nat := if collFmt d = .I then 2 ^ field d 57 56 else (collFmt d).size

/-- COLL (R344): a contribution on its way to the engine; a longer run raises FMT and contributes element 0 (R343). -/
def execColl (n : Node) (s : State) : Host.Outcome State Fault Refusal := fire 0x16A n s true fun x s =>
  let desc := x.pool s (im n) 8
  x.arriveAt s (barOf x.f.tag.ctx.toNat x.f.n (md n) (field (leNat desc) 45 42) true) .coll none desc

/-- The rank that stands for one that an error token hides: more than 32 bits hold. -/
def hiddenRank : Nat := 2 ^ 32

/-- The rank of a contribution (R343). -/
def collRank (o : Op) : Nat := if (o.fire.port 2).isErr then hiddenRank else (o.fire.port 2).elem 4 0 0

/-- The contribution that governs a use (R343): rank 0's, or one whose rank an error token hides. -/
def collLead (cs : List Contrib) : Option Contrib := (cs.find? (·.rank == 0)).orElse fun _ => cs.find? (·.rank == hiddenRank)

/-- The descriptor by which a use goes: that of its lead, until that came of the first contribution. -/
def collDesc (cs : List Contrib) : Option Nat := ((collLead cs).orElse fun _ => cs.head?).map (·.desc)

/-- Every rank of a use has contributed (R340). -/
def collFull (cs : List Contrib) : Bool := match collLead cs with | some c => collParts c.desc ≤ cs.length | none => false

/-- The uses that form, oldest first, each with the cycle of its first contribution. -/
def Bar.uses (b : Bar) : List (List Contrib × Nat) := if b.contribs.isEmpty then [] else (b.contribs, b.first) :: b.later

def Bar.setUses (b : Bar) (us : List (List Contrib × Nat)) : Bar :=
  match us with
  | [] => { b with contribs := [], later := [] }
  | (cs, t) :: r => { b with contribs := cs, first := t, later := r }

/-- The contributor mask (R340). -/
def collMask (cs : List Contrib) : Nat := cs.foldl (fun a c => if c.rank < 64 then a ||| 2 ^ c.rank else a) 0

/-- A contribution that is not counted (R343). -/
def State.refuseContrib (s : State) (op : Nat) : State :=
  match s.findOp op with
  | some o => s.failClose o clsFMT
  | none => s

/-- A use whose ranks have all contributed starts to run when the one before it has ended (R335). -/
def State.startColl (s : State) (bar : BarId) : State :=
  let b := s.bar bar
  if collFull b.contribs && b.running.isEmpty && b.expired.isEmpty then s.putBar { b.setUses b.later with running := b.contribs } else s

/-- A contribution as it reaches the engine; of two error inputs R93's graph order names the offender. -/
def State.contribOf (s : State) (a : Arrival) : Option Contrib :=
  if a.op = 0 then some { rank := a.party % 2 ^ 32, op := 0, err := a.value, desc := a.party / 2 ^ 32, time := s.cycle }
  else (s.findOp a.op).map fun o =>
    { rank := collRank o, op := o.id, err := o.fire.firstErr s, desc := leNat o.desc, time := s.cycle }

/-- A contribution joins the use that forms, or begins the next (R335, R341, R343). -/
def State.contribute (s : State) (a : Arrival) : State :=
  let s := { s with arrivals := s.arrivals.filter (·.id != a.id) }
  match s.contribOf a with
  | none => s
  | some c =>
    let b := s.bar a.bar
    let (before, cur, first) : List (List Contrib × Nat) × List Contrib × Nat := match b.uses.getLast? with
      | some (cs, t) => if collFull cs then (b.uses, [], s.cycle) else (b.uses.dropLast, cs, t)
      | none => ([], [], s.cycle)
    let other (x : Contrib) : Bool := x.desc != c.desc
    let bad := (c.rank != hiddenRank && collParts c.desc ≤ c.rank) || cur.any (fun x => x.rank == c.rank && c.rank != hiddenRank) ||
      (match cur.find? (·.rank == 0) with | some x => other x | none => false)
    if bad then s.refuseContrib c.op
    else
      let kept := cur.filter fun x => !(c.rank == 0 && other x)
      let s := s.putBar (b.setUses (before ++ [(kept ++ [c], if kept.isEmpty then s.cycle else first)]))
      ((if c.rank = 0 then cur.filter other else []).foldl (fun (s : State) x => s.refuseContrib x.op) s).startColl a.bar

/-- A signal of another package's firing at a barrier or collective of a pod job comes in (R413): by a Strand port that works and that
stands among the routes of the configuration blob (log 56). -/
def State.farArrival (s : State) (a : Arrival) : State :=
  if a.op = 0 ∧ a.bar.scope = 4 ∧ a.gen.isNone ∧ a.via < 16 ∧ (s.link (32 + a.via)).state.works ∧ s.plat.routes.any (·.2 == a.via) then
    { s with arrivals := s.arrivals ++ [a] }
  else s

/-- ARRIVE (R331): a barrier arrival is numbered in its turn, a contribution is taken. -/
def execArrive (arrival : Nat) (s : State) : Host.Outcome State Fault Refusal :=
  .next (match s.arrivals.find? (fun a => a.id == arrival && a.gen.isNone) with
    | none => s
    | some a => if a.bar.coll then s.contribute a else if (s.bar a.bar).inTurn a s.cycle then s.number a else s)

/-- Elements that a use goes through: of the result for all but SAMPLESHARD, of the row for it. -/
def collElems (d : Nat) : Nat := if collOp d = 2 ∨ collOp d = 4 then collParts d * collCount d else collCount d

/-- The sources of element `i`: rank and index (R344). -/
def collSrcs (d i : Nat) : List (Nat × Nat) :=
  match collOp d with
  | 1 => [(0, i)]
  | 2 | 4 => [(i / collCount d, i % collCount d)]
  | _ => (List.range (collParts d)).map fun r => (r, i)

/-- The destinations of element `i`. -/
def collDsts (d i : Nat) : List (Nat × Nat) :=
  match collOp d with
  | 3 => let p := collCount d / collParts d; [(i / p, i % p)]
  | 4 => []
  | _ => (List.range (collParts d)).map fun r => (r, i)

/-- Granules completed of the pass: that of a SAMPLESHARD stands above bit 24; the others have one pass. -/
def collDone (o : Op) : Nat := if collOp (leNat o.desc) = 4 then field o.book 23 0 else o.book

/-- Elements of the granule in progress. -/
def collGranule (o : Op) : List Nat :=
  let d := leNat o.desc
  let g := 64 * collDone o
  (List.range (min 64 (collElems d - g))).map (g + ·)

/-- Tasks of a granule: its reads (rank, index), then its writes (element, rank, index). -/
def collReads (o : Op) : List (Nat × Nat) := (collGranule o).flatMap (collSrcs (leNat o.desc))
def collWrites (o : Op) : List (Nat × Nat × Nat) := (collGranule o).flatMap fun i => (collDsts (leNat o.desc) i).map fun q => (i, q)

/-- The operation that stands for the use that runs: rank 0's, or where another package holds that the first one here. -/
def State.leadOp (s : State) (b : Bar) : Option Op :=
  ((b.running.find? fun c => c.rank == 0 && c.op != 0).orElse fun _ => b.running.find? (·.op != 0)).bind fun c => s.findOp c.op

/-- Another package holds rank 0 of the use that runs. -/
def Bar.ledAfar (b : Bar) : Bool := b.running.any fun c => c.rank == 0 && c.op == 0

/-- The address of an element of a rank: its source base on port 0, its destination base on port 1. -/
def collAddr (p : Op) (d : Nat) (dst : Bool) (i : Nat) : Nat :=
  ((p.fire.port (if dst then 1 else 0)).elem 8 0 0 + i * collSize d) % 2 ^ 64

/-- The value of element `i` from its sources, with the flags of its steps (R344). -/
def collFold (d : Nat) (vs : List Nat) : Nat × Nat :=
  let f := collFmt d
  let w := 8 * collSize d
  let two (a b : Nat) : Nat × Nat :=
    match field d 55 53 with
    | 0 => if f = .I then ((a + b) % 2 ^ w, 0) else roundP f .rne 0 (addP .rne (opnd f a) (opnd f b))
    | k =>
      if f = .I then (if (if k = 1 then toSigned w b < toSigned w a else toSigned w a < toSigned w b) then (b, 0) else (a, 0))
      else let m := minMax f (k != 1) a b; (m.1, m.2.1)
  match vs with
  | [] => (0, 0)
  | [v] => if f = .I ∨ collOp d = 1 ∨ collOp d = 2 then (v, 0) else roundP f .rne 0 (opnd f v)
  | v :: r => r.foldl (fun (a : Nat × Nat) b => let x := two a.1 b; (x.1, a.2 ||| x.2)) (v, 0)

/-- Order of failures: the lowest rank, then the lowest element index (R340). -/
def collIdx (r i : Nat) : Nat := r * 2 ^ 32 + i

/-- The temperature of a SAMPLESHARD: rank 0's. -/
def collTemp (o : Op) : Nat := (o.fire.port 1).elem (nodeSize o.instr) 0 0

/-- T of a SAMPLESHARD (R344): the draw is keyed by the tag of rank 0's output, before TAGOP (R152). -/
def collT (o : Op) (a : Sampler) : Nat :=
  sampleT (draw64 o.cap.key.toNat o.fir.tag.bits o.fir.img.nodeid.toNat 0 0 2 0 0) a.sum

/-- The granule is over: the next one, the next pass of a SAMPLESHARD, or the end of the use. -/
def State.collGranuleEnd (s : State) (o : Op) : State :=
  let d := leNat o.desc
  let next : Op := { o with book := o.book + 1, pairs := [], bad := [], mask := [], since := s.cycle }
  let last := collElems d ≤ 64 * (collDone o + 1)
  if collOp d != 4 then s.putOp (if last then { next with st := .complete } else next)
  else
    let t := collTemp o
    let c := tempOf o.instr.fmt t
    let pass := field o.book 25 24
    let ls := (collGranule o).filterMap fun i => (o.pairs.find? (·.1 == i)).map fun p => (i, toD (collFmt d) p.2)
    let a := Sampler.ofList o.vals
    let a := a.take c (valueOf o.instr.fmt t) pass (collT o a) ls
    let next := { next with vals := a.list }
    let fin (r : Nat) : State := s.putOp { next with st := .complete, nums := [r], book := o.book }
    if o.fail.isSome then (if last then fin 0 else s.putOp next)
    else if a.hit ≠ 0 then fin (a.hit - 1)
    else if !last then s.putOp next
    else match a.after c pass with
      | .ok p => s.putOp { next with book := p * 2 ^ 24 }
      | .error r => fin r

/-- One task of the granule: a read, or a write whose sources are read. A missing translation is noted. -/
def State.collTask (s : State) (b : Bar) (o : Op) (k : Nat) : Op × State :=
  let d := leNat o.desc
  let rs := collReads o
  if o.mask.contains k || o.bad.contains k then (o, s)
  else
    let acc (r i : Nat) (dst : Bool) (kind : AccKind) (data : List Byte) : Op × State × Option (List Byte) :=
      let spm := bitOf d 52
      let cross (m : MemRes) (id addr : Nat) (s : State) : Op × State × Option (List Byte) := match m with
        | .ok v => ({ o with mask := insertNat k o.mask }, s, some v)
        | .stall => (o, s, none)
        | .fail 0 _ => (if o.miss.isSome then o else { o with miss := some addr, nums := [id] }, s, none)
        | .fail c _ => ({ (o.failing (collIdx r i) c addr) with bad := insertNat k o.bad }, s, none)
      match b.running.find? (·.rank == r) with
      | none => (o, s, none)
      | some c => match s.findOp c.op with
        | none =>
          let (m, s) := s.farAccess (collSize d) (kind != .read)
          cross m 0 (leNat (freeBytes s.fresh 8)) { s with fresh := s.fresh + 8 }
        | some p =>
          let va := collAddr p d dst i
          let q : Req := { ctx := p.fir.tag.ctx, n := p.fir.n, iss := .core p.fir.n, path := 4, spm := spm, va := va,
                           size := collSize d, kind := kind, data := data }
          let (m, _, s) := p.access s q
          cross m p.id (errAddr spm va) s
    match rs[k]? with
    | some (r, i) =>
      let (o, s, v) := acc r i false .read []
      let at_ := if collOp d = 4 then r * collCount d + i else k
      (match v with | some b => { o with pairs := o.pairs ++ [(at_, leNat b)] } | none => o, s)
    | none => match (collWrites o)[k - rs.length]? with
      | none => (o, s)
      | some (i, r, j) =>
        let ks := rs.zipIdx.filterMap fun q => if (collSrcs d i).contains q.1 then some q.2 else none
        if ks.any o.bad.contains then ({ o with bad := insertNat k o.bad }, s)
        else if !ks.all o.mask.contains then (o, s)
        else
          let v := collFold d (ks.filterMap fun q => (o.pairs.find? (·.1 == q)).map (·.2))
          let (o, s, _) := acc r j true .write (leBytes (collSize d) v.1)
          ({ o with flags := o.flags ||| v.2 }, s)

/-- The running use that an operation leads. -/
def State.ledBy (s : State) (o : Op) : Option Bar :=
  s.bars.find? fun b => b.id.coll && (match s.leadOp b with
    | some p => p.id == o.id
    | none => false)

/-- A use may read: no error token came, and what its contributions depend on is visible (R340). -/
def State.collReady (s : State) (b : Bar) : Bool :=
  b.running.all fun c => match s.findOp c.op with
    | some p => s.certifies p.deps false b.id.scope
    | none => true

/-- Start of a use: one with an error token, or a SAMPLESHARD whose temperature gives TEMP, reads nothing, nor does this package
where another holds rank 0 of a SAMPLESHARD. -/
def Bar.start (b : Bar) (o : Op) : Op :=
  let d := leNat o.desc
  if b.running.any (·.err.isSome) || (collOp d == 4 && b.ledAfar) then { o with st := .complete }
  else if collOp d = 4 then
    let t := collTemp o
    if (tempBad o.instr.fmt t).isSome then { o with st := .complete }
    else { o with vals := Sampler.list {}, book := firstPass (tempOf o.instr.fmt t) * 2 ^ 24 }
  else { o with vals := [0] }

/-- Tasks of the granule, ahead of the others (`some k`) or all that are left. A missing translation stops the use once the
other tasks are done (R259). -/
def State.collUnit (s : State) (o : Op) (which : Option Nat) : State :=
  match s.ledBy o with
  | none => s
  | some b =>
    if o.st != .active || !s.collReady b then s
    else
      let o := if o.vals.isEmpty then b.start o else o
      if o.st = .complete then s.putOp o
      else
        let n := (collReads o).length + (collWrites o).length
        let ks := match which with | some k => [k] | none => List.range n
        let (o, s) := ks.foldl (fun (st : Op × State) k => st.2.collTask b st.1 k) (o, s)
        let (o, s) := if o.miss.isNone then (o, s)
          else (List.range n).foldl (fun (st : Op × State) k => st.2.collTask b st.1 k) ({ o with miss := none }, s)
        match o.miss.bind fun a => (s.findOp (o.nums.getD 0 0)).map fun p => (a, p) with
        | some (a, p) =>
          let s := s.putOp { o with st := .stopped }
          s.raise p.fir.tag.ctx 0 (faultRec s p.fir (im p.instr) o.mark 2 a true 0) (some { p with book := o.mark })
        | none => if o.mask.length + o.bad.length = n then s.collGranuleEnd o else s.putOp o

/-- Give every party of a use its outputs, each depending on what all parties did (R290): `first` is output 0; `force` keeps it
where the flags' disposition is TOKEN. A halting fault carries the address `addr` of the access that failed, and the use's
bookmark (R357, R358). -/
def State.collGive (s : State) (cs : List Contrib) (fl : Nat) (force : Bool) (addr book : Nat) (first : Fire → Tok) : State :=
  let ids := cs.foldl (fun l c => match s.findOp c.op with
    | some p => joinDeps (joinDeps l p.deps) [p.id]
    | none => l) []
  cs.foldl (fun (s : State) c => match s.findOp c.op with
    | none => s
    | some p =>
      let x := p.fire
      let mine := fl ||| (if 1 < x.f.len then flag clsFMT 0 else 0)
      let deps := joinDeps x.deps ids
      let outs : List Out := [{ out := 0, tok := { first x with deps := deps } }, { out := 1, tok := { x.one64 (collMask cs) with deps := deps } }]
      s.closeOp p mine fun s => match verdict p.cap mine with
        | .halt h => x.fault s h addr true 0 book
        | .token t => if force then x.emitAll s outs else x.emitAll s ((x.errOuts t 0).map fun u => { u with tok := { u.tok with deps := deps } })
        | .go => x.emitAll s outs) s

/-- The first offender of a use (R93): of the first error tokens to arrive, the one whose source node is first in graph order. -/
def Fire.offender (x : Fire) (s : State) (cs : List Contrib) : Option Tok :=
  let bad := cs.filter (·.err.isSome)
  let t := (bad.map (·.time)).foldl min ((bad.map (·.time)).headD 0)
  leastBy (fun a b => x.rank s (nodeIn a.data) < x.rank s (nodeIn b.data)) ((bad.filter (·.time == t)).filterMap (·.err))

/-- A SAMPLESHARD whose rank 0 another package holds: that package gives the index or TEMP, which is free here (log 11). -/
def State.collAfar (s : State) (cs : List Contrib) : State :=
  let (k, s) := s.choice 3
  if k = 0 then
    State.collGive { s with fresh := s.fresh + 4 } cs 0 false 0 0 fun x => x.tok .I 1 0 (freeBytes s.fresh 4)
  else s.collGive cs (if k = 1 then 0 else flag clsIV 0) true 0 0 fun x => x.errTok 0x0A 0

/-- The PARTIAL outcome of the oldest use that EXPIRE has ended reaches its parties (R341). -/
def State.deliverPartial (s : State) (bar : BarId) : State :=
  let b := s.bar bar
  match b.expired with
  | [] => s
  | cs :: rest => ((s.putBar { b with expired := rest }).collGive cs (flag clsPOISON 0) true 0 0 fun x => x.errTok 0x0B 0).startColl bar

/-- COLLECTIVE_END (R340, R341, R343): once every destination write is visible, every party's outputs; those of a use that has
expired. Nothing is delivered while the context is halted (R335). -/
def execCollectiveEnd (bar : BarId) (s : State) : Host.Outcome State Fault Refusal :=
  .next (let b := s.bar bar
    if !b.expired.isEmpty then (if s.halted (BitVec.ofNat 6 bar.ctx) then s else s.deliverPartial bar)
    else match s.leadOp b with
    | none => s
    | some o =>
      if o.st != .complete || s.halted (BitVec.ofNat 6 bar.ctx) ||
        !(b.running.all fun c => s.reached c.op 127 95 bar.scope) then s
      else
        let d := leNat o.desc
        let cs := b.running
        let s := s.putBar { b with running := [] }
        let t := collTemp o
        let book := o.mark
        let s := match cs.findIdx? (·.err.isSome) with
          | some i =>
            let e := (o.fire.offender s cs).getD {}
            s.collGive cs 0 true 0 book fun x => x.forwardTok { e with data := absorb (cs.length - i - 1) e.data }
          | none => match o.fail with
            | some (_, c, a) => s.collGive cs o.flags true a book fun x => x.errTok c a
            | none =>
              if collOp d = 4 ∧ b.ledAfar then s.collAfar cs
              else if collOp d = 4 then
                match tempBad o.instr.fmt t with
                | some iv => s.collGive cs (if iv then flag clsIV 0 else 0) true 0 book fun x => x.errTok 0x0A 0
                | none =>
                  let r := o.nums.getD 0 0
                  s.collGive cs (o.flags ||| (if r = 0xFFFF_FFFF then flag clsIV 0 else 0)) false 0 book fun x => x.one32 r
              else
                let v := match collOp d with
                  | 2 => collParts d * collCount d
                  | 3 => collCount d / collParts d
                  | _ => collCount d
                s.collGive cs o.flags false 0 book fun x => x.one32 v
        s.startColl bar)

/-- EXPIRE (R335, R341): the use that forms is RELEASED with the PARTIAL outcome, still to be delivered. -/
def State.expireBar (s : State) (bar : BarId) : State :=
  let b := s.bar bar
  s.putBar { b.setUses b.later with expired := b.expired ++ [b.contribs] }

/-- A use that forms may expire (R335): the instance is GATHERING, and not all its ranks are there. -/
def Bar.expires (b : Bar) : Bool := b.running.isEmpty && b.expired.isEmpty && !b.contribs.isEmpty && !collFull b.contribs

/-- The collectives of which an instance is a participant (R341): those its COLL nodes name. -/
def collsOf (g : Group) (i : KInst) : List BarId :=
  i.nodes.filterMap fun p => match g.nodes[p.1]? with
    | some (iw, _) =>
      if field iw.toNat 63 55 = 0x16A then
        some (barOf g.ctx.toNat i.n (field iw.toNat 34 32) (field (leNat ((g.pool.drop (field iw.toNat 31 0)).take 8)) 45 42) true)
      else none
    | none => none

/-- A core holds a participant of a collective that has contributed or may yet. -/
def State.participant (s : State) (b : Bar) (on : Nat → Bool) : Bool :=
  (b.contribs.any fun c => match s.findOp c.op with | some o => on o.fir.n | none => false) ||
  s.groups.any fun g => g.ctx.toNat == b.id.ctx && g.insts.any fun i => i.state != .evicted && on i.n && (collsOf g i).contains b.id

/-- EXPIRE (R341): the timeout has passed since the first contribution. -/
def execExpire (bar : BarId) (s : State) : Host.Outcome State Fault Refusal :=
  .next (let b := s.bar bar
    match collDesc b.contribs with
    | some d =>
      if collTmo d != 0 && collTmo d ≤ s.cycle - b.first && b.expires then s.expireBar bar else s
    | none => s)

end Sys2Proof.Machine
end

