-- ==== Sys2Proof/Machine/Context.lean ====
section
/-! DEFINITION. The context instructions (R370 to R376): TRAP and BKPT, the context registers (R54 to R57, R369, R372), PROGI,
CAPS and CLOCK, and the operations on contexts that SVCTX, RSCTX and DUMP raise. -/

namespace Sys2Proof.Machine

/-! ### TRAP and BKPT (R371) -/

def execTrap (n : Node) (s : State) : Host.Outcome State Fault Refusal := fire 0x180 n s false fun x s =>
  x.fault s 0x000A 0 false (field (im n) 15 0)

def execBkpt (n : Node) (s : State) : Host.Outcome State Fault Refusal := fire 0x181 n s false fun x s =>
  let s := s.modFrame x.f.tag fun f => { f with armed := some (BitVec.ofNat 16 (im n)) }
  x.emitAll s [{ out := 0, tok := { x.port 0 with eos := x.eos, deps := x.deps, port := 0 } }]

/-! ### Context registers -/

/-- FAULTST (R56). -/
def FaultRec.st (r : FaultRec) : Nat := r.count.toNat * 2 ^ 16 + r.cause.toNat

/-- An entry of VIOLOG with the entries left after it (R56). -/
def violEntry (e : Bool × Nat) (more : Nat) : Nat := 2 ^ 63 + ofBool e.1 * 2 ^ 62 + more * 2 ^ 56 + e.2 % 2 ^ 56

/-- The value of a CSR as a firing of a context reads it (R54); VIOLOG is read by its own instruction. -/
def State.csr (s : State) (c : BitVec 6) (classb : Nat) (num : Nat) : Nat :=
  let x := s.ctx c
  match num with
  | 0x000 => c.toNat
  | 0x001 => x.csrs.partw.toNat
  | 0x002 => classb
  | 0x010 => x.csrs.rmode.toNat
  | 0x011 => x.csrs.excmode.toNat
  | 0x012 => x.csrs.fflags.toNat
  | 0x013 => x.csrs.jord.toNat
  | 0x014 => x.csrs.jflags.toNat
  | 0x015 => x.csrs.jtrap.toNat
  | 0x016 => x.csrs.rngkey.toNat
  | 0x020 => x.csrs.cntthr.toNat
  | 0x021 => x.csrs.nqbase.toNat
  | 0x030 => s.cycle % 2 ^ 64
  | 0x031 => Config.capBase
  | 0x040 => x.frec.st
  | 0x041 => x.violog.length
  | 0x050 => x.csrs.dumpdesc.toNat
  | 0x051 => x.csrs.savedesc.toNat
  | _ => 0

/-- CLASSB of the group of a firing (R54). -/
def Fire.classb (x : Fire) (s : State) : Nat := match x.own s with | some (g, _, _) => g.base.toNat | none => 0

/-- CSRR (R372). -/
def execCsrr (n : Node) (s : State) : Host.Outcome State Fault Refusal := fire 0x182 n s false fun x s =>
  x.emitAll s [{ out := 0, tok := x.one64 (s.csr x.f.tag.ctx (x.classb s) (im n)) }]

/-- CSRR of VIOLOG (R56): the oldest entry leaves the log. -/
def execCsrrViolog (n : Node) (s : State) : Host.Outcome State Fault Refusal := fire 0x182 n s false fun x s =>
  match (s.ctx x.f.tag.ctx).violog with
  | [] => x.emitAll s [{ out := 0, tok := x.one64 0 }]
  | e :: r =>
    let s := s.modCtx x.f.tag.ctx fun c => { c with violog := r }
    x.emitAll s [{ out := 0, tok := x.one64 (violEntry e r.length) }]

/-- Width of a writable CSR; 0 where every value is illegal (R372). -/
def csrWidth (num : Nat) : Nat :=
  match num with
  | 0x010 => 3 | 0x011 => 16 | 0x012 => 8 | 0x013 => 3 | 0x014 => 40 | 0x015 => 40 | 0x016 => 64 | 0x020 => 16 | 0x021 => 64
  | 0x041 => 64 | 0x050 => 64 | 0x051 => 64 | _ => 0

/-- An illegal value of a CSR (R54, R372). -/
def csrIllegal (num v : Nat) : Bool :=
  csrWidth num == 0 || 2 ^ csrWidth num ≤ v || (num == 0x010 && (v == 0 || v == 7)) || (num == 0x020 && v == 0) ||
  (num == 0x021 && v % 64 != 0)

/-- The registers that a context without SUP may not write (R54). -/
def csrSup (num : Nat) : Bool := [0x001, 0x002, 0x020, 0x050, 0x051].contains num

/-- Write a CSR. -/
def Csrs.set (c : Csrs) (num v : Nat) : Csrs :=
  match num with
  | 0x010 => { c with rmode := BitVec.ofNat 3 v }
  | 0x011 => { c with excmode := BitVec.ofNat 16 v }
  | 0x012 => { c with fflags := c.fflags &&& ~~~ BitVec.ofNat 8 v }
  | 0x013 => { c with jord := BitVec.ofNat 3 v }
  | 0x014 => { c with jflags := c.jflags &&& ~~~ BitVec.ofNat 40 v }
  | 0x015 => { c with jtrap := BitVec.ofNat 40 v }
  | 0x016 => { c with rngkey := BitVec.ofNat 64 v }
  | 0x020 => { c with cntthr := BitVec.ofNat 16 v }
  | 0x021 => { c with nqbase := BitVec.ofNat 64 v }
  | 0x050 => { c with dumpdesc := BitVec.ofNat 64 v }
  | 0x051 => { c with savedesc := BitVec.ofNat 64 v }
  | _ => c

/-- The FMT that a CSRW raises on a run of several elements, of which it writes the first (R372). -/
def Fire.runFlag (x : Fire) : Nat := if 1 < x.f.len then flag clsFMT 0 else 0

/-- CSRW (R372): the old value out; an illegal value raises IV, a longer run FMT, a SUP register without SUP PROT. -/
def Fire.writeCsr (x : Fire) (s : State) : State :=
  let num := im x.n
  let c := x.f.tag.ctx
  if csrSup num && !x.sup s then x.fail s clsPROT
  else
    let v := x.i64 0 0
    let old := s.csr c (x.classb s) num
    if csrIllegal num v then x.finish s [{ out := 0, tok := x.one64 old }] (flag clsIV 0 ||| x.runFlag)
    else x.finish (s.modCtx c fun y => { y with csrs := y.csrs.set num v }) [{ out := 0, tok := x.one64 old }] x.runFlag

def execCsrw (n : Node) (s : State) : Host.Outcome State Fault Refusal := fire 0x183 n s false fun x s => x.writeCsr s

/-- CSRW of FFLAGS (R90): each 1 bit clears its bit. -/
def execCsrwFflags (n : Node) (s : State) : Host.Outcome State Fault Refusal := fire 0x183 n s false fun x s => x.writeCsr s

/-- CSRW of JFLAGS (R193). -/
def execCsrwJflags (n : Node) (s : State) : Host.Outcome State Fault Refusal := fire 0x183 n s false fun x s => x.writeCsr s

/-- CSRW of VIOLOG (R56): the log is emptied, its length goes out. -/
def execCsrwViolog (n : Node) (s : State) : Host.Outcome State Fault Refusal := fire 0x183 n s false fun x s =>
  let k := (s.ctx x.f.tag.ctx).violog.length
  x.finish (s.modCtx x.f.tag.ctx fun c => { c with violog := [] }) [{ out := 0, tok := x.one64 k }] x.runFlag

/-! ### PROGI, CAPS and CLOCK (R373, R374) -/

/-- Kinds of operation that are ISSUED, ACTIVE or STOPPED under R266, R267 or R340 (R373); the bookmark of a P0 firing is 0. -/
def OpKind.progress : OpKind → Bool
  | .mem | .xfer | .drain | .matrix | .select | .coll | .dq | .pmig | .page => true
  | _ => false

def execProgi (n : Node) (s : State) : Host.Outcome State Fault Refusal := fire 0x184 n s false fun x s =>
  let o := s.ops.find? fun o => o.kind.progress && o.st != .complete && o.st != .failed && o.fir.img.nodeid.toNat == im n &&
    o.fir.tag.sameFrame x.f.tag
  x.emitAll s [{ out := 0, tok := x.one64 (match o with | some o => 2 ^ 63 + o.mark % 2 ^ 32 | none => 0) }]

def execCaps (n : Node) (s : State) : Host.Outcome State Fault Refusal := fire 0x185 n s false fun x s =>
  let v := if im n = 0 then Config.capBase
    else match Config.caps.findIdx? (·.1 == im n) with
      | some i => leNat ((capBytes.drop (16 * i)).take 8)
      | none => 0
  x.emitAll s [{ out := 0, tok := x.one64 v }]

def execClock (n : Node) (s : State) : Host.Outcome State Fault Refusal := fire 0x186 n s false fun x s =>
  x.emitAll s [{ out := 0, tok := x.one64 (s.cycle % 2 ^ 64) }]

/-! ### Operations on contexts (R350, R351, R375, R376) -/

/-- State codes (R350). -/
def CState.code : CState → Nat
  | .free => 0 | .binding => 1 | .running => 2 | .halting => 3 | .halted => 4 | .saving => 5 | .saved => 6 | .savefail => 7
  | .restoring => 8 | .dumping => 9 | .destroyed => 10

/-- Status codes (R376). -/
def stDone : Nat := 0
def stState : Nat := 1
def stSelf : Nat := 2
def stNodesc : Nat := 3
def stShape : Nat := 4
def stFailed : Nat := 5
def stRange : Nat := 6

/-- The element of SVCTX, RSCTX and DUMP (R375). -/
def opElem (status state result : Nat) : Nat := status * 2 ^ 56 + state * 2 ^ 48 + result % 2 ^ 48

/-- Hand an operation to its target's master bindery (R351): the firing waits for its end. -/
def Fire.raiseOp (x : Fire) (s : State) (op : COp) (arg : Word) (run : Bool) : State :=
  let t := (x.port 0).elem 4 0 0
  let c := BitVec.ofNat 6 t
  let out (status state : Nat) : State := x.emitAll s [{ out := 0, tok := x.one64 (opElem status state 0) }]
  if 64 ≤ t then out stRange 0
  else if c = x.f.tag.ctx ∧ op ≠ .halt ∧ op ≠ .query then out stSelf (s.ctx c).state.code
  else
    let (id, s) := s.newId
    let s := s.addOp { x.op s id .ctxOp with st := .active }
    s.modCtx c fun y => { y with queue := y.queue ++ [{ op := op, arg := arg, run := run, waiter := some id, source := some x.f.tag.ctx }] }

def execSvctxHalt (n : Node) (s : State) : Host.Outcome State Fault Refusal := fire 0x18D n s false fun x s => x.raiseOp s .halt 0 false

def execSvctxSave (n : Node) (s : State) : Host.Outcome State Fault Refusal := fire 0x18D n s false fun x s => x.raiseOp s .save 0 false

def execSvctxResume (n : Node) (s : State) : Host.Outcome State Fault Refusal := fire 0x18D n s false fun x s => x.raiseOp s .resume 0 false

def execSvctxAbandon (n : Node) (s : State) : Host.Outcome State Fault Refusal := fire 0x18D n s false fun x s => x.raiseOp s .abandon 0 false

def execSvctxDestroy (n : Node) (s : State) : Host.Outcome State Fault Refusal := fire 0x18D n s false fun x s => x.raiseOp s .destroy 0 false

def execSvctxQuery (n : Node) (s : State) : Host.Outcome State Fault Refusal := fire 0x18D n s false fun x s => x.raiseOp s .query 0 false

/-- RSCTX (R375): the save descriptor's address on port 1. -/
def execRsctx (n : Node) (s : State) : Host.Outcome State Fault Refusal := fire 0x18E n s false fun x s =>
  x.raiseOp s .restore (BitVec.ofNat 64 (x.i64 1 0)) (bitOf (md n) 0)

def execDump (n : Node) (s : State) : Host.Outcome State Fault Refusal := fire 0x18F n s false fun x s => x.raiseOp s .dump 0 false

end Sys2Proof.Machine
end

