-- ==== Sys2Proof/Machine/Page.lean ====
section
/-! DEFINITION. The page instructions: PMIG (R388, R389), PWB (R397), PCNT (R398), PHASH and the catalogue (R390, R391, R399),
BMAP and the shelf list (R392, R400). -/

namespace Sys2Proof.Machine

/-! ### Leaves -/

/-- The element of PMIG, PWB and PHASH: status, HOST bit and address bits of a leaf or field, and a count (R395). -/
def pageElem (status bits : Nat) : Nat := status * 2 ^ 56 + bits

/-- PA of a leaf in [51:16], with its HOST bit at bit 52 (R397). -/
def oldPa (pte : Nat) : Nat := field pte 51 16 * 2 ^ 16 + ofBool (bitOf pte 60) * 2 ^ 52

/-- A context that page instructions may name (R395). -/
def State.pageTarget (s : State) (t : Nat) : Bool :=
  t < 64 && (s.ctx (BitVec.ofNat 6 t)).state != .free && (s.ctx (BitVec.ofNat 6 t)).state != .destroyed

/-- The leaf of an address as a page instruction finds it: the entry, or the status that ends it (R397). -/
def State.pageLeaf (s : State) (c : BitVec 6) (n va : Nat) : Except Nat TlbEntry × State :=
  if 2 ^ 56 ≤ va then (.error 2, s)
  else
    let (w, s) := s.walk c n va
    (match w with
      | .miss => .error 2
      | .malformed | .unreadable => .error 7
      | .leaf e => .ok e, s)

/-- Set or replace a leaf by RMW on P0; `f` answers nothing where the leaf stays. -/
def State.rmwLeaf (s : State) (own n addr : Nat) (f : Nat → Option Nat) : Nat × State :=
  let (b, s) := s.rmw own (.core n) 0 addr 8 fun b => (f (leNat b)).map (leBytes 8)
  (leNat b, s)

/-- Write-blocking set or cleared in a leaf value. -/
def withWb (x : Nat) (on : Bool) : Nat := x - ofBool (bitOf x 59) * 2 ^ 59 + ofBool on * 2 ^ 59

/-- The first thing that stops a write-block of a page, in the order of R393: no leaf, poisoned, migrating, shared. -/
def wbRefused (x : Nat) : Option Nat :=
  if !bitOf x 63 then some 2 else if bitOf x 57 then some 4 else if bitOf x 59 then some 1 else if bitOf x 52 then some 3 else none

/-- A write is visible at PKG on every path: of another package, once its POD moments have come (R285). -/
def Write.atPkg (w : Write) : Bool :=
  match w.issuer with
  | .core _ => w.levels.all (· == 4)
  | .remote _ => w.pod == allPaths
  | .host => true

/-- The writes translated without WB are performed at PKG (R387): those already performed are visible there on every path, that
of a copy included, and no operation keeps such a translation. -/
def State.drainedOf (s : State) (addr key size : Nat) : Bool :=
  (s.pend.all fun w => !w.overlaps key size || w.atPkg) && !s.ops.any fun o => o.pins.any fun p => p.write && p.e.addr == addr

/-- Bytes of the page of an entry's level. -/
def TlbEntry.bytes (e : TlbEntry) : Nat := 2 ^ lvlShift e.lvl

/-! ### PMIG (R388, R389) -/

def execPmig (n : Node) (s : State) : Host.Outcome State Fault Refusal := fire 0x187 n s false fun x s =>
  let (id, s) := s.newId
  s.addOp { x.op s id .pmig with st := .active, nums := [0] }

/-- What a PMIG is about: page, destination and target. -/
def pmigVa (o : Op) : Nat := o.fire.i64 0 0
def pmigDst (o : Op) : Nat := o.fire.i64 1 0
def pmigCtx (o : Op) : Nat := (o.fire.port 2).elem 4 0 0

/-- The destination is a 64 KiB-aligned place that exists (R379, R395). -/
def pmigDstOk (d : Nat) : Bool := d % 65536 == 0 && (fieldKey d 65536).isSome

/-- The element of a PMIG that ends. -/
def State.endPmig (s : State) (o : Op) (status old : Nat) : State :=
  s.complete o [plainOut (o.fire.one64 (pageElem status (oldPa old)))]

/-- A PMIG that has had an effect appends the entry of R386 before it emits (R388): phase 4 waits for the append. -/
def State.tellPmig (s : State) (o : Op) (status old : Nat) : State :=
  let va := pmigVa o
  let s := s.notify (BitVec.ofNat 6 (pmigCtx o)) o.fir.n 2 (va - va % 65536)
    (leBytes 8 (field old 51 16 * 2 ^ 16 + ofBool (bitOf old 60) * 2 ^ 63) ++ leBytes 8 (pmigDst o) ++ [BitVec.ofNat 8 status]) (some o.id)
  State.putOp { s with migs := s.migs.filter fun m => !o.named m.op } { o with nums := [4, o.nums.getD 1 0, old, status] }

/-- Copy a 64-byte line between physical places on P1 (R384): none where it cannot be read. The line is written whole. -/
def State.copyLine (s : State) (own n src dst : Nat) : Option State :=
  let host (k : Nat) : Bool := 2 ^ 63 ≤ k
  if s.poisoned src 64 || ((host src || host dst) && !s.tether) then none
  else
    let (b, s) := s.rd (.core n) 1 src 64
    let s := { s with poison := s.poison.filter (· != lineOf dst) }
    some ((chunksOf 8 8 b).foldl (fun (st : Nat × State) d => (st.1 + 8, st.2.wr own (.core n) 1 st.1 d)) (dst, s)).2

/-- Physical place of the page of a leaf value. -/
def pageKey (pte : Nat) : Nat := physKey (bitOf pte 60) (field pte 51 16 * 2 ^ 16)

/-- A leaf value with the PA and HOST bit of another, WB kept. -/
def withPa (x host pa : Nat) : Nat :=
  x - field x 51 16 * 2 ^ 16 - ofBool (bitOf x 60) * 2 ^ 60 + field pa 51 16 * 2 ^ 16 + host * 2 ^ 60

/-- One step of a PMIG: WB set, the wait of R387, a line of a 4 KiB unit, the leaf store, the fence with WB cleared, the append.
`nums` holds the phase, the leaf's address, its value before, and the lines copied of the unit; phases 5 and 6 are of a migration that
its context's destruction has abandoned (R389): the old PA back, and WB cleared once the new one is cached nowhere. -/
def State.pmigStep (s : State) (o : Op) : State :=
  let n := o.fir.n
  let c := BitVec.ofNat 6 (pmigCtx o)
  let addr := o.nums.getD 1 0
  let old := o.nums.getD 2 0
  let line := o.nums.getD 3 0
  let key := pageKey old
  match o.nums.getD 0 0 with
  | 0 =>
    if !s.pageTarget (pmigCtx o) then s.endPmig o 8 0
    else
      let (w, s) := s.pageLeaf c n (pmigVa o)
      match w with
      | .error st => s.endPmig o st 0
      | .ok e =>
        let refuse (x : Nat) : Option Nat := (wbRefused x).orElse fun _ =>
          if field x 54 53 ≠ 0 ∨ e.lvl ≠ 0 then some 5
          else if (pmigVa o) % 65536 ≠ 0 ∨ !pmigDstOk (pmigDst o) then some 6 else none
        let (x, s) := s.rmwLeaf o.id n e.addr fun x => if (refuse x).isSome then none else some (withWb x true)
        match refuse x with
        | some st => s.endPmig o st (if bitOf x 63 then x else 0)
        | none =>
          let m : Migration := { addr := e.addr, old := x, op := o.id, n := n, ctx := o.fir.tag.ctx, target := c }
          State.putOp { s with migs := s.migs ++ [m] } { o with nums := [1, e.addr, x, 0] }
  | 1 =>
    if !s.reached o.id 1 32 3 then s
    else
      let s := s.dropStale c n 3 0
      if s.drainedOf addr key 65536 then s.putOp { o with nums := [2, addr, old, 0] } else s
  | 2 =>
    if o.book < 16 then
      let at_ := 4096 * o.book + 64 * line
      match s.copyLine o.id n (key + at_) ((fieldKey (pmigDst o) 65536).getD 0 + at_) with
      | some s => s.putOp (if line = 63 then { o with book := o.book + 1, nums := [2, addr, old, 0] } else { o with nums := [2, addr, old, line + 1] })
      | none =>
        let (_, s) := s.rmwLeaf o.id n addr fun x => some (withWb x false)
        s.tellPmig o 7 old
    else if !s.reached o.id 2 127 3 then s
    else
      let d := pmigDst o
      let (_, s) := s.rmwLeaf o.id n addr fun x => some (withPa (x - field x 15 0) (ofBool (bitOf d 63)) d)
      s.putOp { o with nums := [3, addr, old, 0] }
  | 3 =>
    if !s.reached o.id 1 32 3 then s
    else
      let s := s.dropStale c n 3 0
      let (_, s) := s.rmwLeaf o.id n addr fun x => some (withWb x false)
      s.tellPmig o 0 old
  | 4 => if s.ops.any fun q => q.kind == .notify && o.named (q.nums.getD 2 0) then s else s.endPmig o line old
  | 5 =>
    let (_, s) := s.rmwLeaf o.id n addr fun x => some (withPa x (ofBool (bitOf old 60)) old)
    s.putOp { o with nums := [6, addr, old, line] }
  | _ =>
    if !s.reached o.id 1 32 3 then s
    else
      let s := s.dropStale (BitVec.ofNat 6 line) n 3 0
      let (_, s) := s.rmwLeaf o.id n addr fun x => some (withWb x false)
      State.dropOp { s with migs := s.migs.filter fun m => !o.named m.op } o.id

/-- Finish the 4 KiB unit that a PMIG is in (R266, R389). -/
def State.pmigUnit (s : State) (o : Op) : State :=
  if o.nums.getD 0 0 ≠ 2 then s
  else (List.range (64 - o.nums.getD 3 0)).foldl (fun s _ => match s.findOp o.id with
    | some p => if p.nums.getD 0 0 = 2 ∧ p.book = o.book ∧ o.nums.getD 3 0 ≠ 0 then s.pmigStep p else s
    | none => s) s

/-- A PMIG holds write-blocking on a leaf, that of a saved context included (R389, R397). -/
def State.pmigHolds (s : State) (addr : Nat) : Bool := s.migs.any (·.addr == addr)

/-- The migrations of a destroyed context are abandoned as failures (R389): the page keeps its old PA, WB is cleared, nothing is
appended. -/
def State.abandonPmigs (s : State) (c : BitVec 6) : State :=
  (s.migs.filter (·.ctx == c)).foldl (fun (s : State) m =>
    let (id, s) := s.newId
    let o : Op := { id := id, kind := .pmig, fir := { n := m.n, elem := 90, tag := { ctx := c } }, instr := noNode, opc := 0x187, cap := {},
                    st := .active, nums := [5, m.addr, m.old, m.target.toNat], since := s.cycle }
    { s with ops := s.ops ++ [o], migs := s.migs.map fun k => if k.op = m.op then { k with op := id } else k }) s

/-! ### PWB and PCNT (R397, R398) -/

def execPwbSet (n : Node) (s : State) : Host.Outcome State Fault Refusal := fire 0x189 n s false fun x s =>
  let (id, s) := s.newId
  s.addOp { x.op s id .pwb with st := .active, nums := [0, 0, 0, 0] }

def execPwbClr (n : Node) (s : State) : Host.Outcome State Fault Refusal := fire 0x189 n s false fun x s =>
  let (id, s) := s.newId
  s.addOp { x.op s id .pwb with st := .active, nums := [0, 0, 0, 0] }

/-- One step of a PWB: the RMW, then for `.set` the wait of R387. -/
def State.pwbStep (s : State) (o : Op) : State :=
  let x := o.fire
  let n := o.fir.n
  let t := (x.port 1).elem 4 0 0
  let c := BitVec.ofNat 6 t
  let set := bitOf (md o.instr) 0
  let out (s : State) (status leaf : Nat) : State := s.complete o [plainOut (x.one64 (pageElem status (field leaf 51 0)))]
  if o.nums.getD 0 0 = 0 then
    if !s.pageTarget t then out s 8 0
    else
      let (w, s) := s.pageLeaf c n (x.i64 0 0)
      match w with
      | .error st => out s st 0
      | .ok e =>
        let refuse (y : Nat) : Option Nat :=
          if set then wbRefused y else if !bitOf y 63 then some 2 else if s.pmigHolds e.addr then some 1 else none
        let (y, s) := s.rmwLeaf o.id n e.addr fun y => if (refuse y).isSome then none else some (withWb y set)
        match refuse y with
        | some st => out s st y
        | none =>
          if set then s.putOp { o with nums := [1, e.addr, y, e.lvl] } else out s 0 y
  else if !s.reached o.id 1 32 3 then s
  else
    let s := s.dropStale c n 3 0
    let y := o.nums.getD 2 0
    if s.drainedOf (o.nums.getD 1 0) (pageKey y) (2 ^ lvlShift (o.nums.getD 3 0)) then out s 0 y else s

def execPcnt (n : Node) (s : State) : Host.Outcome State Fault Refusal := fire 0x188 n s false fun x s =>
  let (id, s) := s.newId
  s.addOp { x.op s id .page with st := .active }

/-- PCNT's one RMW (R398); a malformed or unreadable walk has the outcome of R259. -/
def State.pcntStep (s : State) (o : Op) : State :=
  let x := o.fire
  let va := x.i64 0 0
  let out (s : State) (v : Nat) : State := s.complete o [plainOut (x.one64 v)]
  if 2 ^ 56 ≤ va then (s.violate o.fir.tag.ctx false va).failOp (o.failing 0 7 (errAddr false va))
  else
    let (w, s) := s.walk o.fir.tag.ctx o.fir.n va o.id
    match w with
    | .miss => out s 0
    | .malformed => (s.violate o.fir.tag.ctx false va).failOp (o.failing 0 7 (errAddr false va))
    | .unreadable => s.failOp (o.failing 0 6 (errAddr false va))
    | .leaf e =>
      let (y, s) := s.rmwLeaf o.id o.fir.n e.addr fun y => if bitOf (md o.instr) 0 then some (y - field y 15 0) else none
      out s (ofBool (bitOf y 63) * 2 ^ 63 + ofBool (bitOf y 58) * 2 ^ 62 + field y 15 0)

/-! ### PHASH (R390, R391, R399) -/

def execPhashHash (n : Node) (s : State) : Host.Outcome State Fault Refusal := fire 0x18A n s false fun x s =>
  x.fmtGuard s ((x.port 1).run != 5) fun s =>
    let (id, s) := s.newId
    s.addOp { x.op s id .page with st := .active }

def execPhashShare (n : Node) (s : State) : Host.Outcome State Fault Refusal := fire 0x18A n s false fun x s =>
  x.fmtGuard s ((x.port 1).run != 5) fun s =>
    let (id, s) := s.newId
    s.addOp { x.op s id .page with st := .active }

def execPhashDrop (n : Node) (s : State) : Host.Outcome State Fault Refusal := fire 0x18A n s false fun x s =>
  x.fmtGuard s ((x.port 1).run != 5) fun s =>
    let (id, s) := s.newId
    s.addOp { x.op s id .page with st := .active }

/-- Why an access of a PHASH or BMAP did not give its bytes: it stalls, or a failure with its cause and address. -/
inductive Got (α : Type) where
  | ok (a : α) | wait | fail (cause addr : Nat)
  deriving DecidableEq, Repr

/-- The request of a page operation on `w` bytes of the issuing context's space; `solo` as R399 and R400 make theirs. -/
def Op.pageReq (o : Op) (va w : Nat) (solo : Bool) : Req :=
  { ctx := o.fir.tag.ctx, n := o.fir.n, iss := .core o.fir.n, path := 0, va := va % 2 ^ 64, size := w, kind := .read, solo := solo }

/-- Read `k` units of `w` bytes of the issuing context's space. -/
def Op.readRun (s : State) (w : Nat) (solo : Bool) (va : Nat) : Nat → Op → List Byte → Got (List Byte) × Op × State
  | 0, o, acc => (.ok acc, o, s)
  | k + 1, o, acc =>
    let (m, o, s) := o.access s (o.pageReq va w solo)
    match m with
    | .ok b => Op.readRun s w solo (va + w) k o (acc ++ b)
    | .stall => (.wait, o, s)
    | .fail c _ => (.fail c (errAddr false va), o, s)

/-- Translate every write of a step that is to be whole, so that none of them stalls (R399, R400). -/
def Op.pinRun (s : State) (w : Nat) : List (Nat × Nat) → Bool → Op → Got Unit × Op × State
  | [], ok, o => (if ok then .ok () else .wait, o, s)
  | (va, v) :: r, ok, o =>
    let (m, o, s) := o.pin s { o.pageReq va w true with kind := .write, data := leBytes w v }
    match m with
    | .ok _ => Op.pinRun s w r ok o
    | .stall => Op.pinRun s w r false o
    | .fail c _ => (.fail c (errAddr false va), o, s)

/-- Write units of `w` bytes of the issuing context's space. -/
def Op.writeRun (s : State) (w : Nat) : List (Nat × Nat) → Op → Got Unit × Op × State
  | [], o => (.ok (), o, s)
  | (va, v) :: r, o =>
    let (m, o, s) := o.access s { o.pageReq va w true with kind := .write, data := leBytes w v }
    match m with
    | .ok _ => Op.writeRun s w r o
    | .stall => (.wait, o, s)
    | .fail c _ => (.fail c (errAddr false va), o, s)

/-- B of a PHASH. -/
def phashBytes (o : Op) : Nat := (field (im o.instr) 9 0 + 1) * 64

/-- The previous hash: the 48 bytes of port 1. -/
def prevHash (o : Op) : List Byte := (List.range 6).flatMap fun k => leBytes 8 ((o.fire.port 1).elem 8 0 k)

/-- A catalogue: BASE, LOGN and the count of valid slots; none where its words break R390. -/
def catalogueOf (b : List Byte) : Option (Nat × Nat × Nat) :=
  let w := fun i => wordAt b i
  let logn := field (w 1) 4 0
  if field (w 0) 63 56 = 0 ∧ w 0 % 64 = 0 ∧ field (w 1) 63 5 = 0 ∧ 1 ≤ logn ∧ logn ≤ 20 ∧ field (w 2) 63 32 = 0 ∧
    (b.drop 24).all (· == 0) then some (w 0, logn, field (w 2) 31 0) else none

/-- Where a probe ends (R390): the slot that holds the hash with its word 6, and the first slot that may be taken. -/
structure Probe where
  hit  : Option (Nat × Nat) := none
  room : Option Nat := none
  deriving DecidableEq, Repr

/-- Probe the slots of a catalogue for a hash. -/
def Op.probe (base logn : Nat) (h : List Byte) : Nat → Nat → Probe → Op → State → Got Probe × Op × State
  | 0, _, p, o, s => (.ok p, o, s)
  | fuel + 1, i, p, o, s =>
    let at_ := base + 64 * (i % 2 ^ logn)
    match Op.readRun s 8 true at_ 8 o [] with
    | (.ok b, o, s) =>
      let st := field (wordAt b 7) 1 0
      if st = 1 ∧ b.take 48 = h then (.ok { p with hit := some (at_, wordAt b 6) }, o, s)
      else
        let p := if (st = 0 ∨ st = 2) ∧ p.room.isNone then { p with room := some at_ } else p
        if st = 0 then (.ok p, o, s) else Op.probe base logn h fuel (i + 1) p o s
    | (.wait, o, s) => (.wait, o, s)
    | (.fail c a, o, s) => (.fail c a, o, s)

/-- The words of a slot (R390). -/
def slotWords (at_ : Nat) (h : List Byte) (pa count st : Nat) : List (Nat × Nat) :=
  ((List.range 6).map fun k => (at_ + 8 * k, wordAt h k)) ++ [(at_ + 48, pa + count), (at_ + 56, st)]

/-- Replace a leaf at the end of a PHASH: W, SHR and PA, or the leaf invalid (R399). It is the value that the step has read. -/
def State.shareLeaf (s : State) (o : Op) (addr : Nat) (f : Nat → Nat) : State :=
  s.rmwLast o.id (.core o.fir.n) 0 addr 8 fun b => leBytes 8 (f (leNat b))

/-- W 0, SHR 1 and a PA in a leaf. -/
def sharedLeaf (pa x : Nat) : Nat :=
  x - ofBool (bitOf x 61) * 2 ^ 61 - ofBool (bitOf x 52) * 2 ^ 52 + 2 ^ 52 - field x 51 16 * 2 ^ 16 + field pa 51 16 * 2 ^ 16

/-- The outputs of a PHASH, once a changed leaf is in force at PKG (R399). -/
def State.endPhash (s : State) (o : Op) (status pa count : Nat) (h : List Byte) : State :=
  let x := o.fire
  let o := { o with flags := 1 }
  s.complete o [{ out := 0, tok := x.one64 (pageElem status (field pa 51 16 * 2 ^ 16 + count)), paths := 32, scope := 3 },
    { out := 1, tok := x.tok .I 6 0 h, paths := 32, scope := 3 }]

/-- Why a PHASH `.share` or `.drop` leaves a leaf as it is (R393, R399). -/
def shareRefused (op lvl x : Nat) : Option Nat :=
  if !bitOf x 63 then some 2
  else if op = 1 then (if bitOf x 57 then some 4 else if bitOf x 59 then some 1 else if bitOf x 52 then some 3
    else if field x 54 53 ≠ 0 ∨ lvl ≠ 0 then some 5 else none)
  else if bitOf x 57 || bitOf x 59 || !bitOf x 52 then some 2 else if field x 54 53 ≠ 0 ∨ lvl ≠ 0 then some 5 else none

/-- `.share` and `.drop` once the hash is known (R399), as one step on the catalogue and the leaf: both are read as they stand
last in coherence order, and the writes are made once all of them are translated. -/
def State.catalogueStep (s : State) (o : Op) (e : TlbEntry) (page h : List Byte) : State :=
  let op := field (md o.instr) 1 0
  let (leaf, s) := s.rdLast (.core o.fir.n) 0 e.addr 8
  let x := leNat leaf
  let cat := o.fire.i64 2 0
  let pa := field x 51 16 * 2 ^ 16
  match shareRefused op e.lvl x with
  | some st => s.endPhash o st pa 0 h
  | none =>
    if cat % 64 ≠ 0 then s.endPhash o 6 pa 0 h
    else match Op.readRun s 8 true cat 8 o [] with
      | (.wait, o, s) => s.putOp o
      | (.fail _ _, o, s) => s.endPhash o 7 pa 0 h
      | (.ok b, o, s) => match catalogueOf b with
        | none => s.endPhash o 7 pa 0 h
        | some (base, logn, valid) =>
          match Op.probe base logn h (2 ^ logn) (wordAt h 0 % 2 ^ logn) {} o s with
          | (.wait, o, s) => s.putOp o
          | (.fail _ _, o, s) => s.endPhash o 7 pa 0 h
          | (.ok p, o, s) =>
            let store (s : State) (ws : List (Nat × Nat)) (fin : Op → State → State) : State :=
              match Op.pinRun s 8 ws true o with
              | (.wait, o, s) => s.putOp o
              | (.fail _ _, o, s) => s.endPhash o 7 pa 0 h
              | (.ok _, o, s) => match Op.writeRun s 8 ws o with
                | (.wait, o, s) => s.putOp o
                | (.fail _ _, o, s) => s.endPhash o 7 pa 0 h
                | (.ok _, o, s) => fin o s
            match p.hit with
            | some (at_, w6) =>
              let spa := field w6 51 16 * 2 ^ 16
              let cnt := field w6 15 0
              if op = 2 then
                let ws := if cnt ≤ 1 then [(at_ + 48, spa), (at_ + 56, 2), (cat + 16, valid - 1)] else [(at_ + 48, spa + cnt - 1)]
                store s ws fun o s => (s.shareLeaf o e.addr fun y => y - ofBool (bitOf y 63) * 2 ^ 63).endPhash o 0 pa (cnt - 1) h
              else
                let k := physKey (bitOf x 60) spa
                let (other, s) := s.rdLast (.core o.fir.n) 0 k page.length
                if s.poisoned k page.length || (bitOf x 60 && !s.tether) then s.endPhash o 7 spa cnt h
                else if other ≠ page then s.endPhash o 11 spa cnt h
                else if cnt = 65535 then s.endPhash o 10 spa cnt h
                else store s [(at_ + 48, spa + cnt + 1)] fun o s => (s.shareLeaf o e.addr (sharedLeaf spa)).endPhash o 9 pa (cnt + 1) h
            | none =>
              if op = 2 then s.endPhash o 2 pa 0 h
              else match p.room with
                | none => s.endPhash o 10 pa 0 h
                | some at_ => store s (slotWords at_ h pa 1 1 ++ [(cat + 16, valid + 1)]) fun o s =>
                    (s.shareLeaf o e.addr (sharedLeaf pa)).endPhash o 0 pa 1 h

/-- A PHASH (R399): the page is read and hashed, then the catalogue is used in one step. The hash of a page that cannot be read
is a free value. -/
def State.phashStep (s : State) (o : Op) : State :=
  let va := o.fire.i64 0 0
  let free (s : State) (o : Op) (st : Nat) : State := State.endPhash { s with fresh := s.fresh + 48 } o st 0 0 (freeBytes s.fresh 48)
  if va % 65536 ≠ 0 then free s o 6
  else
    let (w, s) := s.pageLeaf o.fir.tag.ctx o.fir.n va
    match w with
    | .error st => free s o st
    | .ok e =>
      match Op.readRun s 8 false va (phashBytes o / 8) o [] with
      | (.wait, o, s) => s.putOp o
      | (.fail _ _, o, s) => free s o (if bitOf e.pte.toNat 57 then 4 else 7)
      | (.ok b, o, s) =>
        let h := sha384 (prevHash o ++ b)
        if field (md o.instr) 1 0 = 0 then s.endPhash o 0 (field e.pte.toNat 51 16 * 2 ^ 16) 0 h else s.catalogueStep o e b h

/-! ### BMAP (R400) -/

def execBmap (n : Node) (s : State) : Host.Outcome State Fault Refusal := fire 0x18B n s false fun x s =>
  let (id, s) := s.newId
  s.addOp { x.op s id .page with st := .active }

/-- Read the rows of the source beams of a BMAP, each source once. -/
def Op.readBeams (s : State) (base nk : Nat) : List Nat → Op → List (Nat × List Byte) → Got (List (Nat × List Byte)) × Op × State
  | [], o, acc => (.ok acc, o, s)
  | b :: r, o, acc => match Op.readRun s 4 true (base + 64 + 4 * (b * nk)) nk o [] with
    | (.ok d, o, s) => Op.readBeams s base nk r o (acc ++ [(b, d)])
    | (.wait, o, s) => (.wait, o, s)
    | (.fail c a, o, s) => (.fail c a, o, s)

/-- BMAP as one step (R400): the header and the rows of the sources are read as they stand last in coherence order, and the rows
are written once all of them are translated. -/
def State.bmapStep (s : State) (o : Op) : State :=
  let x := o.fire
  let base := x.i64 0 0
  let out (s : State) (o : Op) (k : Nat) : State := s.complete o [{ out := 0, tok := x.one32 k, paths := 127, scope := 3 }]
  let failed (s : State) (o : Op) (c a : Nat) : State := if c = 0 then s.stopOp o 2 a else s.failOp (o.failing 0 c a)
  if base % 64 ≠ 0 then failed s o 8 (errAddr false base)
  else match Op.readRun s 8 true base 8 o [] with
    | (.wait, o, s) => s.putOp o
    | (.fail c a, o, s) => failed s o c a
    | (.ok h, o, s) =>
      let (nb, nk) := shelfShape h
      if nb = 0 then out s o 0
      else
        let t := x.port 1
        let bs := List.range (min t.len nb)
        let src (b : Nat) : Nat := t.elem 4 0 b
        match Op.readBeams s base nk ((bs.map src).filter (· < nb)).eraseDups o [] with
        | (.wait, o, s) => s.putOp o
        | (.fail c a, o, s) => failed s o c a
        | (.ok beams, o, s) =>
          let row (b j : Nat) : Nat := match beams.find? (·.1 == src b) with
            | some r => leNat ((r.2.drop (4 * j)).take 4)
            | none => 0xFFFF_FFFF
          let ws := bs.flatMap fun b => (List.range nk).map fun j => (base + 64 + 4 * (b * nk + j), row b j)
          match Op.pinRun s 4 ws true o with
          | (.wait, o, s) => s.putOp o
          | (.fail c a, o, s) => failed s o c a
          | (.ok _, o, s) => match Op.writeRun s 4 ws o with
            | (.wait, o, s) => s.putOp o
            | (.fail c a, o, s) => failed s o c a
            | (.ok _, o, s) => out s o ws.length

/-- One step of a page operation. -/
def State.pageStep (s : State) (o : Op) : State :=
  if o.opc = 0x188 then s.pcntStep o else if o.opc = 0x18A then s.phashStep o else s.bmapStep o

end Sys2Proof.Machine
end

