-- ==== Sys2Proof/Machine/Counter.lean ====
section
/-! DEFINITION. LNKST (R415), and the counters: cycle classes (R442, R443), counter records and trace rings (R445 to R448), CTRIG
and its packets. -/

namespace Sys2Proof.Machine

/-! ### LNKST (R415) -/

/-- State codes of R415. -/
def LState.code : LState → Nat
  | .down => 0 | .training => 1 | .up => 2 | .degraded => 3 | .recovering => 4 | .failed => 5

/-- WIDTH: a link that carries traffic has full or half width. -/
def Link.width (l : Link) : Nat := if !l.state.works then 0 else if l.half then 1 else 2

/-- Bandwidth of a link at full width (R402). -/
def linkBw (l : Nat) : Nat := if l < 32 then 1000 else if l < 48 then 200 else 512

/-- The die at the far end of module `m` of compute die `d` (R11). -/
def farDie (d m : Nat) : Nat :=
  (([[8, 1, 4, 8], [0, 2, 5, 5], [1, 3, 6, 6], [2, 9, 7, 9], [8, 5, 0, 8], [4, 6, 1, 1], [5, 7, 2, 2], [6, 9, 3, 9]].getD d []).getD m 0)

/-- FAR of a link (R412, R415): the far die, the far package of a Strand port, 0 for Tether. -/
def linkFar (l : Nat) : Nat :=
  if l < 32 then farDie (l / 4) (l % 4) else if l < 48 then (Config.strandFar (l - 32)).toNat else 0

/-- The element of LNKST. -/
def Link.element (l : Link) (num : Nat) : Nat :=
  l.state.code * 2 ^ 61 + l.far * 2 ^ 50 + l.width * 2 ^ 48 + min l.replays 0xFFFF * 2 ^ 32 +
  (if num < 32 then min l.drains 0xFFFF else 0) * 2 ^ 16 + linkBw num * l.width / 2

def execLnkst (n : Node) (s : State) : Host.Outcome State Fault Refusal := fire 0x18C n s false fun x s =>
  let k := field (im n) 5 0
  x.emitAll s [{ out := 0, tok := x.one64 ((s.link k).element k) }]

/-! ### Cycle classes -/

/-- A firing of the element waits with its one Emit (R109). -/
def Elem.heldEmit (e : Elem) : Option Held := e.ready.findSome? (·.held)

/-- The output that a waiting Emit names. -/
def Elem.blockedPort (e : Elem) : Option Nat :=
  ((e.emitq.head?.bind (·.dests.head?)).map (·.1)).orElse fun _ => e.heldEmit.map (·.dest)

/-- The cores whose array works on an operation. -/
def Op.arrays (o : Op) : List Nat := if o.kind == .matrix && o.st == .active then mxaCores o.opc o.instr o.fir.n else []

/-- A firing of the element starts or continues in a cycle, this one or a later one (R177, R229, R442). -/
def State.firesAt (s : State) (n elem now : Nat) : Bool :=
  let e := s.elem n elem
  (match e.firedAt with | some f => f.1 == now | none => false) || now < e.busy ||
    (elem == 84 && s.ops.any fun o => o.arrays.contains n)

/-- The tokens of the context that wait at an element: acceptance number, slot and port; the trigger of a deferred slot read is one
(R202). -/
def State.waitingAt (s : State) (n elem : Nat) : List (Nat × Nat × Nat) :=
  (((s.elem n elem).conc.filter fun x => some x.tok.tag.ctx == (s.core n).owner).map fun x => (x.seq, x.slot, x.tok.port.toNat)) ++
  ((s.opsAt n elem).filter (·.kind == .slotRead)).map fun o => (o.fir.seq, o.fir.slot, ((o.fir.inputs.head?).map (·.port.toNat)).getD 0)

/-- The class of an element's cycle, this one or a later one, in the codes of CYC (R442), with the event code of the slot or port it
names (R444). -/
def State.cycleClass (s : State) (n elem now : Nat) : Nat × Option Nat :=
  let e := s.elem n elem
  if (s.core n).applied = some now then (3, none)
  else if s.firesAt n elem now then (0, none)
  else if !e.emitq.isEmpty || e.heldEmit.isSome then (2, e.blockedPort.map (0x10 + ·))
  else if 72 ≤ elem && elem < 80 && 32 ≤ (s.ops.filter fun o => o.kind == .mem && o.fir.n == n && o.fir.elem == elem).length then (2, none)
  else match leastBy (fun (a b : Nat × Nat × Nat) => a.1 < b.1) (s.waitingAt n elem) with
    | some x => (1, some (0x80 + 4 * x.2.1 + x.2.2))
    | none => (4, none)

/-- Account for `k` cycles at one element (R443, R444). -/
def State.countCycles (s : State) (n elem k : Nat) : State :=
  let e := s.elem n elem
  match (s.core n).owner with
  | none => s
  | some c =>
    if e.sel0 = 0 ∧ e.sel1 = 0 then s
    else
      let add (s : State) (now k : Nat) : State :=
        if k = 0 then s
        else
          let (cls, name) := s.cycleClass n elem now
          let s := s.count c n elem (cls + 1) k
          match name with | some code => s.count c n elem code k | none => s
      let on := min (k - 1) (e.busy - (s.cycle + 1))
      add (add (add s s.cycle (min 1 k)) (s.cycle + 1) on) (s.cycle + 1 + on) (k - 1 - on)

/-! ### Counter records -/

def State.findCount (s : State) (c : BitVec 6) (va : Nat) : Option Count := s.counts.find? fun r => r.ctx == c && r.va == va

/-- The trace records of an element for `k` cycles (R446): one for each cycle that is a multiple of 2^(P+8) and in which it fires. They are on
their way to the ring from then on. -/
def State.sample (s : State) (n elem k : Nat) : State :=
  let e := s.elem n elem
  match e.armed, (s.core n).owner, e.firedAt with
  | some (va, _, _, start), some c, some (_, w0, w1) => match s.findCount c va with
    | none => s
    | some r =>
      let p := 2 ^ (r.per + 8)
      if r.per = 0 || r.ring = 0 || r.own != start || s.halted c then s
      else
        let first := (s.cycle + p - 1) / p * p
        let at_ := ((List.range ((s.cycle + k - first + p - 1) / p)).map fun i => first + p * i).filter (s.firesAt n elem)
        s.setElem n elem { e with traced := e.traced ++ at_.map fun (t : Nat) =>
          (va, w0 + BitVec.ofNat 64 ((s.cycleClass n elem t).1 * 2 ^ 31), w1, BitVec.ofNat 64 t) }
  | _, _, _ => s

/-- Account for `k` cycles at every element that counts. -/
def State.countAll (s : State) (k : Nat) : State :=
  s.elems.foldl (fun s x => (s.sample (x.1 / 128) (x.1 % 128) k).countCycles (x.1 / 128) (x.1 % 128) k) s

/-- Replace the count of a record. -/
def State.putCount (s : State) (r : Count) : State :=
  { s with counts := s.counts.filter (fun q => !(q.ctx == r.ctx && q.va == r.va)) ++ [r] }

/-- Add an element's counters to the totals of the record that its present count has armed there, clear them, and have the device
write the totals (R443, R448, R449). -/
def State.latch (s : State) (n elem : Nat) : State :=
  let e := s.elem n elem
  let s := s.setElem n elem { e with ctr0 := 0, ctr1 := 0 }
  match e.armed, (s.core n).owner with
  | some (va, _, _, start), some c => match s.findCount c va with
    | none => s
    | some r =>
      if r.own ≠ start then s
      else
        let s := s.putCount { r with sum0 := satAdd 64 r.sum0 e.ctr0.toNat, sum1 := satAdd 64 r.sum1 e.ctr1.toNat }
        let (id, s) := s.newId
        { s with ops := s.ops ++ [{ id := id, kind := .counter, fir := { n := n, elem := 90, tag := { ctx := c } }, instr := noNode,
                                    opc := 0x190, cap := {}, st := .active, nums := [va], since := s.cycle }] }
  | _, _ => s

/-! ### CTRIG (R447 to R449) -/

def ctrig (n : Node) (s : State) : Host.Outcome State Fault Refusal := fire 0x190 n s false fun x s =>
  let (id, s) := s.newId
  s.addOp { x.op s id .counter with st := .active }

def execCtrigStart (n : Node) (s : State) : Host.Outcome State Fault Refusal := ctrig n s

def execCtrigStop (n : Node) (s : State) : Host.Outcome State Fault Refusal := ctrig n s

/-- The elements of a context within the scope instance that holds a core. -/
def State.scopeElems (s : State) (c : BitVec 6) (n scope : Nat) : List Nat :=
  (List.range 160).flatMap fun m =>
    if (s.core m).owner == some c && scopeLevel n m ≤ levelOf scope then (List.range 90).map (elemKey m) else []

/-- The device writes the totals of a record that counts; a failure waits for the record's stop (R449). -/
def State.totalsStep (s : State) (o : Op) : State :=
  let c := o.fir.tag.ctx
  match s.findCount c (o.nums.getD 0 0) with
  | none => s.dropOp o.id
  | some r => match State.writeWords s c r.n r.own (r.va + 24) [r.sum0, r.sum1] with
    | (.ok _, s) => s.dropOp o.id
    | (.stall, s) => s
    | (.fail k _, s) => (s.putCount { r with fail := r.fail.orElse fun _ => some (k, errAddr false (r.va + 24)) }).dropOp o.id

/-- A failure of an access to the record (R259). -/
def State.counterFail (s : State) (o : Op) (cause addr : Nat) : State :=
  if cause = 0 then s.stopOp o 2 addr else s.failOp (o.failing 0 cause addr)

/-- A start (R448): W0 and W1 are written, the count begins anew, an earlier one on the record being discarded (R449), and the start
packets leave. -/
def State.counterStart (s : State) (o : Op) (va : Nat) : State :=
  let x := o.fire
  let c := o.fir.tag.ctx
  let ev0 := field (im o.instr) 7 0
  let ev1 := field (im o.instr) 15 8
  let per := field (im o.instr) 20 16
  let scope := field (md o.instr) 2 0
  match (if per = 0 then (.ok [], o, s) else Op.readRun s 8 false (va + 48) 2 o []) with
  | (.wait, o, s) => s.putOp o
  | (.fail k a, o, s) => s.counterFail o k a
  | (.ok b, o, s) =>
    let w0 := 1 * 2 ^ 56 + ev0 * 2 ^ 48 + ev1 * 2 ^ 40 + scope * 2 ^ 37
    match Op.writeRun s 8 [(va, w0), (va + 8, s.cycle)] o with
    | (.wait, o, s) => s.putOp o
    | (.fail k a, o, s) => s.counterFail o k a
    | (.ok _, o, s) =>
      let r : Count := { ctx := c, va := va, n := o.fir.n, ev0 := ev0, ev1 := ev1, per := per, ring := leNat (b.take 8),
                         log := field (leNat (b.drop 8)) 4 0, starts := s.scopeElems c o.fir.n scope, own := o.id }
      (s.putCount r).complete o [plainOut (x.one64 w0)]

/-- A stop (R448, R449): a record that does not count is left alone; else the stop packets leave, and once they have all arrived
the device writes the rest of the record. Its output waits for all that the device has written of the record. -/
def State.counterStop (s : State) (o : Op) (va : Nat) : State :=
  let x := o.fire
  let c := o.fir.tag.ctx
  match Op.readRun s 8 false va 1 o [] with
  | (.wait, o, s) => s.putOp o
  | (.fail k a, o, s) => s.counterFail o k a
  | (.ok b, o, s) =>
    let w0 := leNat b
    if o.book = 0 then
      if field w0 63 56 ≠ 1 then s.complete o [{ out := 0, tok := x.one64 w0, paths := 1, scope := 3 }]
      else
        let r : Count := (s.findCount c va).getD { ctx := c, va := va, n := o.fir.n, ev0 := 0, ev1 := 0, per := 0, ring := 0, log := 0 }
        (s.putCount { r with stops := s.scopeElems c o.fir.n (field (md o.instr) 2 0), stopper := some o.id }).putOp { o with book := 1 }
    else match s.findCount c va with
      | none => s.dropOp o.id
      | some r =>
        let o := { o with vals := [r.own] }
        if !r.stops.isEmpty || s.ops.any (fun q => q.kind == .counter && q.fir.elem == 90 && q.fir.tag.ctx == c && q.nums.head? == some va) then s
        else if let some (k, a) := r.fail then (s.putCount { r with stopper := none, fail := none }).counterFail o k a
        else
          let w0 := field w0 55 37 * 2 ^ 37 + 2 * 2 ^ 56
          let ws := [(va + 24, r.sum0), (va + 32, r.sum1), (va + 40, r.drops * 2 ^ 32 + r.reached), (va + 16, s.cycle), (va, w0)]
          match Op.writeRun s 8 ws o with
          | (.wait, o, s) => s.putOp o
          | (.fail k a, o, s) => (s.putCount { r with stopper := none }).counterFail o k a
          | (.ok _, o, s) =>
            let left := s.elems.any fun e => (match e.2.armed with | some a => a.1 == va && a.2.2.2 == r.own | none => false) &&
              (s.core (e.1 / 128)).owner == some c
            let s := if left then s.putCount { r with stopper := none }
              else { s with counts := s.counts.filter fun q => !(q.ctx == c && q.va == va) }
            s.complete o [{ out := 0, tok := x.one64 w0, paths := 1, scope := 3 }]

/-- One step of a CTRIG: operations on one record follow one another (R449). -/
def State.counterStep (s : State) (o : Op) : State :=
  let va := o.fire.i64 0 0
  let busy := match s.findCount o.fir.tag.ctx va with
    | some r => match r.stopper with | some k => k != o.id && (s.findOp k).isSome | none => false
    | none => false
  if o.fir.elem = 90 then s.totalsStep o
  else if busy then s
  else if va % 64 ≠ 0 then s.failOp (o.failing 0 8 (errAddr false va))
  else if bitOf (md o.instr) 3 then s.counterStop o va
  else s.counterStart o va

/-- START_PACKET (R448): the element clears its counters and counts from then on. -/
def execStartPacket (n elem : Nat) (s : State) : Host.Outcome State Fault Refusal :=
  .next (match s.counts.find? fun r => r.starts.contains (elemKey n elem) with
    | none => s
    | some r =>
      let s := s.putCount { r with starts := r.starts.filter (· != elemKey n elem), reached := r.reached + 1 }
      s.modElem n elem fun e => { e with ctr0 := 0, ctr1 := 0, armed := some (r.va, r.ev0, r.ev1, r.own) })

/-- STOP_PACKET (R448): the element adds its counts and stops counting; it comes after the start packet of its record, and after the
element's trace records. -/
def execStopPacket (n elem : Nat) (s : State) : Host.Outcome State Fault Refusal :=
  .next (match s.counts.find? fun r => r.stops.contains (elemKey n elem) && !r.starts.contains (elemKey n elem) with
    | none => s
    | some r =>
      let mine : Bool := match (s.elem n elem).armed with | some a => a.1 == r.va | none => false
      if (s.elem n elem).traced.any (·.1 == r.va) then s else
      let s := if mine then (s.latch n elem).modElem n elem fun e => { e with armed := none } else s
      match s.findCount r.ctx r.va with
      | none => s
      | some r => s.putCount { r with stops := r.stops.filter (· != elemKey n elem) })

/-! ### Trace (R446) -/

/-- TRACE_SAMPLE (R446): the oldest trace record of an element reaches its ring; one that finds the ring full is dropped. Records come
in the order of these events. One whose count has ended, or whose write fails, is lost (log 33). -/
def execTraceSample (n elem : Nat) (s : State) : Host.Outcome State Fault Refusal :=
  .next (
    match (s.elem n elem).traced, (s.core n).owner with
    | (va, w0, w1, w2) :: rest, some c =>
      let gone (s : State) : State := s.modElem n elem fun e => { e with traced := rest }
      match s.findCount c va with
      | none => gone s
      | some r =>
        if 2 ^ r.log ≤ r.written then gone (s.putCount { r with drops := min (r.drops + 1) (2 ^ 32 - 1) })
        else match State.writeWords s c n r.own (r.ring + 32 * r.written) [w0.toNat, w1.toNat, w2.toNat, 0] with
          | (.stall, s) => s
          | (_, s) => gone (s.putCount { r with written := r.written + 1 })
    | _, _ => s)

end Sys2Proof.Machine
end

