-- ==== Sys2Proof/Machine/Stream.lean ====
section
/-! DEFINITION. The configuration stream (R49 to R53, R407): regions, staged element fields, COMMIT, DRAINREQ (R215), the
overlay commands (R362) and QUOTA. -/

namespace Sys2Proof.Machine

/-- A CONTROL word with a context (R49). -/
def ctlWord (cmd : Nat) (c : BitVec 6) : BitVec 32 := BitVec.ofNat 32 (2 ^ 31 + cmd * 2 ^ 26 + c.toNat * 2 ^ 20)

/-- A command word acts only in a bindery's stream; `f` is given the bindery and the core the word was sent to. -/
def inStream (s : State) (f : Nat → Nat → State → State) : Host.Outcome State Fault Refusal :=
  match s.stream with
  | none => .fault .noStream
  | some (b, n) => .next (f b n { s with stream := none })

/-- ILLEGAL_OP on the context that owns a core (R51, R356). -/
def State.illegalAt (s : State) (n : Nat) : State :=
  match (s.core n).owner with
  | some c => s.raiseAt c n 0x0001
  | none => s

/-- ILLEGAL_OP that an element raises (R44, R50). -/
def State.illegalElem (s : State) (n e : Nat) : State :=
  match (s.core n).owner with
  | some c => s.raise c 0 { cause := 0x0001, count := 1, die := BitVec.ofNat 4 (dieOf n), core := BitVec.ofNat 5 (coreIn n),
                            elem := BitVec.ofNat 7 e, cycle := BitVec.ofNat 64 s.cycle }
  | none => s

/-- The core that the latest SELECT of a stream names; none where it is not populated (R13). -/
def Feed.target (x : Feed) : Option Nat :=
  match x.sel with
  | some (d, c) => if d < 8 ∧ c < 20 then some (coreNum d c) else none
  | none => none

/-- A word outside a region is discarded and the core it names raises ILLEGAL_OP (R51). -/
def State.outOfRegion (s : State) (n : Option Nat) : State :=
  match n with
  | some n => s.illegalAt n
  | none => s

/-- Discard what a region has staged on its cores. -/
def State.unstage (s : State) (cores : List Nat) : State :=
  cores.foldl (fun s n => s.modCore n fun c => { c with staged := [], bad := [] }) s

/-- BEGIN (R51): a region inside an open one aborts it, and its cores raise ILLEGAL_OP. -/
def execRegionBegin (ctx : BitVec 6) (s : State) : Host.Outcome State Fault Refusal := inStream s fun b k s =>
  let old := (s.feed b k).touched
  let s := if (s.feed b k).region.isSome then old.foldl (fun s n => s.illegalAt n) (s.unstage old) else s
  s.modFeed b k fun x => { x with region := some ctx, touched := [], odd := false, ext := 0, extSet := false }

/-- SELECT (R51). -/
def execConfigSelect (die : BitVec 4) (core : BitVec 5) (s : State) : Host.Outcome State Fault Refusal :=
  inStream s fun b k s =>
    let n := if die.toNat < 8 ∧ core.toNat < 20 then some (coreNum die.toNat core.toNat) else none
    if (s.feed b k).region.isNone then s.outOfRegion n
    else s.modFeed b k fun x => { x with sel := some (die.toNat, core.toNat),
                                         touched := match n with | some n => insertNat n x.touched | none => x.touched }

/-- EXTEND (R50). -/
def execExtend (high : BitVec 16) (s : State) : Host.Outcome State Fault Refusal := inStream s fun b k s =>
  if (s.feed b k).region.isNone then s.outOfRegion (s.feed b k).target
  else s.modFeed b k fun x => { x with ext := high, extSet := true }

/-- The 32-bit fields (R50). -/
def wideField (f : Nat) : Bool := (0x09 ≤ f && f ≤ 0x0D) || (0x11 ≤ f && f ≤ 0x13) || f == 0x18

/-- A field that an element has (R50); the numbers beyond the table are taken as its reserved ones are (log 49). -/
def knownField (f : Nat) : Bool := f ≤ 0x0D || (0x10 ≤ f && f ≤ 0x18)

/-- A WRITE that makes its element, or its core where the element is not populated, raise ILLEGAL_OP at COMMIT (R15, R50). -/
def badWrite (elem field_ value high : Nat) : Bool :=
  90 ≤ elem || !knownField field_ || (!wideField field_ && high != 0) ||
  (field_ == 0x08 && slotCount elem ≤ field value 4 0)

/-- WRITE (R51): staged on the selected core; one for a core that is not populated is dropped (log 49). -/
def execConfigWrite (elem field : BitVec 7) (value : BitVec 16) (s : State) : Host.Outcome State Fault Refusal :=
  inStream s fun b k s =>
    let x := s.feed b k
    if x.region.isNone then s.outOfRegion x.target
    else
      let s := s.modFeed b k fun x => { x with ext := 0, extSet := false }
      match x.target with
      | none => s
      | some n =>
        let s := s.modFeed b k fun x => { x with touched := insertNat n x.touched }
        if badWrite elem.toNat field.toNat value.toNat x.ext.toNat then s.modCore n fun c => { c with bad := insertNat elem.toNat c.bad }
        else s.modCore n fun c => { c with
          staged := c.staged ++ [(elem.toNat, field.toNat, x.ext.toNat, value.toNat)] }

/-- Halfword `h` of a word replaced. -/
def putHalf (w : Word) (h value : Nat) : Word :=
  BitVec.ofNat 64 (field w.toNat 63 (16 * h + 16) * 2 ^ (16 * h + 16) + value % 2 ^ 16 * 2 ^ (16 * h) +
    (if h = 0 then 0 else field w.toNat (16 * h - 1) 0))

/-- A staged write of a slot field. -/
def Slot.put (x : Slot) (f full value : Nat) : Slot :=
  match f with
  | 0x09 => { x with dest0 := BitVec.ofNat 32 full }
  | 0x0A => { x with dest1 := BitVec.ofNat 32 full }
  | 0x0B => { x with dest2 := BitVec.ofNat 32 full }
  | 0x0C => { x with nodeid := BitVec.ofNat 18 full }
  | 0x0D => { x with grank := BitVec.ofNat 18 full }
  | 0x10 => { x with sfmt := BitVec.ofNat 8 value }
  | 0x11 => { x with conv0 := BitVec.ofNat 32 full }
  | 0x12 => { x with conv1 := BitVec.ofNat 32 full }
  | 0x13 => { x with conv2 := BitVec.ofNat 32 full }
  | f => if f < 4 then { x with iw := putHalf x.iw f value } else { x with lw := putHalf x.lw (f - 4) value }

/-- Apply one staged write to an element (R50). -/
def Elem.put (e : Elem) (f high value : Nat) : Elem :=
  let full := high * 2 ^ 16 + value
  match f with
  | 0x08 => { e with slotsel := BitVec.ofNat 5 value }
  | 0x14 => { e with eclass := BitVec.ofNat 2 value }
  | 0x15 => { e with equota := BitVec.ofNat 9 value }
  | 0x16 => { e with ctrsel0 := BitVec.ofNat 16 value }
  | 0x17 => { e with ctrsel1 := BitVec.ofNat 16 value }
  | 0x18 => { e with sshare := BitVec.ofNat 32 full }
  | f => { e with slots := Assoc.set {} e.slots e.slotsel.toNat ((e.slot e.slotsel.toNat).put f full value) }

/-- The slots of an element whose instruction words staged writes change, from its selected slot on (R50). -/
def slotsWritten (elem : Nat) : Nat → List (Nat × Nat × Nat × Nat) → List Nat
  | _, [] => []
  | sel, (e, f, _, v) :: r =>
    if e != elem then slotsWritten elem sel r
    else if f == 0x08 then slotsWritten elem (field v 4 0) r
    else if f < 4 then insertNat sel (slotsWritten elem sel r)
    else slotsWritten elem sel r

/-- One of the slots of an element holds a reserved opcode (R44), 0x000 included. -/
def Elem.reservedOp (e : Elem) (slots : List Nat) : Bool := slots.any fun k => (rowOf (field (e.slot k).iw.toNat 63 55)).isNone

/-- COMMIT on one core (R51, R52, R443): counters are latched, every staged write is applied as one step, waiting tokens match
under the new image, and what was illegal raises ILLEGAL_OP, on its element or, with a reserved command in the region (`odd`)
or a WRITE to no element, on the core. A node whose opcode belongs to an element of another type (R44) gets no fate in R50: it is
applied and fires where it stands (DESIGN CHOICE, log 49). -/
def State.commitCore (s : State) (n : Nat) (odd : Bool) : State :=
  let c := s.core n
  let es := (c.staged.map (·.1)).eraseDups
  let s := (List.range 90).foldl (fun s e => if (s.elem n e).armed.isSome || (s.elem n e).ctr0 != 0 || (s.elem n e).ctr1 != 0 then s.latch n e else s) s
  let wrote := es.map fun e => (e, slotsWritten e (s.elem n e).slotsel.toNat c.staged)
  let s := c.staged.foldl (fun s (e, f, high, value) => s.modElem n e fun x => x.put f high value) s
  let s := s.modCore n fun c => { c with staged := [], bad := [], applied := some s.cycle }
  let bad := ((wrote.filter fun p => (s.elem n p.1).reservedOp p.2).map (·.1)).foldl (fun l e => insertNat e l) (c.bad.filter (· < 90))
  let s := bad.foldl (fun s e => s.illegalElem n e) s
  let s := if odd || c.bad.any (90 ≤ ·) then s.illegalAt n else s
  match c.owner with
  | some x => if s.halted x then s else es.foldl (fun s e => (s.rematchElem n e).settleAll n e true) s
  | none => s

/-- The entry that the bindery publishes into a start pipe (R417): the launch record's ARG. -/
def startEntry (g : Group) (p seq cycle : Nat) (x : Pipe) : PEntry :=
  let t : Tok := { tag := { ctx := g.ctx }, data := leBytes 8 (g.words.getD 11 0).toNat }
  { seq := seq, tok := t, replica := match g.consumer p with | some k => g.route k x t | none => 0, since := cycle }

/-- Bind the pipes of a group that is CONFIGURED (R306, R420): each is EMPTY; a start pipe, which has a consumer and no producer,
holds its one entry, numbered from `seq` on, and no producer is to come. -/
def Group.bindPipes (g : Group) (seq cycle : Nat) : Group :=
  { g with pipes := g.pipes.zipIdx.map fun (x, p) =>
      if x.state != .unbound then x
      else if x.prod = 0 ∧ (g.consumer p).isSome then { x with state := .eosSeen, entries := [startEntry g p (seq + p) cycle x] }
      else { x with state := .empty } }

/-- A region of a group has committed (R215, R325): with the last one its instances are RESIDENT. -/
def State.regionDone (s : State) (b : Nat) (c : BitVec 6) : State :=
  match s.groups.find? fun g => g.die == b && g.ctx == c && g.state == .placing && g.todo != 0 with
  | none => s
  | some g =>
    let s := s.modGroup g.serial fun g => { g with todo := g.todo - 1 }
    if g.todo = 1 then
      let s : State := { s with fresh := s.fresh + g.pipes.length }
      (s.modGroup g.serial fun h => { h.bindPipes (s.fresh - g.pipes.length) s.cycle with state := .resident, insts := h.insts.map fun i =>
        if i.state == .placed then { i with state := .resident } else i }).settleGroups
    else s

/-- COMMIT (R51): the selected cores commit one after another, in an order left open; the region ends with the last. -/
def execConfigCommit (s : State) : Host.Outcome State Fault Refusal := inStream s fun b k s =>
  let x := s.feed b k
  match x.region with
  | none => s
  | some c =>
    let (i, s) := s.choice (max x.touched.length 1)
    let s := match x.touched[i]? with
      | some n => (s.commitCore n x.odd).modFeed b k fun y => { y with touched := y.touched.filter (· != n) }
      | none => s
    if (s.feed b k).touched.isEmpty then
      (s.modFeed b k fun y => { y with region := none, odd := false, ext := 0, extSet := false }).regionDone b c
    else s

/-- ABORT (R51). -/
def execRegionAbort (s : State) : Host.Outcome State Fault Refusal := inStream s fun b k s =>
  (s.unstage (s.feed b k).touched).modFeed b k fun x => { x with region := none, touched := [], odd := false, ext := 0, extSet := false }

/-- A reserved command (R49): ILLEGAL_OP at COMMIT on the region's cores; outside any region, where no COMMIT comes, it does
nothing (log 49). -/
def State.reservedWord (s : State) (b k : Nat) : State :=
  if (s.feed b k).region.isSome then s.modFeed b k fun x => { x with odd := true } else s

/-- Cut an instance's input queues at their tails (R215). One that is RESIDENT or PARKED with no token queued drops the FIRE
requests that wait, since it goes to DRAINED with them unserved. -/
def Group.cutInst (g : Group) (i : KInst) : KInst :=
  let ps : List Nat := match g.kernels[i.kernel]? with | some k => k.inputs.map (fun (q : PortRec) => q.pipe) | none => []
  let drops : Bool := i.state != .firing && ps.all fun p => (g.queue i p).isEmpty
  { i with cut := true, state := .draining, fires := if drops then [] else i.fires, lastCut := ps.filterMap fun (p : Nat) => ((g.queue i p).getLast?).map fun (e : Nat × Tok) => (p, e.1) }

/-- DRAINREQ (R215): the input queues of the context's instances on the core are cut, and the instances drain. -/
def execDrainreq (ctx : BitVec 6) (s : State) : Host.Outcome State Fault Refusal := inStream s fun _ n s =>
  let cuts (i : KInst) : Bool := i.n == n && !i.cut && (i.state == .resident || i.state == .parked || i.state == .firing)
  let groups := s.groups.map fun (g : Group) =>
    if g.ctx == ctx then { g with insts := g.insts.map fun i => if cuts i then g.cutInst i else i } else g
  State.settleGroups { s with groups := groups }

/-- SAVEOVL (R362): the core's state becomes a shift path. -/
def execSaveovl (ctx : BitVec 6) (s : State) : Host.Outcome State Fault Refusal := inStream s fun _ n s =>
  if (s.core n).owner == some ctx && (s.ctx ctx).state == .saving then s.modCore n fun c => { c with shift := 1 } else s

/-- RESTOREOVL (R364). -/
def execRestoreovl (ctx : BitVec 6) (s : State) : Host.Outcome State Fault Refusal := inStream s fun _ n s =>
  if (s.core n).owner == some ctx && (s.ctx ctx).state == .restoring then s.modCore n fun c => { c with shift := 2 } else s

/-- QUOTA (R53): on the core of the latest SELECT, at once; tokens beyond it spill. Values above 256 and elements that are not
populated are log 49's. -/
def execQuota (elem : BitVec 7) (entries : BitVec 9) (s : State) : Host.Outcome State Fault Refusal := inStream s fun b k s =>
  match (s.feed b k).target with
  | none => s
  | some n =>
    if 90 ≤ elem.toNat then s
    else (s.modElem n elem.toNat fun e => { e with equota := entries }).settleAll n elem.toNat true

/-- COMMAND_APPLIED_REPORT (R407): a core reports one applied command, and the window moves on. -/
def execCommandAppliedReport (bindery n : Nat) (s : State) : Host.Outcome State Fault Refusal :=
  .next (if (s.feed bindery n).unsaid = 0 then s else s.modFeed bindery n fun x => { x with unsaid := x.unsaid - 1 })

/-- What a BEGIN waits for before it is sent (R420): a DRAINREQ sent since the last BEGIN has been applied, and every instance
of its context on the core, the ones of the launch that opens the region apart, is DRAINED or EVICTED. -/
def State.beginWaits (s : State) (b n : Nat) (w : BitVec 32) : Bool :=
  match decodeWord w.toNat with
  | .ok (.regionBegin _) =>
    let x := s.feed b n
    x.drains.any fun c =>
      (x.flight.any fun y => y.2.1 == ctlWord 3 c) ||
      s.groups.any fun g => g.ctx == c && g.insts.any fun i =>
        i.n == n && (i.state == .resident || i.state == .firing || i.state == .parked || i.state == .draining)
  | _ => false

/-- A bindery may send its next command word (R407): at most 256 of that core's are not reported as applied. -/
def State.maySend (s : State) (b : Nat) : Bool :=
  match (s.bind b).stream with
  | [] => false
  | (n, w) :: _ => (s.feed b n).flight.length + (s.feed b n).unsaid < 256 && !s.beginWaits b n w

/-- The bindery sends its next command word, numbered for its core (R407). -/
def State.sendWord (s : State) (b : Nat) : State :=
  match (s.bind b).stream with
  | [] => s
  | (n, w) :: rest =>
    if !s.maySend b then s
    else
      let drains (x : Feed) : List (BitVec 6) := match decodeWord w.toNat with
        | .ok (.drainreq c) => if x.drains.contains c then x.drains else c :: x.drains
        | .ok (.regionBegin _) => []
        | _ => x.drains
      (s.modBind b fun x => { x with stream := rest }).modFeed b n fun x =>
        { x with next := x.next + 1, drains := drains x, flight := x.flight ++ [(x.next, w, false)] }

/-- A command word reaches its core, in any order; the core holds it until its number is due (R407). -/
def State.commandCame (s : State) (b n : Nat) (number : BitVec 16) : State :=
  s.modFeed b n fun x => { x with flight := x.flight.map fun y => if y.1 = number then (y.1, y.2.1, true) else y }

/-- The word is a COMMIT with more than one core left to commit: it is applied again for the next. -/
def Feed.commitStays (x : Feed) (w : BitVec 32) : Bool :=
  (match decodeWord w.toNat with | .ok .configCommit => true | _ => false) && 1 < x.touched.length

/-- The word that a core applies next, once it is there (R53, R407), with the state in which it runs. -/
def State.takeWord (s : State) (b n : Nat) : Option (BitVec 32 × State) :=
  let x := s.feed b n
  match x.flight.find? fun y => y.1 == x.due && y.2.2 with
  | none => none
  | some (number, w, _) =>
    let s := if x.commitStays w then s
      else s.modFeed b n fun x => { x with due := x.due + 1, unsaid := x.unsaid + 1, flight := x.flight.filter (·.1 != number) }
    some (w, { s with stream := some (b, n) })

/-- What streams had for cores that their context leaves: words not yet sent are dropped, those sent count as applied, and open
regions of the context are gone. -/
def State.dropWords (s : State) (c : BitVec 6) (cores : List Nat) : State :=
  { s with
    binderies := s.binderies.foldl (fun m (b, x) => Assoc.set {} m b { x with
      stream := x.stream.filter fun w => !cores.contains w.1 }) s.binderies,
    feeds := s.feeds.foldl (fun m (k, x) => Assoc.set {} m k (
      let x := if x.region == some c then { x with region := none, touched := [] } else x
      if cores.contains (k % 160) then { x with flight := [], due := x.next, drains := [] } else x)) s.feeds }

end Sys2Proof.Machine
end

