-- ==== Sys2Proof/Machine/Folio.lean ====
section
/-! DEFINITION. Folios (R22 to R30): the reading of the five sections, and the bindery's checks from LE_MAGIC to LE_ORDER. -/

namespace Sys2Proof.Machine

/-- Load error codes (R30, R315). -/
def leMagic : Nat := 0x01
def leVersion : Nat := 0x02
def leDigest : Nat := 0x03
def leLayout : Nat := 0x04
def leKernel : Nat := 0x05
def leOpcode : Nat := 0x06
def leField : Nat := 0x07
def leJet : Nat := 0x08
def leLink : Nat := 0x09
def leConv : Nat := 0x0A
def leOrder : Nat := 0x0B
def leClass : Nat := 0x0C
def leWellform : Nat := 0x0D
def leResidency : Nat := 0x0E
def lePayload : Nat := 0x0F
def lePartw : Nat := 0x10
def lePlace : Nat := 0x11
def leRecord : Nat := 0x12
def leContext : Nat := 0x13
def lePartition : Nat := 0x14
def lePipecap : Nat := 0x15
def leMap : Nat := 0x16
def leRead : Nat := 0x17

/-- The node index of a report that concerns no node (R316). -/
def noNodeIndex : Nat := 0x3FFFF

/-- A failed check: its code and node. -/
abbrev LoadFail := Nat × Nat

/-- A node of a folio: its words, opcode, row and fields; none where no field reading exists. -/
structure FNode where
  iw   : Nat
  lw   : Nat
  opc  : Nat
  row  : Option Row
  node : Option Node

/-- A checked folio: kernels, nodes, constant pool, conversions (consumer, port, CONV node), order table, digest. -/
structure Folio where
  kernels : List Kernel
  nodes   : List FNode
  pool    : List Byte
  convs   : List (Nat × Nat × Nat)
  order   : List Nat
  digest  : List Byte

/-- Little-endian number of `k` bytes at an offset. -/
def numAt (b : List Byte) (off k : Nat) : Nat := leNat ((b.drop off).take k)

/-- A node record as a folio node. -/
def FNode.ofWords (iw lw : Nat) : FNode :=
  { iw := iw, lw := lw, opc := field iw 63 55, row := rowOf (field iw 63 55), node := fieldsOf iw ((destsOf lw).getD []) }

/-- The node of an index. -/
def FNode.ofRecord (b : List Byte) (off : Nat) : FNode := FNode.ofWords (numAt b off 8) (numAt b (off + 8) 8)

/-! ### Header and layout (R22 to R24) -/

/-- Offset and length of section `i` of the header: kernels, nodes, pool, conversions, order. -/
def section_ (b : List Byte) (i : Nat) : Nat × Nat := (numAt b (16 + 8 * i) 4, numAt b (20 + 8 * i) 4)

/-- TOTLEN. -/
def folioLen (b : List Byte) : Nat := numAt b 8 4

/-- The checks from LE_MAGIC to LE_DIGEST; a TOTLEN out of its bounds is LE_LAYOUT before the digest (R30). -/
def headerFail (b : List Byte) : Option Nat :=
  if numAt b 0 4 ≠ 0x4F46_5750 then some leMagic
  else if numAt b 4 2 ≠ 1 ∨ numAt b 6 2 ≠ 0 then some leVersion
  else if folioLen b % 16 ≠ 0 ∨ folioLen b < 112 then some leLayout
  else if sha384 (b.take (folioLen b - 48)) ≠ (b.drop (folioLen b - 48)).take 48 then some leDigest
  else none

/-- The five sections lie in order, aligned, apart and inside the folio (R23). -/
def sectionsOk (b : List Byte) : Nat → Nat → Nat → Bool
  | _, _, 0 => true
  | i, low, k + 1 =>
    let (off, len) := section_ b i
    off % 16 == 0 && low ≤ off && off + len ≤ folioLen b - 48 && sectionsOk b (i + 1) (off + len) k

/-- Kernel records as (first node, node count). -/
def kernelRanges (b : List Byte) : List (Nat × Nat) :=
  (List.range (numAt b 12 2)).map fun k => (numAt b ((section_ b 0).1 + 32 * k) 4, numAt b ((section_ b 0).1 + 32 * k + 4) 4)

/-- The node ranges are contiguous and cover the node table (R24). -/
def rangesOk : Nat → Nat → List (Nat × Nat) → Bool
  | at_, total, [] => at_ == total
  | at_, total, (f, n) :: r => f == at_ && rangesOk (at_ + n) total r

/-- LE_LAYOUT. -/
def layoutBad (b : List Byte) : Bool :=
  let kc := numAt b 12 2
  let nl := (section_ b 1).2
  numAt b 14 2 != 0 || numAt b 56 8 != 0 || !(1 ≤ kc && kc ≤ 4096) || !sectionsOk b 0 64 5 || nl % 16 != 0 ||
  !(1 ≤ nl / 16 && nl / 16 ≤ 262144) || (section_ b 0).2 != 32 * kc || (section_ b 4).2 != 4 * (nl / 16) ||
  (section_ b 3).2 % 8 != 0 || !rangesOk 0 (nl / 16) (kernelRanges b)

/-! ### Kernel, port and space records (R24 to R27) -/

/-- A kernel record with its port and space records, and whether a field is out of range (LE_KERNEL). -/
def kernelAt (b pool : List Byte) (k : Nat) (nodes : List FNode) : Kernel × Bool :=
  let o := (section_ b 0).1 + 32 * k
  let first := numAt b o 4
  let count := numAt b (o + 4) 4
  let fsz := numAt b (o + 8) 2
  let nsp := numAt b (o + 10) 2
  let npt := numAt b (o + 12) 2
  let attr := numAt b (o + 16) 2
  let po := numAt b (o + 20) 4
  let so := numAt b (o + 24) 4
  let inPool := po + 8 * npt ≤ pool.length && so + 4 * nsp ≤ pool.length
  let prec (i : Nat) : Nat := numAt pool (po + 8 * i) 8
  let srec (i : Nat) : Nat := numAt pool (so + 4 * i) 4
  let ports : List PortRec := (List.range npt).map fun i =>
    { out := bitOf (prec i) 63, rate := field (prec i) 47 32, pipe := field (prec i) 31 20,
      node := field (prec i) 19 2, port := field (prec i) 1 0 }
  let spaces : List SpaceRec := (List.range nsp).map fun i =>
    { wlog := field (srec i) 3 0, parent := if field (srec i) 12 4 = 0x1FF then none else some (field (srec i) 12 4),
      func := bitOf (srec i) 13 }
  let feeds (v pipe : Nat) : Bool := match nodes[v]? with
    | some x => x.opc == 0x160 && (match x.node with | some m => field (im m) 11 0 == pipe | none => true)
    | none => false
  let portBad (i : Nat) : Bool :=
    let r := prec i
    let n := field r 19 2
    field r 62 48 != 0 || field r 47 32 == 0 || n < first || first + count ≤ n ||
    (if bitOf r 63 then field r 1 0 != 0 || !feeds n (field r 31 20) else field r 1 0 == 3)
  let spaceBad (i : Nat) : Bool :=
    let r := srec i
    8 < field r 3 0 || field r 31 14 != 0 || (field r 12 4 != 0x1FF && i ≤ field r 12 4)
  let bad := first ≥ 2 ^ 18 || count = 0 || 1024 < fsz || !(1 ≤ nsp && nsp ≤ 256) || !(1 ≤ npt && npt ≤ 64) || attr ≥ 128 ||
    numAt b (o + 18) 2 != 0 || numAt b (o + 28) 4 != 0 || po % 8 != 0 || so % 4 != 0 || !inPool ||
    (List.range npt).any portBad || (List.range nsp).any spaceBad
  ({ first := first, count := count, framesz := fsz, spaces := spaces, ports := ports, exc := BitVec.ofNat 16 (numAt b (o + 14) 2),
     excv := bitOf attr 6, cls := BitVec.ofNat 2 attr, jord := BitVec.ofNat 3 (field attr 4 2), unchecked := bitOf attr 5,
     main := 0xFFF, aff := false, lowat := 0, hiwat := 0, repl := 1 }, bad)

/-! ### Descriptors (LE_FIELD) -/

/-- A shape record breaks R263. -/
def shapeBad (p : List Byte) (o : Nat) : Bool :=
  let h := numAt p o 8
  let nd := field h 56 54
  let a (d : Nat) : Nat := numAt p (o + 16 + 16 * d) 8
  let rows := (List.range 5).foldl (fun r d => if d = 0 ∨ nd < d then r else r * (field (a d) 16 0 + 1)) 1
  p.length < o + 96 || field h 63 61 == 7 || (field h 63 61 == 6 && field h 58 57 == 3) || 4 < nd || field h 34 0 != 0 ||
  numAt p (o + 8) 8 != 0 || (bitOf h 52 && bitOf h 53) || (!bitOf h 52 && field h 51 35 != 0) ||
  ((List.range 5).any fun d =>
    if nd < d then a d != 0 || numAt p (o + 24 + 16 * d) 8 != 0
    else field (a d) 63 34 != 0 || 65536 < field (a d) 33 17 || 65535 < field (a d) 16 0) || 2 ^ 32 < rows

/-- Bytes of an element of a shape record. -/
def recordSize (h : Nat) : Nat :=
  match field h 63 61 with
  | 0 => 2 ^ field h 60 59
  | 6 => gSize (field h 58 57)
  | f => (Fmt.ofCode f).size

/-- The format and width that an add in memory takes: binary32, binary64, or integers of 32 or 64 bits (R275). -/
def addable (fmt iw : Nat) : Bool := fmt == 1 || fmt == 2 || (fmt == 0 && 2 ≤ iw)

/-- The records of a CPY or CPYW break R275. -/
def copyBad (p : List Byte) (n : Node) (flag : Bool) : Bool :=
  let h1 := numAt p (im n) 8
  let h2 := numAt p (im n + 96) 8
  let cnt (o d : Nat) : Nat := field (numAt p (o + 16 + 16 * d) 8) 16 0
  shapeBad p (im n) || shapeBad p (im n + 96) || (flag && p.length < im n + 200) || field h1 56 54 != field h2 56 54 ||
  ((List.range 5).any fun d => cnt (im n) d != cnt (im n + 96) d) || recordSize h1 != recordSize h2 ||
  (bitOf h1 52 && bitOf h2 52) ||
  (!flag && bitOf (md n) 3 && (field h1 63 61 != field h2 63 61 || !addable (field h1 63 61) (field h1 60 59) ||
    !addable (field h2 63 61) (field h2 60 59))) ||
  ((bitOf h1 52 || bitOf h2 52) && isOrd n && !(field (md n) 2 0 == 4 || field (md n) 2 0 == 5))

/-- A GATH or SCAT descriptor breaks R276. -/
def gathBad (p : List Byte) (n : Node) (add : Bool) : Bool :=
  let w (i : Nat) : Nat := numAt p (im n + 8 * i) 8
  let rowb := field (w 0) 41 25 + 1
  let ef := field (w 0) 57 55
  let ew := field (w 0) 54 53
  p.length < im n + 32 || field (w 0) 59 58 == 0 || field (w 0) 52 42 != 0 || rowb % 8 != 0 || 65536 < rowb ||
  !(1 ≤ field (w 0) 24 0 && field (w 0) 24 0 ≤ 16777215) || field (w 1) 63 40 != 0 ||
  !(1 ≤ field (w 2) 63 40 && field (w 2) 63 40 ≤ 16777215) || (!bitOf (w 0) 63 && w 3 != 0) ||
  (add && (!addable ef ew || rowb % (if ef = 0 then 2 ^ ew else (Fmt.ofCode ef).size) != 0))

/-- A REORD descriptor breaks R278. -/
def reordBad (p : List Byte) (n : Node) : Bool :=
  let w0 := numAt p (im n) 8
  let w1 := numAt p (im n + 8) 8
  let t := reordSize w0
  p.length < im n + 16 || field w0 63 36 != 0 || field w1 63 48 != 0 || t != 2 ^ t.log2 || 8192 < t * reordWidth n ||
  !((List.range t).all fun o => reordMap w0 w1 o < t) ||
  ((List.range t).map (reordMap w0 w1)).eraseDups.length != t

/-- An MCST descriptor breaks R282. -/
def mcstBad (p : List Byte) (n : Node) : Bool :=
  let w0 := numAt p (im n) 8
  let w1 := numAt p (im n + 8) 8
  p.length < im n + 16 || w0 == 0 || 255 < w0 || w1 == 0 || w1 % 8 != 0

/-- A selection descriptor breaks R155. -/
def selBad (p : List Byte) (n : Node) (topk : Bool) : Bool :=
  let w := numAt p (im n) 8
  let k := field w 46 40
  p.length < im n + 8 || field w 63 47 != 0 || field w 39 36 != 0 || field w 31 25 != 0 ||
  !(1 ≤ field w 34 32 && field w 34 32 ≤ 5) || !(1 ≤ field w 24 0 && field w 24 0 ≤ 2 ^ 24) ||
  (if topk then !(1 ≤ k && k ≤ 64) else k != 0)

/-- A drain descriptor breaks R248. -/
def drainBad (p : List Byte) (n : Node) : Bool :=
  let w0 := numAt p (im n) 8
  p.length < im n + 16 || 5 < field w0 63 61 || field w0 53 52 != 0 || field w0 35 0 != 0 || field (numAt p (im n + 8) 8) 63 40 != 0 ||
  !(1 ≤ field w0 51 44 && field w0 51 44 ≤ 128) || !(1 ≤ field w0 43 36 && field w0 43 36 ≤ 128) ||
  (bitOf (md n) 3 && !addable (field w0 63 61) (field w0 60 59))

/-- A TREF template breaks R238: KIND 1x, or a reserved bit of R224 or R225. -/
def trefBad (p : List Byte) (n : Node) : Bool :=
  let w0 := numAt p (im n) 8
  let w1 := numAt p (im n + 8) 8
  p.length < im n + 16 || bitOf w0 63 || field w0 61 56 != 0 ||
  (if bitOf w0 62 then field w0 51 17 != 0 || field w1 63 17 != 0 else field w0 35 23 != 0 || field w1 63 46 != 0)

/-- A collective descriptor breaks R342. -/
def collBad (p : List Byte) (n : Node) : Bool :=
  let w := numAt p (im n) 8
  let op := field w 63 61
  let ef := field w 60 58
  let np := field w 51 46 + 1
  let cnt := field w 24 0 + 1
  p.length < im n + 8 || 4 < op || field w 31 25 != 0 || (ef == 0 && field w 57 56 < 2) ||
  (if op = 4 then !(1 ≤ ef && ef ≤ 5) else 2 < ef) || ((op == 0 || op == 3) && 2 < field w 55 53) ||
  (if op = 4 then n.fmt == .I else n.fmt != .I) || (bitOf w 52 && field (md n) 2 0 != 0) || (op == 3 && cnt % np != 0) ||
  (op == 4 && 2 ^ 24 < np * cnt)

/-- The constant-pool object that a node names breaks the rules of its instruction. -/
def descBad (p : List Byte) (opc : Nat) (n : Node) : Bool :=
  match opc with
  | 0x007 => bitOf (md n) 0 && p.length < im n + nodeSize n
  | 0x013 => p.length < im n + 32
  | 0x100 => trefBad p n
  | 0x108 => drainBad p n
  | 0x12D => copyBad p n false
  | 0x12E => copyBad p n true
  | 0x12F => gathBad p n false
  | 0x130 => gathBad p n (bitOf (md n) 3)
  | 0x131 => reordBad p n
  | 0x134 => mcstBad p n
  | 0x16A => collBad p n
  | 0x1A2 => selBad p n true
  | 0x1A3 => selBad p n false
  | _ => false

/-! ### Edges -/

/-- The kernel of a node. -/
def kernelOf (ks : List Kernel) (n : Nat) : Option Nat := ks.findIdx? fun k => k.first ≤ n && n < k.first + k.count

/-- The output that destination `j` of a node belongs to (R43). -/
def destOut (r : Row) (n : Node) (j : Nat) : Nat := if r.outs n + ofBool (r.ordOut n) = 1 then 0 else j

/-- Edges of the folio: producer, its output, consumer, port. -/
def edgesOf (nodes : List FNode) : List (Nat × Nat × Nat × Nat) :=
  nodes.zipIdx.flatMap fun (x, i) => match x.row, x.node with
    | some r, some n => n.dests.mapIdx fun j d => (i, destOut r n j, d.node.toNat, d.port.toNat)
    | _, _ => []

/-- A port that takes tile references: marked tile, or a data port of a fabric or queue slot on LANE 10 (R223). -/
def tilePort (r : Row) (n : Node) (p : Nat) : Bool :=
  match (r.ports n)[p]? with
  | some .tile => true
  | some .data => n.lane == .tile && elemTypeOf r n != .mxa && elemTypeOf r n != .cpe
  | _ => false

/-- An output that carries tile references (R223). -/
def tileOutput (r : Row) (n : Node) (j : Nat) : Bool :=
  n.lane == .tile && !(r.ordOut n && j == r.outs n) && r.opc != 0x106 && r.opc != 0x160 &&
  !((r.opc == 0x015 || r.opc == 0x016) && j == 0)

/-- An edge breaks R42, R223 or R256. -/
def edgeBad (ks : List Kernel) (nodes : List FNode) (e : Nat × Nat × Nat × Nat) : Bool :=
  let (i, j, t, p) := e
  match nodes[i]?, nodes[t]? with
  | some x, some y => match x.row, x.node, y.row, y.node with
    | some r, some n, some r2, some n2 =>
      let kind := ((tokenPorts r2 n2).find? (·.1 == p)).map (·.2)
      let free := p = 3 || kind == some .control
      kernelOf ks i != kernelOf ks t || kind.isNone || (r.ordOut n && j == r.outs n && !free) ||
      (!free && tilePort r2 n2 p != tileOutput r n j)
    | _, _, _, _ => false
  | _, _ => true

/-- A QPUT and a port record of its pipe disagree on LANE (R223). -/
def pipeLaneBad (ks : List Kernel) (nodes : List FNode) (q pipe : Nat) : Bool :=
  match (nodes[q]?).bind (·.node) with
  | none => false
  | some n => ks.any fun k => k.ports.any fun p => !p.out && p.pipe == pipe &&
    match nodes[p.node]? with
    | some y => (match y.row, y.node with
      | some r2, some n2 => tilePort r2 n2 p.port != (n.lane == .tile)
      | _, _ => false)
    | none => false

/-! ### The space of each node (R214) -/

/-- The destinations of an output of a node. -/
def outDests (x : FNode) (j : Nat) : List (Nat × Nat) :=
  match x.row, x.node with
  | some r, some n => (n.dests.zipIdx.filter fun d => destOut r n d.2 == j).map fun d => (d.1.node.toNat, d.1.port.toNat)
  | _, _ => []

/-- Child spaces of a space. -/
def childSpaces (k : Kernel) (q : Nat) : List Nat :=
  (List.range k.spaces.length).filter fun s => match k.spaces[s]? with | some x => x.parent == some q | none => false

/-- The FUNC spaces whose entry tag an ARG can have (R208): those of the CALLs from whose output 0 a path leads to its port 1; `front`
are the edges that lead there. -/
def argFuncs (nodes : List FNode) (edges : List (Nat × Nat × Nat × Nat)) : Nat → List (Nat × Nat × Nat × Nat) → List Nat → List Nat → List Nat
  | 0, _, _, acc => acc
  | _, [], _, acc => acc
  | fuel + 1, e :: r, seen, acc =>
    let (u, j, _, _) := e
    let call := (nodes[u]?).bind fun x => if x.opc = 0x0E7 ∧ j = 0 then x.node.map fun n => field (im n) 7 0 else none
    match call with
    | some f => argFuncs nodes edges fuel r seen (if acc.contains f then acc else acc ++ [f])
    | none => if seen.contains u then argFuncs nodes edges fuel r seen acc
      else argFuncs nodes edges fuel (edges.filter (·.2.2.1 == u) ++ r) (u :: seen) acc

/-- The FUNC spaces of a kernel's ARGs. -/
def argSpaces (k : Kernel) (nodes : List FNode) : List (Nat × List Nat) :=
  let args := (List.range k.count).filterMap fun i => match nodes[k.first + i]? with
    | some x => if x.opc = 0x0E8 then some (k.first + i) else none
    | none => none
  if args.isEmpty then []
  else
    let edges := edgesOf nodes
    args.map fun v => (v, argFuncs nodes edges (8 * nodes.length + 16) (edges.filter fun e => e.2.2.1 == v && e.2.2.2 == 1) [] [])

/-- Spaces in which the consumers of an output run, for a producer that runs in `q`; none where nothing is said of them: an ARG's
output runs in the FUNC space of its callee (R208), where its tag can come from CALLs of one function only, and a TAGOP 011 output
in the child space of a producer's space that has exactly one. With several children or none, R214's "a child space" names none, and
the consumer gets no space and no conflict: the model's choice (log 21). -/
def outSpace (k : Kernel) (x : FNode) (calls : List (Nat × Nat)) (funcs : List Nat) (q j : Nat) : List Nat :=
  match x.node with
  | none => []
  | some n =>
    let parent := match (k.spaces[q]?).bind (·.parent) with | some p => [p] | none => []
    if x.opc = 0x0E7 ∧ j = 1 ∨ x.opc = 0x0E1 ∨ (x.opc = 0x1A0 ∧ j = 0 ∧ bitOf (md n) 0 = false) then [field (im n) 7 0]
    else if x.opc = 0x0E3 then parent
    else if (x.opc = 0x00B ∧ field (md n) 2 1 ≠ 0) ∨ (x.opc = 0x00D ∧ field (md n) 1 0 ≠ 0) then []
    else if x.opc = 0x0E8 then (match funcs with | [f] => [f] | _ => [])
    else if x.opc = 0x0E9 then (calls.filter (·.1 == q)).map (·.2)
    else match n.tagop with
      | .exit => parent
      | .enter => match childSpaces k q with | [c] => [c] | _ => []
      | _ => [q]

/-- Known spaces of nodes, as pairs. -/
abbrev Spaces := List (Nat × Nat)

/-- One round of the propagation of R214 over the nodes of a kernel. -/
def spreadSpaces (k : Kernel) (nodes : List FNode) (args : List (Nat × List Nat)) (sp : Spaces) : Spaces :=
  let calls := sp.filterMap fun (v, q) => match nodes[v]? with
    | some x => if x.opc = 0x0E7 then x.node.map fun n => (field (im n) 7 0, q) else none
    | none => none
  sp.foldl (fun acc (v, q) => match nodes[v]? with
    | none => acc
    | some x => (List.range 3).foldl (fun acc j => (outDests x j).foldl (fun acc d =>
        (outSpace k x calls (Assoc.get [] args v) q j).foldl (fun acc s => if acc.contains (d.1, s) then acc else acc ++ [(d.1, s)]) acc) acc) acc) sp

/-- Repeat the propagation until nothing is added. -/
def spreadAll (k : Kernel) (nodes : List FNode) (args : List (Nat × List Nat)) : Nat → Spaces → Spaces
  | 0, sp => sp
  | fuel + 1, sp =>
    let t := spreadSpaces k nodes args sp
    if t.length = sp.length then sp else spreadAll k nodes args fuel t

/-- The spaces of the nodes of a kernel: input-port nodes and FIRE targets run in space 0. -/
def spacesOf (k : Kernel) (nodes : List FNode) : Spaces :=
  let fires := (List.range k.count).filterMap fun i => match nodes[k.first + i]? with
    | some x => if x.opc = 0x0ED then x.node.map fun n => field (im n) 17 0 else none
    | none => none
  let start := (((k.ports.filter (!·.out)).map (·.node)) ++ fires).eraseDups
  spreadAll k nodes (argSpaces k nodes) (k.count * 4 + 4) (start.map fun v => (v, 0))

/-- The space of a node. -/
def Spaces.of (sp : Spaces) (v : Nat) : Option Nat := (sp.find? (·.1 == v)).map (·.2)

/-! ### LE_FIELD within a folio -/

/-- A field that is illegal in the folio that holds the node: descriptors, pipes, spaces, nodes named (R217, R312, R373). -/
def contextBad (ks : List Kernel) (nodes : List FNode) (pool : List Byte) (sps : List Spaces) (i : Nat) (x : FNode) (n : Node) : Bool :=
  match kernelOf ks i with
  | none => true
  | some ki => match ks[ki]? with
    | none => true
    | some k =>
      let inside (v : Nat) : Bool := k.first ≤ v && v < k.first + k.count
      let space := field (im n) 7 0
      descBad pool x.opc n ||
      match x.opc with
      | 0x160 => !k.ports.any fun p => p.out && p.pipe == field (im n) 11 0 && p.node == i
      | 0x161 => !k.ports.any fun p => !p.out && p.pipe == field (im n) 11 0
      | 0x0E0 => k.spaces.length ≤ space ||
          (match (sps.getD ki []).of i, (k.spaces[space]?).bind (·.parent) with
            | some q, some p => p != q
            | some _, none => true
            | none, _ => false)
      | 0x0E1 => k.spaces.length ≤ space
      | 0x1A0 => !bitOf (md n) 0 && k.spaces.length ≤ space
      | 0x0E7 => !(match k.spaces[space]? with | some s => s.func | none => false)
      | 0x184 => !inside (field (im n) 17 0)
      | 0x0ED =>
        let v := field (im n) 17 0
        !inside v || (match nodes[v]? with
          | some y => (match y.row, y.node with
            | some r2, some n2 => field (im n) 19 18 == 3 || !((tokenPorts r2 n2).any (·.1 == field (im n) 19 18)) || n2.fmt != n.fmt
            | _, _ => false)
          | none => true)
      | _ => false

/-- The errors a node shows alone, with those of its place in the folio. -/
def nodeFails (ks : List Kernel) (nodes : List FNode) (pool : List Byte) (sps : List Spaces)
    (edges : List (Nat × Nat × Nat × Nat)) (i : Nat) (x : FNode) : List Nat :=
  let alone : List Nat := match decodeNode x.iw x.lw with
    | .ok _ => []
    | .error (.load .opcode) => [leOpcode]
    | .error (.load .field) => [leField]
    | .error (.load .jet) => [leJet]
    | .error _ => [leLink]
  match x.row, x.node with
  | some r, some n =>
    let mine := edges.filter (·.1 == i)
    let lanes := x.opc == 0x160 && pipeLaneBad ks nodes i (field (im n) 11 0)
    let lone := r.ordPort n && !mayLone x.opc && !edges.any fun e => e.2.2.1 == i && e.2.2.2 == 3
    alone ++ (if contextBad ks nodes pool sps i x n then [leField] else []) ++
    (if mine.any (edgeBad ks nodes) || lanes || lone then [leLink] else [])
  | _, _ => alone

/-- The first of the given codes that some node shows, with the lowest such node. -/
def firstFail (fails : List (Nat × List Nat)) (codes : List Nat) : Option LoadFail :=
  codes.findSome? fun c => (fails.find? fun f => f.2.contains c).map fun f => (c, f.1)

/-! ### Conversions and order (R28, R29) -/

/-- The entries of the conversion table, as (consumer, port, server, reserved). -/
def convEntries (b : List Byte) : List (Nat × Nat × Nat × Nat) :=
  (List.range ((section_ b 3).2 / 8)).map fun i =>
    let w := numAt b ((section_ b 3).1 + 8 * i) 8
    (field w 63 46, field w 45 44, field w 43 26, field w 25 0)

/-- A conversion-table entry breaks R28. -/
def convBad (ks : List Kernel) (nodes : List FNode) (es : List (Nat × Nat × Nat × Nat)) (e : Nat × Nat × Nat × Nat) : Bool :=
  let (c, p, v, z) := e
  z != 0 || p == 3 || 1 < (es.filter fun d => d.1 == c && d.2.1 == p).length || kernelOf ks c != kernelOf ks v ||
  match nodes[c]?, nodes[v]? with
  | some x, some y => y.opc != 0x019 || x.node.map (·.fmt) != y.node.map (·.fmt)
  | _, _ => true

/-- The folio that bytes hold, or the first of the checks from LE_MAGIC to LE_ORDER that fails (R30). -/
def parseFolio (b : List Byte) : Except LoadFail Folio :=
  match headerFail b with
  | some c => .error (c, noNodeIndex)
  | none =>
    if layoutBad b then .error (leLayout, noNodeIndex)
    else
      let (no, nl) := section_ b 1
      let nodes := (List.range (nl / 16)).map fun i => FNode.ofRecord b (no + 16 * i)
      let pool := (b.drop (section_ b 2).1).take (section_ b 2).2
      let ks := (List.range (numAt b 12 2)).map fun k => kernelAt b pool k nodes
      if ks.any (·.2) then .error (leKernel, noNodeIndex)
      else
        let ks := ks.map (·.1)
        let sps := ks.map fun k => spacesOf k nodes
        let edges := edgesOf nodes
        let fails := nodes.zipIdx.map fun (x, i) => (i, nodeFails ks nodes pool sps edges i x)
        match firstFail fails [leOpcode, leField, leJet, leLink] with
        | some f => .error f
        | none =>
          let es := convEntries b
          match es.find? (convBad ks nodes es) with
          | some e => .error (leConv, e.1)
          | none =>
            let order := (List.range (nl / 16)).map fun i => numAt b ((section_ b 4).1 + 4 * i) 4
            if order.any (fun v => nl / 16 ≤ v) || order.eraseDups.length != order.length then .error (leOrder, noNodeIndex)
            else .ok { kernels := ks, nodes := nodes, pool := pool, convs := es.map fun e => (e.1, e.2.1, e.2.2.1),
                       order := order, digest := (b.drop (folioLen b - 48)).take 48 }

end Sys2Proof.Machine
end

