-- ==== Sys2Proof/Machine/Wellform.lean ====
section
/-! DEFINITION. The checks of R30 from LE_CLASS to LE_PAYLOAD that need the folio alone: well-formed loops, the instance
counts and reserves that follow from them (R200, R208, R214), the largest payload of every output, and classes (R38, R324). -/

namespace Sys2Proof.Machine

/-! ### The spaces of a kernel (R214) -/

/-- The root of a space: the space without parent above it. -/
def rootSpace (k : Kernel) : Nat → Nat → Nat
  | 0, q => q
  | fuel + 1, q => match (k.spaces[q]?).bind (·.parent) with
    | some p => rootSpace k fuel p
    | none => q

/-- W of a space (R27). -/
def windowOf (k : Kernel) (q : Nat) : Nat := match k.spaces[q]? with | some x => 2 ^ x.wlog | none => 1

/-- Wstar of a space (R214): for space 0, room for the elements that arrive at the largest input RATE. -/
def wstar (k : Kernel) (q : Nat) : Nat :=
  if q = 0 then (k.ports.filter (!·.out)).foldl (fun a p => max a (32 * p.rate)) (windowOf k 0) else windowOf k q

/-- The nodes of a kernel that have a space, with opcode and fields. -/
structure Placed where
  v    : Nat
  q    : Nat
  node : FNode

/-- The nodes of a kernel with their spaces. -/
def placedNodes (nodes : List FNode) (sp : Spaces) : List Placed :=
  sp.filterMap fun (v, q) => (nodes[v]?).map fun x => { v := v, q := q, node := x }

/-- IMM of a folio node. -/
def FNode.imm (x : FNode) : Nat := match x.node with | some n => im n | none => 0

/-- MOD of a folio node. -/
def FNode.mod (x : FNode) : Nat := match x.node with | some n => md n | none => 0

/-- A node that asks for iterations (R216), with the space it names: TALLOC, or CMPR in token mode. -/
def FNode.grants (x : FNode) : Option Nat :=
  if x.opc = 0x0E1 ∨ (x.opc = 0x1A0 ∧ bitOf x.mod 0 = false) then some (field x.imm 7 0) else none

/-- I of each space, in index order (R214). -/
def instCounts (k : Kernel) (ps : List Placed) : List Nat :=
  (List.range k.spaces.length).foldl (fun is s =>
    let root := match k.spaces[s]? with | some x => x.parent.isNone | none => true
    let n := ps.foldl (fun a p => if p.node.opc = 0x0E0 ∧ field p.node.imm 7 0 = s then a + is.getD p.q 0 * wstar k p.q else a) 0
    is ++ [if root then 1 else n]) []

/-- MAXINST (R214): the largest sum of I over the spaces of one frame. -/
def maxInst (k : Kernel) (is : List Nat) : Nat :=
  let n := k.spaces.length
  (List.range n).foldl (fun m r => max m ((List.range n).foldl (fun a s => if rootSpace k n s = r then a + is.getD s 0 else a) 0)) 0

/-- Q of a frame root (R208), over the acyclic call graph; the depth is bounded by the number of spaces. -/
def calleeReserve (k : Kernel) (ps : List Placed) (is : List Nat) : Nat → Nat → Nat
  | 0, _ => 0
  | fuel + 1, r => ps.foldl (fun a p =>
      if p.node.opc = 0x0E7 ∧ rootSpace k k.spaces.length p.q = r then
        a + is.getD p.q 0 * windowOf k p.q * (1 + calleeReserve k ps is fuel (field p.node.imm 7 0))
      else a) 0

/-- A chain of calls of length `fuel` starts at a root: with as many calls as spaces, the call graph has a cycle. -/
def callsDeep (k : Kernel) (ps : List Placed) : Nat → Nat → Bool
  | 0, _ => true
  | fuel + 1, r => ps.any fun p => p.node.opc == 0x0E7 && rootSpace k k.spaces.length p.q == r &&
      callsDeep k ps fuel (field p.node.imm 7 0)

/-! ### Paths -/

/-- Destinations of a node. -/
def nextNodes (x : FNode) : List Nat :=
  match x.node with | some n => n.dests.map fun d => d.node.toNat | none => []

/-- Nodes reached from `front` through nodes that `go` lets pass; `seen` are those visited. -/
def reachFrom (next : Nat → List Nat) (go : Nat → Bool) : Nat → List Nat → List Nat → List Nat
  | 0, seen, _ => seen
  | _, seen, [] => seen
  | fuel + 1, seen, v :: r =>
    if seen.contains v then reachFrom next go fuel seen r
    else reachFrom next go fuel (v :: seen) (if go v then next v ++ r else r)

/-- Fuel that lets a search visit every node over every edge. -/
def searchFuel (k : Kernel) : Nat := 8 * k.count + 16

/-- The nodes that output `j` of a node feeds. -/
def outNodes (x : FNode) (j : Nat) : List Nat := (outDests x j).map (·.1)

/-- The first nodes of the paths from a granting node: the consumers of its output 0. -/
def grantNodes (x : FNode) : List Nat := outNodes x 0

/-- A node sends an output to a TFREE of a space: a path through it passes that TFREE. -/
def freesIn (nodes : List FNode) (sp : Spaces) (s : Nat) (x : FNode) : Bool :=
  (nextNodes x).any fun t => (match nodes[t]? with | some y => y.opc == 0x0E2 | none => false) && sp.of t == some s

/-- Space `c` is `s` or lies below it (R27). -/
def spaceUnder (k : Kernel) (s : Nat) : Nat → Nat → Bool
  | 0, c => c == s
  | fuel + 1, c => c == s || match (k.spaces[c]?).bind (·.parent) with | some p => spaceUnder k s fuel p | none => false

/-- A path inside a space may pass through the loops opened in it and the bodies of functions called from it. -/
def insideOf (k : Kernel) (s c : Nat) : Bool :=
  spaceUnder k s k.spaces.length c ||
  (match k.spaces[rootSpace k k.spaces.length c]? with | some r => r.func | none => false)

/-- A node whose entry has no output, and so no destination (R42, R43): the SINK of a listing, which stands in space 0 and reaches
nothing (log 21). -/
def endsPath (x : FNode) : Bool :=
  match x.row, x.node with
  | some r, some n => r.outs n == 0 && !r.ordOut n
  | _, _ => false

/-- LE_WELLFORM of one kernel, with the lowest node shown. -/
def wellformFail (k : Kernel) (nodes : List FNode) (sp : Spaces) : Option Nat :=
  let ps := placedNodes nodes sp
  let nf (v : Nat) : FNode := (nodes[v]?).getD { iw := 0, lw := 0, opc := 0, row := none, node := none }
  let next (v : Nat) : List Nat := nextNodes (nf v)
  let isFunc (s : Nat) : Bool := match k.spaces[s]? with | some x => x.func | none => false
  let isRoot (s : Nat) : Bool := match k.spaces[s]? with | some x => x.parent.isNone | none => true
  let low (l : List Nat) : Option Nat := leastBy (fun a b => a < b) l
  let nSp := k.spaces.length
  let twice := ps.filter fun p => sp.any fun e => e.1 == p.v && e.2 != p.q
  let broken := (List.range nSp).filter fun s => (s = 0 && (!isRoot s || isFunc s)) || (s != 0 && isRoot s && !isFunc s) || (isFunc s && !isRoot s)
  let rootly (s : Nat) : Bool := s = 0 || isFunc s
  let atRoot := ps.filter fun p => ((p.node.opc = 0x0E2 || p.node.opc = 0x0E3) && rootly p.q) ||
    (match p.node.grants with | some s => rootly s | none => false)
  let unfreed := ps.filter fun p => match p.node.grants with
    | none => false
    | some s =>
      if freesIn nodes sp s p.node then false
      else (reachFrom next (fun v => !freesIn nodes sp s (nf v)) (searchFuel k) [] (grantNodes p.node)).any fun v =>
        !freesIn nodes sp s (nf v) && (((nf v).opc = 0x0E3 && sp.of v == some s) || [0x0EA, 0x0EB, 0x0E9].contains (nf v).opc)
  let fedIn (s : Nat) : List Nat :=
    let starts := ps.flatMap fun p => if p.node.grants == some s then grantNodes p.node else []
    reachFrom next (fun v => match sp.of v with | some c => insideOf k s c | none => false) (searchFuel k) [] starts
  let fed := (List.range nSp).map fun s => if isRoot s then [] else fedIn s
  let unfed := ps.filter fun p => !isRoot p.q && !(fed.getD p.q []).contains p.v
  let noRet := ps.filter fun p => p.node.opc = 0x0E7 &&
    !((reachFrom next (fun _ => true) (searchFuel k) [] (outNodes p.node 1)).any fun v =>
      (nf v).opc = 0x0E9 && sp.of v == some (field p.node.imm 7 0))
  let deep := (List.range nSp).any fun r => isRoot r && callsDeep k ps nSp r
  let ends (v : Nat) : Bool := (reachFrom next (fun _ => true) (searchFuel k) [] [v]).any fun u => [0x0EA, 0x0EB].contains (nf u).opc
  let lost := ps.filter fun p => p.q = 0 && !endsPath p.node && !ends p.v
  let is := instCounts k ps
  if !twice.isEmpty then low (twice.map (·.v))
  else if !broken.isEmpty then some noNodeIndex
  else if !atRoot.isEmpty then low (atRoot.map (·.v))
  else if !unfreed.isEmpty then low (unfreed.map (·.v))
  else if !unfed.isEmpty then low (unfed.map (·.v))
  else if !noRet.isEmpty then low (noRet.map (·.v))
  else if deep then some noNodeIndex
  else if !lost.isEmpty then low (lost.map (·.v))
  else if 256 < maxInst k is then some noNodeIndex
  else none

/-- What R200, R208 and R214 compute of a kernel: footprint, Q and MAXINST. -/
def kernelSizes (k : Kernel) (nodes : List FNode) (sp : Spaces) : Kernel :=
  let ps := placedNodes nodes sp
  let is := instCounts k ps
  let m := maxInst k is
  let raw := 64 + 64 * m + 8 * k.framesz + 8 * ((k.framesz + 63) / 64)
  { k with maxinst := m, callees := calleeReserve k ps is k.spaces.length 0, footprint := (raw + 63) / 64 * 64 }

/-- Planes of a node in the residency count (R214). -/
def planesOf (k : Kernel) (n : Node) : Nat := if n.lane = .jet then k.jord.toNat + 1 else 1

/-- Concordance entries that a slot holds at most in one activation (R214, R279). -/
def slotNeed (k : Kernel) (nodes : List FNode) (sp : Spaces) (pool : List Byte) (is : List Nat) (v : Nat) : Nat :=
  match nodes[v]? with
  | none => 0
  | some x => match x.row, x.node, sp.of v with
    | some r, some n, some q =>
      let w := wstar k q
      let ports := (tokenPorts r n).length
      let perIter (h : Nat) : Nat := w * h
      let base :=
        if x.opc = 0x00F then (w + md n) / (field (md n) 4 0 + 1) + 1
        else if x.opc = 0x0A3 then (w + 63) / 64 + 1
        else if x.opc = 0x131 then reordSize (numAt pool (im n) 8) / 32 + 1
        else if x.opc = 0x0E4 ∨ x.opc = 0x1A1 ∨ x.opc = 0x1A5 then perIter 1
        else if (x.opc = 0x011 ∨ x.opc = 0x012 ∨ x.opc = 0x1A6) ∧ bitOf (im n) 5 then perIter 1
        else if x.opc = 0x004 then 0
        else perIter (ports - 1)
      is.getD q 0 * base * planesOf k n
    | _, _, _ => 0

/-! ### The largest payload of an output (R47, R167) -/

/-- Bounds of an output's tokens: elements of a run, bytes of one element with its planes, bytes of the payload. -/
structure Bound where
  len   : Nat := 0
  es    : Nat := 0
  bytes : Nat := 0
  deriving DecidableEq, Repr

/-- The lesser bound above two. -/
def Bound.join (a b : Bound) : Bound := { len := max a.len b.len, es := max a.es b.es, bytes := max a.bytes b.bytes }

/-- Tokens of up to `len` elements of `es` bytes. -/
def Bound.flat (len es : Nat) : Bound := { len := min 32 len, es := min es 512, bytes := min (min 32 len * es) 512 }

/-- A jet that an instruction moves comes out at the kernel's order at most (R169). -/
def Bound.capped (b : Bound) (k : Kernel) (n : Node) : Bound :=
  if n.lane = .jet then
    let es := min b.es (nodeSize n * planesOf k n)
    { b with es := es, bytes := min b.bytes (b.len * es) }
  else b

/-- The bound of output `j` of a node from the bounds of its token-fed ports; `pipe` bounds what a QGET takes. -/
def outBound (k : Kernel) (opc : Nat) (r : Row) (n : Node) (ins : Nat → Bound) (pipe : Bound) (j : Nat) : Bound :=
  let pl := planesOf k n
  let size := nodeSize n
  let ins (p : Nat) : Bound := if opc = 0x0C5 then ins p else (ins p).capped k n
  let i0 := ins 0
  let len := (List.range (r.ports n).length).foldl (fun a p => if (ins p).len = 0 then a else if a = 0 then (ins p).len else min a (ins p).len) 0
  let fsz := if n.fmt = .G then gSize (field (md n) 1 0) else nodeSize n
  let mem := match n.fmt with | .I => 2 ^ field (md n) 4 3 | .G => gSize (field (md n) 4 3) | f => f.size
  if r.ordOut n && j == r.outs n then Bound.flat (max len (ins 3).len) 0
  else if j ≥ r.outs n then {}
  else if [0x001, 0x002, 0x003, 0x005, 0x00A, 0x00B, 0x00D, 0x013, 0x014, 0x0E0, 0x162].contains opc then i0
  else match opc with
    | 0x004 => i0.join (ins 1)
    | 0x006 | 0x0E9 => ins j
    | 0x007 => Bound.flat len (fsz * pl)
    | 0x009 => (ins 1).join (ins 2)
    | 0x00C => Bound.flat len 8
    | 0x00E => Bound.flat (min i0.len (md n % 32 + 1)) i0.es
    | 0x00F | 0x010 => Bound.flat (md n % 32 + 1) i0.es
    | 0x011 => Bound.flat 1 i0.es
    | 0x015 | 0x016 => if j = 0 then Bound.flat len 4 else if opc = 0x016 ∧ bitOf (md n) 0 then i0.join (Bound.flat 2 8) else i0
    | 0x017 => Bound.flat 1 16
    | 0x018 => Bound.flat len (intWidth n / 8)
    | 0x04D | 0x07C | 0x07D | 0x080 => Bound.flat len 4
    | 0x04E | 0x081 => Bound.flat len (if opc = 0x04E then intWidth n / 8 else 4)
    | 0x05F => Bound.flat len 8
    | 0x0A1 => Bound.flat len (intWidth n / 8)
    | 0x0A2 => Bound.flat len (if bitOf (md n) 0 then intWidth n / 8 else n.fmt.size)
    | 0x0A3 => Bound.flat 1 fsz
    | 0x0A4 => Bound.flat 32 n.fmt.size
    | 0x0A5 => Bound.flat 5 1
    | 0x0A6 => Bound.flat (i0.len / 8) 4
    | 0x0A7 => Bound.flat (8 * i0.len) (intWidth n / 8)
    | 0x0A8 => { i0 with len := 32, es := fsz }
    | 0x0C0 | 0x0C1 => Bound.flat len (n.fmt.size * (if field (md n) 2 0 = 0 then pl else min pl (field (md n) 2 0 + 1)))
    | 0x0C2 | 0x0C5 => if opc = 0x0C2 then Bound.flat len n.fmt.size else Bound.flat len (size * max 1 (min pl (i0.es / size - 1)))
    | 0x0C4 => Bound.flat len (n.fmt.size * min pl (field (md n) 2 0 + 1))
    | 0x0C7 => Bound.flat len n.fmt.size
    | 0x0C9 | 0x0CA => Bound.flat 1 8
    | 0x0E1 => Bound.flat (md n % 32 + 1) 4
    | 0x0E4 => if n.lane = .jet then Bound.flat (field (md n) 2 0 + 1) (n.fmt.size * (field (md n) 5 3 + 1))
               else Bound.flat (md n % 32 + 1) (if n.fmt = .I then 8 else n.fmt.size)
    | 0x0E3 | 0x0E5 | 0x0E6 | 0x160 => Bound.flat 1 4
    | 0x0E7 => Bound.flat 1 (if j = 0 then 8 else 4)
    | 0x0E8 => Bound.flat 1 i0.es
    | 0x0EC => Bound.flat 1 8
    | 0x106 => Bound.flat 32 (if n.fmt = .I then 8 else n.fmt.size)
    | 0x108 => Bound.flat 1 4
    | 0x120 | 0x135 => Bound.flat len (mem * pl)
    | 0x122 => Bound.flat (field (im n) 4 0 + 1) (mem * pl)
    | 0x125 | 0x126 => Bound.flat len (if opc = 0x126 then 2 ^ field (md n) 4 3 else mem)
    | 0x131 => Bound.flat 32 mem
    | 0x161 => pipe
    | 0x164 => Bound.flat 8 8
    | 0x169 => Bound.flat 1 i0.es
    | 0x16B => Bound.flat len 4
    | 0x18A => if j = 0 then Bound.flat 1 8 else Bound.flat 12 4
    | 0x188 | 0x189 | 0x18D => Bound.flat len 8
    | 0x1A0 => if j = 0 then { i0 with len := i0.len } else Bound.flat 1 4
    | 0x1A1 => { (ins 1) with len := i0.len, bytes := min 512 (i0.len * (ins 1).es) }
    | 0x1A2 | 0x1A3 => Bound.flat len 4
    | 0x1A5 => Bound.flat 32 n.fmt.size
    | 0x1A6 => Bound.flat 1 (if j = 0 then 4 else i0.es)
    | _ =>
      if 0x100 ≤ opc ∧ opc ≤ 0x10B then Bound.flat 1 16
      else if r.elem = .mae ∨ r.elem = .cpe ∨ r.elem = .qpe ∨ r.elem = .bre ∨ (0x180 ≤ opc ∧ opc ≤ 0x190) then Bound.flat 1 8
      else Bound.flat len (fsz * pl)

/-- Bounds of the three outputs of every node. -/
abbrev Bounds := List (List Bound)

/-- What a port of a node can receive, from the bounds of the outputs: its edges, the pipes of its input records, the FIREs
that name it, and the tokens steered to a CONV node. -/
def inBound (f : Folio) (edges : List (Nat × Nat × Nat × Nat)) (bs : Bounds) : Nat → Nat → Nat → Bound
  | 0, _, _ => {}
  | fuel + 1, v, p =>
    let ofEdges : Bound := edges.foldl (fun (b : Bound) e => if e.2.2.1 = v ∧ e.2.2.2 = p then b.join ((bs.getD e.1 []).getD e.2.1 {}) else b) {}
    let puts (pipe : Nat) : List Nat := (f.kernels.flatMap fun k => k.ports.filter fun r => r.out && r.pipe == pipe).map (·.node)
    let ofPipes : Bound := f.kernels.foldl (fun (b : Bound) k => k.ports.foldl (fun (b : Bound) r =>
      if !r.out ∧ r.node = v ∧ r.port = p then (puts r.pipe).foldl (fun (b : Bound) q => b.join (inBound f edges bs fuel q 0)) b else b) b) {}
    let ofFires : Bound := f.nodes.zipIdx.foldl (fun (b : Bound) (x, i) =>
      if x.opc = 0x0ED ∧ field x.imm 17 0 = v ∧ field x.imm 19 18 = p then b.join (inBound f edges bs fuel i 0) else b) {}
    let ofConvs : Bound := f.convs.foldl (fun (b : Bound) e => if e.2.2 = v ∧ p = 0 then b.join (inBound f edges bs fuel e.1 e.2.1) else b) {}
    ((ofEdges.join ofPipes).join ofFires).join ofConvs

/-- One round of the bounds. -/
def boundRound (f : Folio) (edges : List (Nat × Nat × Nat × Nat)) (bs : Bounds) : Bounds :=
  f.nodes.zipIdx.map fun (x, v) => match x.row, x.node, (kernelOf f.kernels v).bind fun k => f.kernels[k]? with
    | some r, some n, some k =>
      let ins := (List.range 4).map (inBound f edges bs 3 v)
      let pipe := if x.opc = 0x161 then
          (f.kernels.flatMap fun k => k.ports.filter fun r => r.out && r.pipe == field (im n) 11 0).foldl
            (fun (b : Bound) r => b.join (inBound f edges bs 3 r.node 0)) {}
        else {}
      (List.range 3).map fun j => ((bs.getD v []).getD j {}).join (outBound k x.opc r n (fun p => ins.getD p {}) pipe j)
    | _, _, _ => []

/-- Rounds until nothing changes. -/
def boundsOf (f : Folio) (edges : List (Nat × Nat × Nat × Nat)) : Nat → Bounds → Bounds
  | 0, bs => bs
  | fuel + 1, bs =>
    let t := boundRound f edges bs
    if t = bs then bs else boundsOf f edges fuel t

/-- The bounds of a folio's outputs. -/
def Folio.bounds (f : Folio) : Bounds := boundsOf f (edgesOf f.nodes) (1024 + 4 * f.nodes.length) []

/-- LE_PAYLOAD: a node whose largest output exceeds 256 bytes. -/
def payloadFail (f : Folio) (bs : Bounds) : Option Nat :=
  (List.range f.nodes.length).find? fun v => (bs.getD v []).any fun b => 256 < b.bytes

/-! ### Classes (R38, R324) -/

/-- Destination `j` of a node takes class 0, for a kernel of group class `g`. -/
def destClass0 (opc : Nat) (n : Node) (g : Nat) (j : Nat) : Bool :=
  if n.cf then
    if opc = 0x002 ∧ j ≠ 0 then (if j = 1 then field (md n) 1 0 else field (md n) 3 2) = 0 else n.cls = 0
  else g = 0

/-- LE_CLASS: a node that emits class 0 and can emit a payload over 64 bytes, or an MXA node that class 0 can reach. -/
def classFail (f : Folio) (bs : Bounds) (base : Nat) : Option Nat :=
  let gcls (v : Nat) : Nat := match (kernelOf f.kernels v).bind fun k => f.kernels[k]? with | some k => max base k.cls.toNat | none => 3
  let emits (v : Nat) : List Nat := match f.nodes[v]? with
    | some x => (match x.node with
      | some n => (List.range n.dests.length).filter (destClass0 x.opc n (gcls v))
      | none => [])
    | none => []
  let fired (v : Nat) : Bool := f.nodes.any fun y => y.opc == 0x0ED && match y.node with
    | some m => field (im m) 17 0 == v
    | none => false
  (List.range f.nodes.length).find? fun v => match f.nodes[v]? with
    | some x => match x.row, x.node with
      | some r, some n =>
        ((emits v).any fun j => 64 < ((bs.getD v []).getD (destOut r n j) {}).bytes) ||
        (elemTypeOf r n == .mxa && (
          (f.nodes.zipIdx.any fun (y, u) => match y.node with
            | some m => (emits u).any fun j => match m.dests[j]? with | some d => d.node.toNat == v | none => false
            | none => false) ||
          (gcls v = 0 && (fired v || f.kernels.any fun k => k.ports.any fun p => !p.out && p.node == v))))
      | _, _ => false
    | none => false

end Sys2Proof.Machine
end

