-- ==== Sys2Proof/Machine/Launch.lean ====
section
/-! DEFINITION. Launching: the bindery's reading of submission queues (R308), context commands (R347), the checks of a launch
record (R314, R315), the choice of cores (R317), placement (R209 to R213) and the configuration stream it gives. -/

namespace Sys2Proof.Machine

/-! ### Submission queues -/

/-- A submission queue object breaks R308; `head` is the next entry to read. -/
def sqBad (w : List Nat) (head : Nat) : Bool :=
  let g := fun i => w.getD i 0
  let logn := field (g 1) 12 8
  field (g 0) 63 60 != 1 || field (g 0) 59 56 != 0 || field (g 0) 54 52 != 0 || field (g 0) 5 0 != 0 ||
  !(1 ≤ logn && logn ≤ 20) || !(1 ≤ field (g 1) 7 0 && field (g 1) 7 0 ≤ 16) || field (g 1) 63 13 != 0 || field (g 2) 63 32 != 0 ||
  field (g 3) 63 32 != 0 || field (g 4) 31 3 != 0 || g 5 != 0 || g 6 != 0 || g 7 != 0 ||
  2 ^ logn < (g 3 + 2 ^ 32 - head) % 2 ^ 32

/-- The words of bytes. -/
def wordsOf (b : List Byte) : List Word := (chunksOf 8 b.length b).map fun w => BitVec.ofNat 64 (leNat w)

/-- The 64-bit address that BASE of a submission queue names (R379). -/
def sqBase (w0 : Nat) : Nat := (if bitOf w0 55 then 2 ^ 63 else 0) + field w0 51 0

/-- The operation of a code (R347). -/
def copOf : Nat → Option COp
  | 0 => some .halt | 1 => some .save | 2 => some .resume | 3 => some .abandon | 4 => some .destroy | 5 => some .query
  | 6 => some .restore | 7 => some .dump | 8 => some .bind | _ => none

/-- The completion record of a context command (R349). -/
def cmdCompl (status code state result cycle : Nat) : List Byte :=
  leBytes 8 (status * 2 ^ 48 + code * 2 ^ 40 + state * 2 ^ 32) ++ leBytes 8 result ++ leBytes 8 cycle ++ List.replicate 40 0

/-- Report the end of a context command; a COMPL that is not 64-aligned cannot be written. -/
def State.reportCmd (s : State) (c : BitVec 6) (die addr status code result : Nat) : State :=
  if addr % 64 != 0 then s
  else s.record c (coreNum die 0) false addr (cmdCompl status code (s.ctx c).state.code result s.cycle)

/-- A context command (R347): queued on its target, or ended with STATE where it breaks the table. -/
def State.takeCommand (s : State) (die : Nat) (ws : List Word) : State :=
  let w0 := (ws.getD 0 0).toNat
  let c := BitVec.ofNat 6 (field w0 55 50)
  let compl := (ws.getD 2 0).toNat
  let op := copOf (field w0 49 46)
  let used := if op = some .restore then 45 else 46
  let arg := op == some .bind || op == some .restore
  let bad := field w0 (used - 1) 0 != 0 || (!arg && ws.getD 1 0 != 0) || (ws.drop 3).any (· != 0)
  match op with
  | some o =>
    if bad then s.reportCmd c die compl 2 stState 0
    else s.modCtx c fun x => { x with queue := x.queue ++
      [{ op := o, arg := ws.getD 1 0, run := o == .restore && bitOf w0 45, compl := some (ws.getD 2 0) }] }
  | none => s.reportCmd c die compl 2 stState 0

/-- Accept a launch record: it is DECLARED and has its serial number (R325, R329). -/
def State.declare (s : State) (die : Nat) (ws : List Word) (source : Option (BitVec 6)) : State :=
  let (k, s) := s.newId
  let c := BitVec.ofNat 6 (field (ws.getD 0 0).toNat 55 50)
  s.modBind die fun y =>
    let l : Launch := { serial := k, number := y.serial, ctx := c, words := ws, source := source }
    { y with launches := y.launches ++ [l], serial := y.serial + 1 }

/-- SUBMISSION_TAIL (R308): the bindery reads the next entry of a queue. `queue` holds the object's address with the number
of the die whose bindery serves it in its low bits (log 14). HEAD is the object's, or the bindery's own number while its last
write of HEAD is not yet visible to it. -/
def execSubmissionTail (queue : Nat) (s : State) : Host.Outcome State Fault Refusal :=
  .next (
    let die := queue % 8
    let addr := queue - queue % 64
    let n := coreNum die 0
    let stop (s : State) (w4 : Nat) : State :=
      ((s.devWrite 0 n (addr + 32) (leBytes 8 (w4 ||| 5))).getD s).modBind die fun b => { b with queues := Assoc.set none b.queues queue none }
    if queue % 64 ≥ 8 ∨ !s.plat.up ∨ !s.tether ∨ 16 ≤ (s.bind die).launches.length then s
    else match s.devRead n addr 64 with
      | (none, _) => s
      | (some b, s) =>
        let w := (wordsOf b).map (·.toNat)
        let mine : Bool := match fieldKey (addr + 16) 8 with
          | some k => s.pend.any fun w => w.issuer == .core n && w.overlaps k 8 && !w.seenBy (.core n) 6
          | none => false
        let kept : Option Nat := match mine with | true => Assoc.get none (s.bind die).queues queue | false => none
        let head := kept.getD (field (w.getD 2 0) 31 0)
        if bitOf (w.getD 4 0) 2 then s.modBind die fun b => { b with queues := Assoc.set none b.queues queue none }
        else if sqBad w head then stop s (w.getD 4 0)
        else if field (w.getD 3 0) 31 0 = head then s
        else
          let esz := field (w.getD 1 0) 7 0
          let at_ := sqBase (w.getD 0 0) + head % 2 ^ field (w.getD 1 0) 12 8 * 64 * esz
          let (entry, s) := s.devRead n at_ (64 * min esz 2)
          let next := (head + 1) % 2 ^ 32
          let s := (s.devWrite 0 n (addr + 16) (leBytes 8 next)).getD s
          let s := s.modBind die fun b => { b with queues := Assoc.set none b.queues queue (some next) }
          match entry with
          | none => s.declare die [] none
          | some e =>
            let ws := wordsOf e
            if field (ws.getD 0 0).toNat 63 56 = 0x80 then s.takeCommand die (ws.take 8)
            else if esz < 2 then s.declare die [] none
            else s.declare die ws none)

/-! ### Reading a record's tables (R314) -/

/-- Bytes at an address of a launch: virtual under VIRT, physical otherwise; none where the read fails (R30, R315). -/
def State.fetchBytes (s : State) (virt : Bool) (c : BitVec 6) (die addr len : Nat) : Option (List Byte) × State :=
  if len = 0 then (some [], s)
  else if virt then
    let (id, s) := s.newId
    let (r, s) := s.readWords c (coreNum die 0) id addr ((len + 7) / 8) []
    (match r with | .ok ws => some ((Machine.elems 8 ws).take len) | .error _ => none, s)
  else s.devRead (coreNum die 0) addr len

/-- An entry of the kernel launch table. -/
structure KEntry where
  main  : Nat
  aff   : Bool
  lowat : Nat
  hiwat : Nat
  repl  : Nat
  ok    : Bool

def KEntry.ofNat (x : Nat) : KEntry :=
  { main := field x 63 52, aff := bitOf x 48, lowat := field x 47 32, hiwat := field x 31 16, repl := field x 7 0,
    ok := field x 51 49 == 0 && field x 15 8 == 0 }

/-- The tables of a record: pipe capacities, kernel entries, map entries (base, pages, weights) and whether the map's
reserved bits are zero. -/
structure Tables where
  pipes   : List Nat
  kernels : List KEntry
  map     : List (Nat × Nat × Nat)
  fine    : Bool

/-- Numbers of `k` bytes each. -/
def numsOf (k : Nat) (b : List Byte) : List Nat := (chunksOf k b.length b).map leNat

/-- Read the three tables and the folio's kernel count; none where a table cannot be read. -/
def State.readTables (s : State) (l : Launch) (die : Nat) : Except Nat Tables × State :=
  let w (i : Nat) : Nat := (l.words.getD i 0).toNat
  let virt := bitOf (w 0) 41
  let (h, s) := s.fetchBytes virt l.ctx die (w 1) 16
  let (p, s) := s.fetchBytes virt l.ctx die (w 6) (8 * field (w 7) 12 0)
  let (m, s) := s.fetchBytes virt l.ctx die (w 8) (16 * field (w 7) 43 32)
  match h with
  | none => (.error leRead, s)
  | some h =>
    let (k, s) := s.fetchBytes virt l.ctx die (w 9) (8 * numAt h 12 2)
    match p, m, k with
    | some p, some m, some k =>
      let ps := numsOf 8 p
      let ms := (chunksOf 16 m.length m).map fun e => (numAt e 0 8, numAt e 8 8)
      (.ok { pipes := ps.map fun x => field x 15 0, kernels := (numsOf 8 k).map KEntry.ofNat,
             map := ms.map fun e => (field e.1 55 0, field e.2 63 32, field e.2 31 0),
             fine := ps.all (fun x => field x 63 16 == 0) && ms.all fun e =>
               field e.1 63 56 == 0 && field e.1 15 0 == 0 && field e.2 63 32 != 0 }, s)
    | _, _, _ => (.error leRecord, s)

/-- The cores of a record's partition mask, ascending. -/
def maskCores (words : List Word) : List Nat := (List.range 160).filter (inMask words)

/-- The first 16 words of a record break R314: LE_RECORD, the tables aside. -/
def recordBad (l : Launch) : Bool :=
  let w (i : Nat) : Nat := (l.words.getD i 0).toNat
  l.words.length != 16 || field (w 0) 63 56 != 1 || field (w 0) 47 42 != 0 || (l.source.isNone && bitOf (w 0) 41) ||
  256 < field (w 0) 40 32 || w 1 % 64 != 0 || field (w 4) 63 32 != 0 || field (w 5) 63 32 != 0 || w 6 % 8 != 0 ||
  field (w 7) 63 44 != 0 || field (w 7) 31 13 != 0 || w 8 % 16 != 0 || w 9 % 8 != 0 || w 10 % 64 != 0 ||
  (List.range 4).any fun i => w (12 + i) != 0

/-- The tables break LE_RECORD. -/
def tablesBad (t : Tables) (cores : Nat) : Bool :=
  !t.fine || t.kernels.any fun k => !k.ok || k.repl = 0 || cores < k.repl || k.hiwat < k.lowat

/-- LE_CONTEXT. -/
def State.contextFails (s : State) (l : Launch) : Bool :=
  (s.ctx l.ctx).state == .free || (s.ctx l.ctx).state == .destroyed ||
  (match l.source with | some c => !(s.ctx c).sup && c != l.ctx | none => false)

/-- LE_PARTITION. -/
def State.partitionFails (s : State) (l : Launch) : Bool :=
  let cores := maskCores l.words
  cores.isEmpty || cores.any (fun n => match (s.core n).owner with | some c => c != l.ctx | none => false) ||
  (match l.source with
    | some c => !(s.ctx c).sup && cores.any fun n => (s.core n).owner != some c
    | none => false)

/-- LE_MAP. -/
def mapFails (t : Tables) (cores : List Nat) : Bool :=
  let dies := (cores.map dieOf).eraseDups
  t.map.any (fun m => m.2.2 = 0) ||
  (t.map.zipIdx.any fun (a, i) => t.map.zipIdx.any fun (b, j) => i < j && a.1 < b.1 + b.2.1 * 65536 && b.1 < a.1 + a.2.1 * 65536) ||
  t.kernels.any fun k => k.main != 0xFFF &&
    match t.map[k.main]? with | none => true | some m => dies.all fun d => dieWeight m.2.2 d = 0

/-- LE_PIPECAP (R300, R315). -/
def pipecapFails (f : Folio) (t : Tables) : Bool :=
  let ports := f.kernels.flatMap (·.ports)
  let top := ports.foldl (fun a p => max a (p.pipe + 1)) 0
  let rate (pipe : Nat) (out : Bool) : Nat := ports.foldl (fun a p => if p.pipe = pipe ∧ p.out = out then max a p.rate else a) 0
  t.pipes.length != top ||
  (List.range top).any fun p => (t.pipes.getD p 0) < max 1 (rate p true + rate p false) ||
    1 < (f.kernels.filter fun k => k.inputs.any (·.pipe == p)).length

/-! ### Choosing cores (R317) -/

/-- Replicas for each of some dies by weight: the whole parts, then one each for the largest remainders. -/
def shareOut (repl : Nat) (dies : List (Nat × Nat)) : List (Nat × Nat) :=
  let total := dies.foldl (fun a d => a + d.2) 0
  let whole := dies.map fun d => (d.1, repl * d.2 / total, repl * d.2 % total)
  let left := repl - whole.foldl (fun a d => a + d.2.1) 0
  let rank (d : Nat × Nat × Nat) : Nat := (whole.filter fun e => d.2.2 < e.2.2 || (e.2.2 == d.2.2 && e.1 < d.1)).length
  whole.map fun d => (d.1, d.2.1 + (if rank d < left then 1 else 0))

/-- The cores of a kernel's replicas, ascending; none where there are too few. -/
def replicaCores (e : KEntry) (map : List (Nat × Nat × Nat)) (cores : List Nat) : Option (List Nat) :=
  match map[e.main]? with
  | none => if e.repl ≤ cores.length then some (cores.take e.repl) else none
  | some m =>
    let dies := (List.range 8).filter fun d => cores.any fun n => dieOf n == d
    let want := shareOut e.repl (dies.map fun d => (d, dieWeight m.2.2 d))
    if want.all fun d => d.2 ≤ (cores.filter fun n => dieOf n == d.1).length then
      some (want.flatMap fun d => (cores.filter fun n => dieOf n == d.1).take d.2)
    else none

/-! ### Placing nodes (R209, R211, R235) -/

/-- A slot that is taken: core, element, slot. -/
abbrev Taken := List (Nat × Nat × Nat)

/-- The slots that a placed node takes: its own and, under `.quad`, those of the same index on the quad's other MXAs. -/
def slotsOf (x : FNode) (n e k : Nat) : Taken :=
  match x.row, x.node with
  | some r, some nd => if r.elem = .mxa ∧ 0x101 ≤ x.opc ∧ x.opc ≤ 0x104 ∧ isQuad nd ∨ x.opc = 0x10B ∧ isQuad nd then
      (quadCores nd n).map fun m => (m, e, k) else [(n, e, k)]
  | _, _ => [(n, e, k)]

/-- The slots that the instances of a group take. -/
def Group.taken (g : Group) : Taken :=
  g.insts.flatMap fun i => if i.state == .evicted then [] else
    i.nodes.flatMap fun (v, e, k) => match g.nodes[v]? with
      | some (iw, lw) => slotsOf (FNode.ofWords iw.toNat lw.toNat) i.n e k
      | none => [(i.n, e, k)]

/-- The slots that a node may take on a core: of its canonical type, working and free. -/
def State.freeSlots (s : State) (x : FNode) (n : Nat) (ready : Nat → Bool) (taken : Taken) : List (Nat × Nat) :=
  match x.row, x.node with
  | some r, some nd =>
    ((List.range 90).filter fun e => elemTypeAt e == some (elemTypeOf r nd)).flatMap fun e =>
      ((List.range (slotCount e)).map fun k => (e, k)).filter fun p =>
        let used := slotsOf x n p.1 p.2
        (used.length = 1 || n % 4 = 0) && used.all fun u =>
          ready u.1 && !taken.contains u && !s.plat.defects.contains (u.1, u.2.1)
  | _, _ => []

/-- Place the nodes of a kernel on a core in index order: an open choice (log 7), among elements where no other kernel has a slot
as long as there are some; `before` are the slots of the others. Answers the node that does not fit. -/
def State.placeNodes (s : State) (key n : Nat) (ready : Nat → Bool) (before : Taken) : List (Nat × FNode) → Taken → List (Nat × Nat × Nat) →
    Except Nat (List (Nat × Nat × Nat) × Taken)
  | [], taken, acc => .ok (acc, taken)
  | (v, x) :: r, taken, acc =>
    let slots := s.freeSlots x n ready taken
    let clean := slots.filter fun p => !before.any fun u => u.1 == n && u.2.1 == p.1
    let free := if clean.isEmpty then slots else clean
    match free[Config.placeHint key v % (if free.length = 0 then 1 else free.length)]? with
    | none => .error v
    | some (e, k) => s.placeNodes key n ready before r (slotsOf x n e k ++ taken) (acc ++ [(v, e, k)])

/-- An instance to place: kernel, replica, core. -/
abbrev Spot := Nat × Nat × Nat

/-- Place every replica: on each core the kernels in ascending index. -/
def State.placeAll (s : State) (f : Folio) (key : Nat → Nat → Nat) (ready : Nat → Bool) : List Spot → Taken → List KInst →
    Except Nat (List KInst)
  | [], _, acc => .ok acc
  | (k, r, n) :: rest, taken, acc =>
    match f.kernels[k]? with
    | none => s.placeAll f key ready rest taken acc
    | some x =>
      let nodes := (List.range x.count).filterMap fun i => (f.nodes[x.first + i]?).map fun y => (x.first + i, y)
      match s.placeNodes (key k n) n ready taken nodes taken [] with
      | .error v => .error v
      | .ok (ps, taken) => s.placeAll f key ready rest taken
          (acc ++ [{ kernel := k, replica := r, n := n, state := .placed, nodes := ps }])

/-! ### Residency, activation limits and frames (R212, R213) -/

/-- Stacks entries of a core's quarter. -/
def stackEntries : Nat := 13107

/-- What an instance needs on an element at one activation. -/
def needOn (k : Kernel) (nodes : List FNode) (pool : List Byte) (i : KInst) (e : Nat) : Nat :=
  let sp := spacesOf k nodes
  let is := instCounts k (placedNodes nodes sp)
  i.nodes.foldl (fun a p => if p.2.1 = e then a + slotNeed k nodes sp pool is p.1 else a) 0

/-- The needs of an instance by element. -/
def needsOf (k : Kernel) (nodes : List FNode) (pool : List Byte) (i : KInst) : List (Nat × Nat) :=
  ((i.nodes.map fun p => p.2.1).eraseDups).map fun e => (e, if k.unchecked then 0 else needOn k nodes pool i e)

/-- A new instance on a core with what the limits need to know: its kernel and needs. -/
structure Sized where
  inst  : KInst
  kern  : Kernel
  needs : List (Nat × Nat)

/-- Entries that elements of a core need at given limits, beyond a quota: the sum and each one's share. -/
def shares (quota : Nat) (old : List (Nat × Nat)) (xs : List Sized) : List (Nat × Nat) :=
  let es := (xs.flatMap fun x => x.needs.map (·.1)).eraseDups
  es.map fun e =>
    let base := match old.find? (·.1 == e) with | some p => p.2 | none => 0
    (e, xs.foldl (fun a x => match x.needs.find? (·.1 == e) with | some p => a + p.2 * x.inst.limit | none => a) base - quota)

def shareSum (l : List (Nat × Nat)) : Nat := l.foldl (fun a p => a + p.2) 0

/-- Frames that the checked instances of a list reserve. -/
def framesOf (xs : List Sized) : Nat := xs.foldl (fun a x => if x.kern.unchecked then a else a + x.inst.limit * (1 + x.kern.callees)) 0

/-- Raise the limits of checked instances, in order, each as far as entries and frames allow. -/
def raiseLimit (fits : List Sized → Bool) (before : List Sized) (x : Sized) (rest : List Sized) : Nat → Sized
  | 0 => x
  | fuel + 1 =>
    let y := { x with inst := { x.inst with limit := x.inst.limit + 1 } }
    if fits (before ++ y :: rest) then raiseLimit fits before y rest fuel else x

def raiseLimits (fits : List Sized → Bool) : List Sized → List Sized → List Sized
  | before, [] => before
  | before, x :: rest =>
    raiseLimits fits (before ++ [if x.kern.unchecked then x else raiseLimit fits before x rest 512]) rest

/-- The outcome for one core: frame size, frame count, instances with limits, SSHARE by element. -/
structure CorePlan where
  n      : Nat
  size   : Nat
  count  : Nat
  insts  : List KInst
  shares : List (Nat × Nat)

/-- Needs of the elements of a core for the instances already there, at their limits. -/
def State.oldNeeds (s : State) (c : BitVec 6) (n : Nat) : List (Nat × Nat) :=
  let all := s.groups.flatMap fun g => if g.ctx != c then [] else
    let nodes := g.nodes.map fun w => FNode.ofWords w.1.toNat w.2.toNat
    g.insts.flatMap fun i => if i.n != n || i.state == .evicted then [] else match g.kernels[i.kernel]? with
      | some k => (needsOf k nodes g.pool i).map fun p => (p.1, p.2 * i.limit)
      | none => []
  ((all.map (·.1)).eraseDups).map fun e => (e, all.foldl (fun a p => if p.1 = e then a + p.2 else a) 0)

/-- Frames reserved on a core by the checked instances already there (R212). -/
def State.oldFrames (s : State) (n : Nat) : Nat :=
  s.groups.foldl (fun a g => g.insts.foldl (fun a i => if i.n ≠ n ∨ i.state = .evicted then a else match g.kernels[i.kernel]? with
    | some k => if k.unchecked then a else a + i.limit * (1 + k.callees)
    | none => a) a) 0

/-- The stacks entries that resident groups hold of an element (R209, R212): what its checked instances need beyond its quota, and, where
an UNCHECKED kernel has a slot there, all that its share gives. -/
def State.stackHeld (s : State) (c : BitVec 6) (n e : Nat) (old : List (Nat × Nat)) : Nat :=
  let x := s.elem n e
  let loose := s.groups.any fun g => g.ctx == c && g.insts.any fun i => i.n == n && i.state != .evicted && i.nodes.any (·.2.1 == e) &&
    (match g.kernels[i.kernel]? with | some k => k.unchecked | none => false)
  if loose then x.sshare.toNat else (match old.find? (·.1 == e) with | some p => p.2 | none => 0) - x.equota.toNat

/-- Limits, frames and stacks entries of one core (R200, R212), or the load error. -/
def State.planCore (s : State) (c : BitVec 6) (quota : Nat) (partw : BitVec 32) (n : Nat) (xs : List Sized) : Except Nat CorePlan :=
  let x := s.core n
  let need := xs.foldl (fun a y => max a y.kern.footprint) 0
  let fixed := x.owner.isSome && x.fsize != 0
  let size := if fixed then x.fsize else need
  let pw := partw.toNat
  let count := if fixed then x.fcount else min 512 ((field pw 6 0 - field pw 31 24) * 65536 / max size 1)
  let old := s.oldNeeds c n
  let xs := xs.map fun y => { y with inst := { y.inst with limit := if y.kern.unchecked then count else 1 } }
  let mine := (xs.flatMap fun y => y.needs.map (·.1)).eraseDups
  let held := (List.range 90).foldl (fun a e => if mine.contains e then a else a + s.stackHeld c n e old) 0
  let extra := mine.foldl (fun a e => a + (s.stackHeld c n e old -
    ((match old.find? (·.1 == e) with | some p => p.2 | none => 0) - (s.elem n e).equota.toNat))) 0
  let free := stackEntries - held - extra
  let inStack (ys : List Sized) : Bool := shareSum (shares quota old ys) ≤ free
  let inFrames (ys : List Sized) : Bool := s.oldFrames n + framesOf ys ≤ count
  if !inStack xs then .error leResidency
  else if size < need || !inFrames xs then .error lePlace
  else
    let ys := raiseLimits (fun ys => inStack ys && inFrames ys) [] xs
    let sh := shares quota old ys
    let loose := ((ys.filter fun y => y.kern.unchecked).flatMap fun y => y.needs.map (·.1)).eraseDups
    let more := (free - shareSum sh) / max loose.length 1
    .ok { n := n, size := size, count := count, insts := ys.map (·.inst),
          shares := sh.map fun p => (p.1, if loose.contains p.1 then p.2 + more else p.2) }

/-! ### The configuration stream (R49 to R51, R420) -/

def writeWord (e f v : Nat) : BitVec 32 := BitVec.ofNat 32 (e * 2 ^ 23 + f * 2 ^ 16 + v % 65536)
def selectWord (n : Nat) : BitVec 32 := BitVec.ofNat 32 (2 ^ 30 + dieOf n * 2 ^ 26 + coreIn n * 2 ^ 21)
def commitWord : BitVec 32 := BitVec.ofNat 32 (2 ^ 31 + 2 ^ 26)

/-- A field with its EXTEND where the high half is not zero. -/
def fieldWords (e f v : Nat) : List (BitVec 32) :=
  if f ≠ 0x08 ∧ v / 65536 ≠ 0 then [BitVec.ofNat 32 (3 * 2 ^ 30 + v / 65536), writeWord e f v] else [writeWord e f v]

/-- The route of a placed node of a kernel instance (R48, R50), with the valid bit and a port. -/
def destWord (i : KInst) (v port : Nat) : Nat :=
  match i.nodes.find? (·.1 == v) with
  | some (_, e, k) => 2 ^ 31 + port * 2 ^ 21 + dieOf i.n * 2 ^ 17 + coreIn i.n * 2 ^ 12 + e * 2 ^ 5 + k
  | none => 0

/-- SFMT of a slot: its own format, every format under FMT 111, and those its ports fix. -/
def sfmtOf (r : Row) (n : Node) : Nat :=
  let fixed := (r.ports n).foldl (fun a p => match p with | .fix f => a ||| 2 ^ f.code | _ => a) 0
  (if n.fmt = .X then 0xFF else 2 ^ n.fmt.code) ||| fixed

/-- The slot image of a placed node (R50). -/
def slotImage (f : Folio) (i : KInst) (v : Nat) (x : FNode) : Slot :=
  let ds (j : Nat) : Nat := match x.node with
    | some n => (match n.dests[j]? with | some d => destWord i d.node.toNat d.port.toNat | none => 0)
    | none => 0
  let cv (p : Nat) : Nat := match f.convs.find? fun e => e.1 == v && e.2.1 == p with
    | some e => destWord i e.2.2 0
    | none => 0
  let rank := match f.order.findIdx? (· == v) with | some k => k | none => 0
  { iw := BitVec.ofNat 64 x.iw, lw := BitVec.ofNat 64 x.lw, dest0 := BitVec.ofNat 32 (ds 0), dest1 := BitVec.ofNat 32 (ds 1),
    dest2 := BitVec.ofNat 32 (ds 2), nodeid := BitVec.ofNat 18 v, grank := BitVec.ofNat 18 rank,
    sfmt := BitVec.ofNat 8 (match x.row, x.node with | some r, some n => sfmtOf r n | _, _ => 0),
    conv0 := BitVec.ofNat 32 (cv 0), conv1 := BitVec.ofNat 32 (cv 1), conv2 := BitVec.ofNat 32 (cv 2) }

/-- The words that write a slot, which an eviction has left empty (R215): a field without a use gets none. -/
def imageWords (e k : Nat) (x : Slot) : List (BitVec 32) :=
  let half (w : Word) (b : Nat) : List (BitVec 32) := (List.range 4).map fun h => writeWord e (b + h) (w.toNat >>> (16 * h))
  let wide (f v : Nat) : List (BitVec 32) := if v = 0 then [] else fieldWords e f v
  writeWord e 0x08 k :: half x.iw 0 ++ half x.lw 4 ++ wide 0x09 x.dest0.toNat ++
  wide 0x0A x.dest1.toNat ++ wide 0x0B x.dest2.toNat ++ fieldWords e 0x0C x.nodeid.toNat ++
  fieldWords e 0x0D x.grank.toNat ++ [writeWord e 0x10 x.sfmt.toNat] ++ wide 0x11 x.conv0.toNat ++
  wide 0x12 x.conv1.toNat ++ wide 0x13 x.conv2.toNat

/-- The slots that a plan writes on its core: element, slot, image. -/
def CorePlan.images (p : CorePlan) (f : Folio) : List (Nat × Nat × Slot) :=
  p.insts.flatMap fun i => i.nodes.filterMap fun (v, e, k) => (f.nodes[v]?).map fun x => (e, k, slotImage f i v x)

/-- The slots that a plan writes, 32 to an element. -/
def CorePlan.taken (p : CorePlan) : List Nat := p.insts.flatMap fun i => i.nodes.map fun (_, e, k) => e * 32 + k

/-- DRAINREQ, sent first for each context that holds or has held a slot that the region rewrites (R420). -/
def State.drainWords (s : State) (p : CorePlan) : List (BitVec 32) :=
  ((((s.core p.n).had.filter fun h => p.taken.contains h.1).map (·.2)).eraseDups).map fun c => ctlWord 3 (BitVec.ofNat 6 c)

/-- The least class of the slots that an element already has, as a region finds it (R50). -/
def State.oldClass (s : State) (n e : Nat) : Nat :=
  if (s.core n).owner.isSome ∧ ((s.elem n e).slots).length ≠ 0 then (s.elem n e).eclass.toNat else 3

/-- The configuration stream of one core for a launch. -/
def State.coreWords (s : State) (c : BitVec 6) (f : Folio) (base : BitVec 2) (quota : Nat) (p : CorePlan) : List (BitVec 32) :=
  let cls (e : Nat) : Nat := p.insts.foldl (fun a i => if i.nodes.any (·.2.1 == e) then
      min a (max base.toNat (match f.kernels[i.kernel]? with | some k => k.cls.toNat | none => 3)) else a)
    (s.oldClass p.n e)
  [ctlWord 0 c, selectWord p.n] ++
  ((p.images f).flatMap fun (e, k, x) => imageWords e k x) ++
  (p.shares.flatMap fun (e, v) => [writeWord e 0x14 (cls e), writeWord e 0x15 quota, writeWord e 0x16 0, writeWord e 0x17 0] ++
    fieldWords e 0x18 v) ++ [commitWord]

/-! ### The launch as a whole -/

/-- The end of a launch that is refused (R3, R316). -/
def State.refuseLaunch (s : State) (l : Launch) (die err node : Nat) : State :=
  let w (i : Nat) : Nat := (l.words.getD i 0).toNat
  if l.words.length != 16 || w 10 % 64 != 0 then s
  else s.record l.ctx (coreNum die 0) (bitOf (w 0) 41) (w 10) (launchCompl 2 err (groupIdOf l.words) node s.cycle)

/-- The folio of a launch: TOTLEN is read with the header, then the whole (R30). -/
def State.readFolio (s : State) (l : Launch) (die : Nat) : Except LoadFail Folio × State :=
  let virt := bitOf (l.words.getD 0 0).toNat 41
  let addr := (l.words.getD 1 0).toNat
  let (h, s) := s.fetchBytes virt l.ctx die addr 64
  match h with
  | none => (.error (leRead, noNodeIndex), s)
  | some h =>
    if numAt h 0 4 ≠ 0x4F46_5750 then (.error (leMagic, noNodeIndex), s)
    else if numAt h 4 2 ≠ 1 ∨ numAt h 6 2 ≠ 0 then (.error (leVersion, noNodeIndex), s)
    else if folioLen h % 16 ≠ 0 ∨ folioLen h < 112 then (.error (leLayout, noNodeIndex), s)
    else
      let (b, s) := s.fetchBytes virt l.ctx die addr (folioLen h)
      match b with
      | none => (.error (leRead, noNodeIndex), s)
      | some b => (parseFolio b, s)

/-- PARTW of a record breaks R57, or differs from that of the context's cores (R315). -/
def State.partwFails (s : State) (l : Launch) : Bool :=
  let pw := (l.words.getD 5 0).toNat
  128 < field pw 6 0 + field pw 14 8 + field pw 22 16 || 2 < field pw 14 8 || field pw 6 0 < field pw 31 24 || bitOf pw 23 ||
  bitOf pw 15 || bitOf pw 7 || s.cores.any fun p => p.2.owner == some l.ctx && p.2.partw.toNat != pw

/-- The folio with the kernel entries and sizes of a launch. -/
def Folio.sized (f : Folio) (t : Tables) : Folio :=
  { f with kernels := f.kernels.zipIdx.map fun (k, i) =>
      let e := (t.kernels[i]?).getD (KEntry.ofNat 0)
      let k := kernelSizes k f.nodes (spacesOf k f.nodes)
      { k with main := e.main, aff := e.aff, lowat := e.lowat, hiwat := e.hiwat, repl := e.repl } }

/-- A plan of a launch: one plan per core. -/
abbrev Plan := List CorePlan

/-- Placement and sizes (R209, R212, R317): the plan, or LE_RESIDENCY or LE_PLACE with its node. -/
def State.plan (s : State) (l : Launch) (f : Folio) (t : Tables) (key : Nat → Nat → Nat) : Except LoadFail Plan :=
  let cores := maskCores l.words
  let partw := BitVec.ofNat 32 (l.words.getD 5 0).toNat
  let q := field (l.words.getD 0 0).toNat 40 32
  let quota := if q = 0 then 256 else q
  let spots := t.kernels.zipIdx.map fun (e, k) => (replicaCores e t.map cores).map fun (ns : List Nat) => ns.zipIdx.map fun (y : Nat × Nat) => (k, y.2, y.1)
  if spots.any (·.isNone) then .error (lePlace, noNodeIndex)
  else
    let spots : List Spot := spots.flatMap fun x => x.getD []
    let byCore := cores.flatMap fun n => spots.filter fun x => x.2.2 == n
    let ready (n : Nat) : Bool := cores.contains n
    match s.placeAll f key ready byCore (s.groups.flatMap Group.taken) [] with
    | .error v => .error (lePlace, v)
    | .ok insts =>
      let used := cores.filter fun n => insts.any fun i => i.n == n
      let plans := used.map fun n => s.planCore l.ctx quota partw n ((insts.filter fun i => i.n == n).filterMap fun i =>
        (f.kernels[i.kernel]?).map fun k => { inst := i, kern := k, needs := needsOf k f.nodes f.pool i })
      let code (c : Nat) : Bool := plans.any fun p => match p with | .error e => e == c | .ok _ => false
      if code leResidency then .error (leResidency, noNodeIndex)
      else if code lePlace then .error (lePlace, noNodeIndex)
      else .ok (plans.filterMap fun p => match p with | .ok x => some x | .error _ => none)

/-- The pipes of a group with their homes, and the cores whose token-buffer space they exceed. -/
def pipesOf (f : Folio) (t : Tables) (insts : List KInst) : List Pipe :=
  t.pipes.zipIdx.map fun (cap, p) =>
    let users (out : Bool) : List Nat := (List.range f.kernels.length).filter fun k => match f.kernels[k]? with
      | some x => x.ports.any fun r => r.out == out && r.pipe == p
      | none => false
    let at_ (ks : List Nat) : List Nat := (insts.filter fun i => ks.contains i.kernel).map (·.n)
    let all := if (users false).isEmpty then at_ (users true) else at_ (users false)
    match all with
    | [] => { cap := cap, home := (insts.map (·.n)).foldl min 319, prod := 0 }
    | n :: r => { cap := cap, home := r.foldl min n, prod := (at_ (users true)).length }

/-- Numbers in one, as a placement key. -/
def keyOf (l : List Nat) : Nat := l.foldl (fun a x => a * 2 ^ 512 + x) 1

/-- The placement key of a kernel on a core (R209). The occupancy holds everything that placement, limits and the stream read of
what resident groups hold of a core; CLASSB and the quota of the record stand beside the five parts (log 22). -/
def State.placeKey (s : State) (l : Launch) (f : Folio) (t : Tables) (k n : Nat) : List Nat :=
  let cores := maskCores l.words
  let here := (List.range t.kernels.length).filter fun j => match t.kernels[j]? with
    | some e => (match replicaCores e t.map cores with | some ns => ns.contains n | none => false)
    | none => false
  let mask := cores.foldl (fun a m => a ||| 2 ^ m) 0
  let taken := (s.groups.flatMap Group.taken).filter fun x => cores.contains x.1
  [leNat f.digest, k, n, keyOf here, mask, (l.words.getD 5 0).toNat, keyOf (taken.map fun x => elemKey x.1 x.2.1 * 32 + x.2.2),
   keyOf (cores.flatMap fun m => [ofBool (s.core m).owner.isSome, (s.core m).fsize, (s.core m).fcount, s.oldFrames m, s.pipeSpace m]),
   keyOf (cores.flatMap fun m => let old := s.oldNeeds l.ctx m; (List.range 90).flatMap fun e =>
     if (s.elem m e).slots.isEmpty then [] else [e, s.stackHeld l.ctx m e old, (s.elem m e).equota.toNat, (s.elem m e).eclass.toNat]),
   keyOf (cores.flatMap fun m => (s.oldNeeds l.ctx m).flatMap fun p => [m, p.1, p.2]),
   s.plat.epoch.toNat, field (l.words.getD 0 0).toNat 49 48, field (l.words.getD 0 0).toNat 40 32]

/-- The security controller measures a folio that a bindery accepts first (R454). -/
def State.measure (s : State) (digest : List Byte) : State :=
  if s.plat.seen.contains digest then s
  else
    let p := s.plat
    { s with plat := { p with measure := sha384 (p.measure ++ digest), measured := p.measured + 1, seen := p.seen ++ [digest],
                              log := if p.log.length < 4096 then p.log ++ [digest] else p.log,
                              logFull := p.logFull || 4096 ≤ p.log.length } }

/-- Bind an accepted launch (R325): the group PLACING, the cores where it is placed in the partition (R346), its words in the
stream, reused where the cache has their key (R210). The other cores of a quad whose MXAs a node spans join with equal PARTW (R235). No CSR changes but
PARTW, whose value comes from the launch (R57, R434). -/
def State.bindLaunch (s : State) (l : Launch) (die : Nat) (f : Folio) (t : Tables) (plan : Plan) (pipes : List Pipe) (keys : List (Nat × List Nat)) : State :=
  let w0 := (l.words.getD 0 0).toNat
  let base := BitVec.ofNat 2 (field w0 49 48)
  let partw := BitVec.ofNat 32 (l.words.getD 5 0).toNat
  let q := field w0 40 32
  let quota := if q = 0 then 256 else q
  let g : Group :=
    { serial := l.serial, die := die, number := l.number, ctx := l.ctx, words := l.words, source := l.source, state := .placing, base := base, cls := base,
      digest := f.digest, pool := f.pool, nodes := f.nodes.map fun x => (BitVec.ofNat 64 x.iw, BitVec.ofNat 64 x.lw),
      order := f.order, convs := f.convs, map := t.map, kernels := f.kernels.map Kernel.start, insts := plan.flatMap (·.insts), pipes := pipes,
      compl := l.words.getD 10 0, todo := plan.length, keys := keys.map (·.2) }
  let cache := (s.bind die).cache
  let stream (p : CorePlan) : List (BitVec 32) :=
    match (keys.find? (·.1 == p.n)).bind fun k => cache.find? (·.1 == k.2) with
    | some c => c.2
    | none => s.coreWords l.ctx f base quota p
  let fill := (keys.filter fun k => !cache.any (·.1 == k.2)).filterMap fun k => (plan.find? (·.n == k.1)).map fun p => (k.2, stream p)
  let words := plan.flatMap fun p => (s.drainWords p ++ stream p).map fun w => (p.n, w)
  let s := plan.foldl (fun s p => s.modCore p.n fun c =>
    let c := if c.owner.isSome then c else { c.left with owner := some l.ctx, partw := partw, acc := [] }
    { c with fsize := p.size, fcount := p.count,
             had := (c.had.filter fun h => !p.taken.contains h.1) ++ p.taken.map fun k => (k, l.ctx.toNat) }) s
  let s := (g.cores.eraseDups.filter fun n => !plan.any (·.n == n)).foldl (fun s n => s.modCore n fun c =>
    let c := if c.owner.isSome then c else { c.left with owner := some l.ctx, partw := partw, acc := [] }
    { c with had := c.had ++ (g.taken.filter (·.1 == n)).map fun u => (u.2.1 * 32 + u.2.2, l.ctx.toNat) }) s
  let s := s.modCtx l.ctx fun c => { c with csrs := { c.csrs with partw := partw } }
  let s := { s with groups := s.groups ++ [g] }
  s.modBind die fun b => { b with stream := b.stream ++ words, cache := (cache ++ fill).drop ((cache ++ fill).length - 256) }

/-- The checks of a launch in the order of R315, and what follows. -/
def State.checkLaunch (s : State) (l : Launch) (die : Nat) : State :=
  let no (s : State) (err node : Nat) : State := s.refuseLaunch l die err node
  let cores := maskCores l.words
  if recordBad l then no s leRecord noNodeIndex
  else
    let (t, s) := s.readTables l die
    match t with
    | .error e => no s e noNodeIndex
    | .ok t =>
      if tablesBad t cores.length then no s leRecord noNodeIndex
      else if s.contextFails l then no s leContext noNodeIndex
      else if s.partitionFails l then no s lePartition noNodeIndex
      else if mapFails t cores then no s leMap noNodeIndex
      else
        let (r, s) := s.readFolio l die
        match r with
        | .error e => no s e.1 e.2
        | .ok f =>
          if pipecapFails f t then no s lePipecap noNodeIndex
          else
            let f := f.sized t
            let bs := f.bounds
            let loops := f.kernels.filterMap fun k => wellformFail k f.nodes (spacesOf k f.nodes)
            match classFail f bs (field (l.words.getD 0 0).toNat 49 48), loops with
            | some v, _ => no s leClass v
            | none, v :: _ => no s leWellform v
            | none, [] =>
              let key (k n : Nat) : Nat := keyOf (s.placeKey l f t k n)
              let plan := s.plan l f t key
              match plan, payloadFail f bs with
              | .error (0x0E, v), _ => no s leResidency v
              | _, some v => no s lePayload v
              | p, none =>
                if s.partwFails l then no s lePartw noNodeIndex
                else match p with
                  | .error e => no s e.1 e.2
                  | .ok plan =>
                    let insts := plan.flatMap (·.insts)
                    let pipes := pipesOf f t insts
                    let room (n : Nat) : Bool :=
                      s.pipeSpace n + pipes.foldl (fun a p => if p.home = n then a + p.cap * 320 else a) 0 ≤
                        field (l.words.getD 5 0).toNat 31 24 * 65536
                    if !(pipes.all fun p => room p.home) then no s lePlace noNodeIndex
                    else
                      let keys := (insts.map fun i => (i.n, s.placeKey l f t i.kernel i.n)).eraseDups
                      (s.measure f.digest).bindLaunch l die f t plan pipes keys

/-- A launch waits while its context is being bound, saved or restored, or is SAVED (R325). -/
def State.launchWaits (s : State) (l : Launch) : Bool :=
  match (s.ctx l.ctx).state with
  | .binding | .saving | .saved | .savefail | .restoring => true
  | _ => false

/-- LAUNCH_RECORD (R315): the bindery of a die takes its next record. -/
def execLaunchRecord (die : Nat) (s : State) : Host.Outcome State Fault Refusal :=
  .next (match (s.bind die).launches.find? fun l => s.plat.up && !s.launchWaits l with
    | none => s
    | some l => (s.modBind die fun b => { b with launches := b.launches.filter (·.serial != l.serial) }).checkLaunch l die)

end Sys2Proof.Machine
end

