-- ==== Sys2Proof/Machine/Halt.lean ====
section
/-! DEFINITION. The halt domain: fault tree (R355), halt line, skid and stop records (R353, R354), RESUME (R360), the discarding
of a destroyed context, and the operations HALT, QUERY, BIND with BOUND, DESTROY and RECLAIMED (R347 to R351). -/

namespace Sys2Proof.Machine

/-! ### Partition and master bindery -/

/-- The cores of a partition (R346), ascending. -/
def State.partition (s : State) (c : BitVec 6) : List Nat := (s.cores.filter fun p => p.2.owner == some c).map (·.1)

/-- The die of a context's master bindery (R351). -/
def State.masterDie (s : State) (c : BitVec 6) : Nat := match s.partition c with | n :: _ => dieOf n | [] => 0

/-- An operation has an element of the fabric, not the device itself, behind it. -/
def Op.ofElement (o : Op) : Bool := o.fir.elem < 90

/-! ### The end of an operation (R349, R351, R375) -/

/-- The firing of an SVCTX, RSCTX or DUMP emits its element, once its context is not halted. -/
def State.emitCtxOp (s : State) (w : Op) : State :=
  match w.nums with
  | v :: _ => if s.halted w.fir.tag.ctx then s else s.closeOp w 0 fun s => w.fire.emitAll s (out0 (w.fire.one64 v))
  | [] => s

/-- Give a waiting firing its element, in the fabric and in the images of it. -/
def State.answer (s : State) (id v : Nat) : State :=
  let s : State := { s with told := s.told ++ [(id, v)], ops := s.ops.map fun o => if o.named id then { o with nums := [v] } else o }
  (s.ops.filter (·.named id)).foldl (fun s w => s.emitCtxOp w) s

/-- Report the end of an operation on a context to its firing or its completion record. -/
def State.endOp (s : State) (c : BitVec 6) (o : CtxOp) (code result : Nat) : State :=
  match o.waiter, o.compl with
  | some id, _ => s.answer id (opElem code (s.ctx c).state.code result)
  | none, some a => s.reportCmd c (s.masterDie c) a.toNat (if code = stDone then 1 else 2) code result
  | none, none => s

/-- End the present operation of a context. -/
def State.endHeld (s : State) (c : BitVec 6) (code result : Nat) : State :=
  match (s.ctx c).holding with
  | some o => (s.modCtx c fun x => { x with holding := none }).endOp c o code result
  | none => s

/-- Accept the next operation of a context (R351): the head of its queue, of the kind asked for, none being present. -/
def State.takeOp (s : State) (c : BitVec 6) (op : COp) : Option (CtxOp × State) :=
  match (s.ctx c).holding, (s.ctx c).queue with
  | none, o :: r => if o.op == op then some (o, s.modCtx c fun y => { y with queue := r }) else none
  | _, _ => none

/-- Act on an accepted operation. -/
def State.accept (s : State) (c : BitVec 6) (op : COp) (act : CtxOp → State → State) : Host.Outcome State Fault Refusal :=
  .next (match s.takeOp c op with
    | some (o, s) => act o s
    | none => s)

/-- An operation held under HALTING raises the halt line (R350, R353). -/
def State.raiseLine (s : State) (c : BitVec 6) (o : CtxOp) : State :=
  s.modCtx c fun x => { x with state := .halting, halt := some s.cycle, byFault := false, holding := some o }

/-- HALTOP (R350, R375): on RUNNING; a self-HALT emits its element before the line rises. -/
def execHaltop (ctx : BitVec 6) (s : State) : Host.Outcome State Fault Refusal := s.accept ctx .halt fun o s =>
  if (s.ctx ctx).state != .running then s.endOp ctx o stState 0
  else if o.source == some ctx then (s.endOp ctx o stDone 0).raiseLine ctx { o with waiter := none }
  else s.raiseLine ctx o

/-- QUERYOP (R350, R375): in every state. -/
def execQueryop (ctx : BitVec 6) (s : State) : Host.Outcome State Fault Refusal := s.accept ctx .query fun o s =>
  s.endOp ctx o stDone (s.ctx ctx).frec.st

/-! ### BIND (R348) -/

def execBindop (ctx : BitVec 6) (s : State) : Host.Outcome State Fault Refusal := s.accept ctx .bind fun o s =>
  if (s.ctx ctx).state != .free then s.endOp ctx o stState 0
  else s.modCtx ctx fun x => { x with state := .binding, holding := some o }

/-- A context descriptor that R348 accepts. -/
def bindOk (w : List Nat) : Bool :=
  let g (i : Nat) : Nat := w.getD i 0
  field (g 0) 63 53 == 0 && field (g 0) 11 0 == 0 && field (g 0) 51 0 + 4096 ≤ hbmEnd && field (g 5) 63 17 == 0 &&
  (!bitOf (g 5) 16 || field (g 5) 15 0 != 0) && g 6 == 0 && g 7 == 0

/-- Bindings and initial CSRs that a descriptor gives; the rest has its reset value. -/
def Context.bound (x : Context) (w : List Nat) : Context :=
  let g (i : Nat) : Nat := w.getD i 0
  { queue := x.queue, holding := x.holding, state := x.state, sup := bitOf (g 0) 52, ptroot := BitVec.ofNat 52 (g 0),
    pod := bitOf (g 5) 16, job := BitVec.ofNat 16 (g 5),
    csrs := { savedesc := BitVec.ofNat 64 (g 1), dumpdesc := BitVec.ofNat 64 (g 2), nqbase := BitVec.ofNat 64 (g 3),
              rngkey := BitVec.ofNat 64 (g 4) } }

/-- BOUND, or BINDFAIL where the descriptor cannot be read or breaks R348. -/
def execBound (ctx : BitVec 6) (s : State) : Host.Outcome State Fault Refusal :=
  .next (match (s.ctx ctx).state, (s.ctx ctx).holding with
    | .binding, some o =>
      let a := o.arg.toNat
      let (b, s) := if a % 64 = 0 then s.devRead (coreNum (s.masterDie ctx) 0) a 64 else (none, s)
      match b.map fun b => (wordsOf b).map (·.toNat) with
      | some w =>
        if bindOk w then ((s.modCtx ctx fun x => { x.bound w with state := .running }).endHeld ctx stDone 0).settleGroups
        else (s.modCtx ctx fun x => { x with state := .free }).endHeld ctx stNodesc 0
      | none => (s.modCtx ctx fun x => { x with state := .free }).endHeld ctx stNodesc 0
    | _, _ => s)

/-! ### The fault tree (R355) -/

/-- Two tokens stand at one place of the tree: the same core, quad or die. -/
def FaultTok.meets (a b : FaultTok) : Bool :=
  let n (t : FaultTok) : Nat := coreNum t.recd.die.toNat t.recd.core.toNat
  a.ctx == b.ctx && a.level == b.level && a.recd.arrived == b.recd.arrived && a.recd.tag == b.recd.tag &&
  (if a.level = 1 then n a == n b else if a.level = 2 then quadOf (n a) == quadOf (n b) else dieOf (n a) == dieOf (n b))

/-- FAULT_TOKEN (R355): a token moves one level up, where tokens with its tag that arrive in the same cycle merge with it; at
the root the fault record takes it. -/
def execFaultToken (tok : Nat) (s : State) : Host.Outcome State Fault Refusal :=
  .next (match s.faults.find? (·.id == tok) with
    | none => s
    | some t =>
      let rest := s.faults.filter (·.id != tok)
      let t := { t with level := t.level + 1, recd := { t.recd with arrived := s.cycle } }
      if 4 ≤ t.level then
        { s with faults := rest }.modCtx t.ctx fun x => { x with frec := x.frec.merge t.recd }
      else match rest.find? t.meets with
        | some u => { s with faults := updFirst (fun v => v.id == u.id) (fun v => { v with recd := v.recd.merge t.recd }) rest }
        | none => { s with faults := rest ++ [t] })

/-! ### The halt line and stop records (R353, R354) -/

/-- The line of the context that owns a core is up. -/
def State.lineUp (s : State) (n : Nat) : Option (BitVec 6 × Nat) :=
  (s.core n).owner.bind fun c => (s.ctx c).halt.map fun t => (c, t)

/-- An operation runs on an element: its own, or an MXA that its quad split spans (R235). -/
def Op.at (o : Op) (n elem : Nat) : Bool :=
  o.fir.elem == elem && (o.fir.n == n || (o.kind == .matrix && (mxaCores o.opc o.instr o.fir.n).contains n))

/-- Finish the unit that an operation is in on a core (R353); what stalls stays undone. -/
def State.finishUnit (s : State) (o : Op) (n : Nat) : State :=
  if o.st == .active && o.kind == .pmig then s.pmigUnit o
  else if o.st == .active && o.kind == .matrix then s.arrayFinish o n
  else if o.st != .active || (o.mask.isEmpty && o.bad.isEmpty && !((o.kind == .xfer || o.kind == .drain) && !o.vals.isEmpty)) then s
  else match o.kind with
    | .select => (List.range (selTasks o)).foldl (fun s k => match s.findOp o.id with
        | some p => if p.book == o.book && p.st == .active then s.selectStep p k else s
        | none => s) s
    | .xfer => s.xferUnit o
    | .drain => s.drainUnit o
    | .dq => s.dqUnit o
    | .coll => s.collUnit o none
    | _ => s

/-- HALT_LINE (R353): the line reaches an element; its operations finish their units, and it stops. -/
def execHaltLine (n elem : Nat) (s : State) : Host.Outcome State Fault Refusal :=
  .next (match s.lineUp n with
    | none => s
    | some _ =>
      if 90 ≤ elem || (s.elem n elem).halted.isSome then s
      else
        let s := (s.ops.filter fun o => o.at n elem).foldl (fun s o => match s.findOp o.id with
          | some o => s.finishUnit o n
          | none => s) s
        let s := ((s.elem n elem).out.map (·.id)).foldl (fun s id => s.payLate n elem id) s
        s.modElem n elem fun e => { e with halted := some s.cycle })

/-- Operand snapshot: element 0 of a port. -/
def Fire.opnd (x : Fire) (p : Nat) : Nat :=
  match x.port? p with
  | some t => leNat (t.data.take (min 8 t.esize))
  | none => 0

/-- JFLAGS bits of exceptions. -/
def jflagsOf (fl : Nat) : Nat :=
  (List.range 8).foldl (fun a j => (List.range 5).foldl (fun a k => if bitOf fl (8 * j + k) then a ||| 2 ^ (5 * j + k) else a) a) 0

/-- The bookmark of an operation on an element's core (R236). -/
def Op.bookAt (o : Op) (n : Nat) : Nat := if o.fir.n = n then (if o.kind = .matrix then o.nums.getD 0 o.book else o.mark) else o.nums.getD (n - o.fir.n) 0

/-- The operation that a stop record describes: one that a halting fault ended here, else the first in progress at the element. -/
def State.inProgress (s : State) (n elem : Nat) : Option Op :=
  (s.elem n elem).culprit.orElse fun _ => s.ops.find? fun o => o.at n elem && o.st != .complete

/-- JFLAGS bits that an operation on a jet lane raised (R178, R354): those of classes whose disposition is not IGNORE. -/
def Op.jfl (o : Op) : Nat :=
  if o.instr.lane = .jet then
    (List.range 40).foldl (fun a b => if bitOf (jflagsOf o.flags) b && disposition o.cap.exc (b % 5) != 0 then a ||| 2 ^ b else a) 0
  else 0

/-- The words of a stop record (R354). ASYNC stands also where the element's halting fault is of an asynchronous operation (R358). -/
def State.stopWords (s : State) (n elem rise : Nat) : List Nat :=
  let e := s.elem n elem
  let op := s.inProgress n elem
  let skid := min ((e.halted.getD rise) - rise) 0xFFFF
  let cyc := (s.cycleClass n elem (e.halted.getD s.cycle)).1
  let w0 := dieOf n * 2 ^ 44 + coreIn n * 2 ^ 39 + elem * 2 ^ 32 + e.cause % 2 ^ 16 * 2 ^ 16 + skid
  match op with
  | none => [w0, 0, cyc * 2 ^ 31, 0, 0, 0, 0, 0]
  | some o =>
    let x := o.fire
    let kidx := match x.own s with | some (_, _, i) => i.kernel | none => 0
    let late := e.async || Assoc.get 0 e.started o.fir.slot != o.fir.id
    [w0, o.fir.tag.bits * 2 ^ 16,
     o.fir.img.nodeid.toNat * 2 ^ 46 + kidx * 2 ^ 34 + cyc * 2 ^ 31 + ofBool late * 2 ^ 30 + 2 ^ 29,
     im o.instr * 2 ^ 32 + o.bookAt n % 2 ^ 32, x.opnd 0, x.opnd 1, x.opnd 2,
     o.cap.rm.code * 2 ^ 59 + o.cap.cap.toNat * 2 ^ 56 + o.cap.exc.toNat * 2 ^ 40 + o.jfl]

/-- A P0 firing with issued requests has not come to its end (R266): a request is unanswered, stalled writes apart, an output
waits for what it certifies, or one in the output buffer, or waiting for it, is not yet in its concordance. -/
def State.p0Busy (s : State) (n elem : Nat) : Bool :=
  (s.ops.any fun o => o.kind == .mem && o.fir.n == n && o.fir.elem == elem && (o.st == .complete || o.accs.any (·.st == .pending))) ||
  ((s.elem n elem).out ++ (s.elem n elem).emitq).any fun o => (s.elem n elem).requests o.slot

/-- STOP_RECORD (R354): once the P0 firings of the element have come to their end. -/
def execStopRecord (n elem : Nat) (s : State) : Host.Outcome State Fault Refusal :=
  .next (match s.lineUp n with
    | none => s
    | some (_, rise) =>
      if (s.elem n elem).halted.isNone || (s.elem n elem).stop.isSome || s.p0Busy n elem then s
      else s.modElem n elem fun e => { e with stop := some ((s.stopWords n elem rise).map (BitVec.ofNat 64)) })

/-- The condition of STOPPED (R353): every stop record written, no packet of the context left, its fault tokens at the root. -/
def State.allStopped (s : State) (c : BitVec 6) : Bool :=
  ((s.partition c).all fun n => (List.range 90).all fun e => (s.elem n e).stop.isSome) &&
  !s.net.any (fun p => p.tok.tag.ctx == c) && !s.faults.any (·.ctx == c) &&
  !s.counts.any fun r => r.ctx == c && (!r.starts.isEmpty || !r.stops.isEmpty)

/-! ### RESUME (R360) -/

/-- A stopped operation goes on: the access that stopped it is issued again, performed ones are not (R260); what its computation
has raised so far is kept, and so are its failures where it was stopped by an address without translation. -/
def Op.resumed (o : Op) (now : Nat) : Op :=
  if o.st = .stopped then
    { o with st := .active, miss := none, since := now,
             bad := if o.miss.isSome then o.bad else [], fail := if o.miss.isSome then o.fail else none,
             flags := if o.miss.isSome || o.fail.isNone then o.flags
                      else [clsPOISON, clsPROT, clsFMT].foldl (fun a k => (a ||| flag k 0) ^^^ flag k 0) o.flags,
             accs := o.accs.map fun a => match a.st with
               | .failed c => if c = 0 ∨ o.miss.isNone then { a with st := .pending, since := now } else a
               | _ => a }
  else { o with since := now }

/-- Lower the halt line of a context: elements and operations continue, waiting tokens match again. -/
def State.resume (s : State) (c : BitVec 6) : State :=
  let cores := s.partition c
  let s := s.modCtx c fun x => { x with state := .running, halt := none, byFault := false, image := none }
  let s : State := { s with
    elems := s.elems.foldl (fun m (k, e) =>
      if cores.contains (k / 128) then Assoc.set {} m k { e with halted := none, stop := none, cause := 0, culprit := none, async := false } else m) s.elems,
    ops := s.ops.map fun o => if o.fir.tag.ctx == c && o.ofElement then o.resumed s.cycle else o }
  let s := (s.ops.filter fun o => o.fir.tag.ctx == c).foldl State.wakeBarw s
  let s := (s.ops.filter fun o => o.kind == .ctxOp && o.fir.tag.ctx == c).foldl (fun s o => s.emitCtxOp o) s
  let s := cores.foldl (fun s n =>
    let s := (s.core n).frames.foldl (fun s (f, x) => match x with
      | some x => x.insts.foldl (fun s i => s.serveGrants (frameTag c n f) i.num (i.waits.length + 1)) s
      | none => s) s
    (List.range 90).foldl (fun s e => if (s.elem n e).conc.isEmpty then s else s.rematchElem n e) s) s
  s.settleOps.settleGroups

/-! ### DESTROY and RECLAIMED -/

/-- Discard the fabric state of a context (R350, R325, R389): its groups and launches end with STATUS 3. -/
def State.destroy (s : State) (c : BitVec 6) : State :=
  let cores := s.partition c
  let s := s.abandonPmigs c
  let s := (s.groups.filter fun g => g.ctx == c && g.state != .drained).foldl (fun s g => s.reportLaunch g 3 0 noNodeIndex) s
  let s := s.binderies.foldl (fun s (b, x) => (x.launches.filter (·.ctx == c)).foldl (fun s l =>
    if l.words.length != 16 then s
    else s.record c (coreNum b 0) (bitOf (l.words.getD 0 0).toNat 41) (l.words.getD 10 0).toNat
      (launchCompl 3 0 (groupIdOf l.words) noNodeIndex s.cycle)) s) s
  let serials := (s.groups.filter (·.ctx == c)).map (·.serial)
  let drop (g : Group) : Group :=
    if g.ctx == c then
      { g with state := .drained, todo := 0, insts := g.insts.map (fun i => { i with state := .evicted, live := [], fires := [] }),
               pipes := g.pipes.map fun p => { p with state := .closed, entries := [], staged := [], waits := [], takes := [] } }
    else g
  let s : State := { s with
    groups := s.groups.map drop,
    ops := s.ops.filter (fun o => !(o.fir.tag.ctx == c && (o.ofElement || o.kind == .image || o.kind == .remote))),
    net := s.net.filter (fun p => p.tok.tag.ctx != c),
    arrivals := s.arrivals.filter (fun a => a.bar.ctx != c.toNat),
    bars := s.bars.filter (fun b => b.id.ctx != c.toNat),
    dieqs := s.dieqs.filter (fun d => d.ctx != c),
    counts := s.counts.filter (fun r => r.ctx != c),
    faults := s.faults.filter (fun t => t.ctx != c),
    commits := s.commits.filter (fun k => !serials.contains k.serial),
    marks := s.marks.filter (fun k => !serials.contains k.serial),
    tlb := s.tlb.filter (fun e => e.ctx != c.toNat),
    elems := s.elems.filter (fun e => !cores.contains (e.1 / 128)) }
  let s := s.dropWords c cores
  let s : State := { s with binderies := s.binderies.foldl (fun m (b, x) => Assoc.set {} m b { x with
    launches := x.launches.filter (·.ctx != c),
    dumps := x.dumps.filter (· != c) }) s.binderies }
  let s := cores.foldl (fun s n => s.modCore n Core.left) s
  s.modCtx c fun x => { x with state := .destroyed, halt := none, byFault := false, image := none }

/-- DESTROYOP (R350). -/
def execDestroyop (ctx : BitVec 6) (s : State) : Host.Outcome State Fault Refusal := s.accept ctx .destroy fun o s =>
  match (s.ctx ctx).state with
  | .running => s.raiseLine ctx o
  | .binding | .halted | .saved | .savefail => (s.destroy ctx).endOp ctx o stDone 0
  | _ => s.endOp ctx o stState 0

/-- RECLAIMED (R350): no token of the context is left; its cores were released when DESTROYED was reached (R346). The registers of R54
and the fault record keep their values, which only BIND resets (R348, R434). -/
def execReclaimed (ctx : BitVec 6) (s : State) : Host.Outcome State Fault Refusal :=
  .next (
    if (s.ctx ctx).state != .destroyed || s.naming (fun t => t.ctx == ctx) then s
    else s.modCtx ctx fun x => { ({} : Context) with queue := x.queue, holding := x.holding, csrs := x.csrs, violog := x.violog, frec := x.frec })

end Sys2Proof.Machine
end

