-- ==== Sys2Proof/Machine/Image.lean ====
section
/-! DEFINITION. Save and archive images: their bytes (R363, R438; log 8 for the bodies whose layout the manual does not give), save
descriptors and extents (R361, R362), and how a restore renames and places what an image keeps (R364). -/

namespace Sys2Proof.Machine

/-! ### Bytes of an image -/

/-- Header and body of a section (R363). -/
def sect (ty owner : Nat) (body : List Byte) (trunc : Bool := false) : List Byte :=
  leBytes 8 (ty * 2 ^ 48 + ofBool trunc * 2 ^ 47 + body.length) ++ leBytes 8 owner ++ body

/-- The owner of a section, laid out as W0 [47:32] of a stop record. -/
def ownerOf (n elem : Nat) : Nat := dieOf n * 2 ^ 44 + coreIn n * 2 ^ 39 + elem * 2 ^ 32

/-- Consecutive words as bytes. -/
def wordBytes (ws : List Nat) : List Byte := Machine.elems 8 ws

/-- The context descriptor that holds the values in force (R363). -/
def Context.descWords (x : Context) : List Nat :=
  [ofBool x.sup * 2 ^ 52 + x.ptroot.toNat, x.csrs.savedesc.toNat, x.csrs.dumpdesc.toNat, x.csrs.nqbase.toNat, x.csrs.rngkey.toNat,
   ofBool x.pod * 2 ^ 16 + x.job.toNat, 0, 0]

/-- The entries of a violation log, each with the number left after it. -/
def violWords (l : List (Bool × Nat)) : List Nat := l.zipIdx.map fun (e, i) => violEntry e (l.length - 1 - i)

/-- Body of the CSR section. -/
def State.csrBytes (s : State) (c : BitVec 6) : List Byte :=
  wordBytes (csrNumbers.map (s.csr c 0) ++ violWords (s.ctx c).violog ++ (s.ctx c).descWords)

/-- The words of a fault record (R357). -/
def FaultRec.words (r : FaultRec) : List Nat :=
  [r.cause.toNat * 2 ^ 48 + r.count.toNat, r.tag.bits * 2 ^ 16,
   r.node.toNat * 2 ^ 46 + r.kidx.toNat * 2 ^ 34 + r.die.toNat * 2 ^ 30 + r.core.toNat * 2 ^ 25 + r.elem.toNat * 2 ^ 18 +
     ofBool r.async * 2 ^ 17,
   r.addr.toNat, r.imm.toNat * 2 ^ 32 + r.bookmark.toNat, r.cycle.toNat, r.code.toNat, 0]

/-- The fault record that words hold. -/
def FaultRec.ofWords (w : List Nat) : FaultRec :=
  let g (i : Nat) : Nat := w.getD i 0
  { cause := BitVec.ofNat 16 (field (g 0) 63 48), count := BitVec.ofNat 32 (g 0), tag := Tag.ofBits (g 1 / 2 ^ 16),
    node := BitVec.ofNat 18 (field (g 2) 63 46), kidx := BitVec.ofNat 12 (field (g 2) 45 34),
    die := BitVec.ofNat 4 (field (g 2) 33 30), core := BitVec.ofNat 5 (field (g 2) 29 25),
    elem := BitVec.ofNat 7 (field (g 2) 24 18), async := bitOf (g 2) 17, addr := BitVec.ofNat 64 (g 3),
    imm := BitVec.ofNat 32 (field (g 4) 63 32), bookmark := BitVec.ofNat 32 (g 4), cycle := BitVec.ofNat 64 (g 5),
    code := BitVec.ofNat 16 (g 6) }

/-- The two sums of a SAMPLE or SAMPLESHARD in its block (R438): S or P by its pass, and the greatest finite logit read, 0 where
none was (log 8). -/
def Sampler.block (a : Sampler) (pass : Nat) : List Byte := wordBytes [if pass = 2 then a.part else a.sum, a.top - 1]

/-- The pass of a SAMPLE or SAMPLESHARD; none for what holds no sums. -/
def Op.sums (o : Op) : Option Nat :=
  if o.kind = .select ∧ o.opc = 0x1A3 then some (selPass o)
  else if o.kind = .coll ∧ collOp (leNat o.desc) = 4 then some (field o.book 25 24)
  else none

/-- The bookmark of an operation; of a contribution whose use runs, the use's (R340). -/
def State.markOf (s : State) (o : Op) : Nat :=
  if o.kind != .coll then o.mark
  else match (s.bars.find? fun b => b.id.coll && b.running.any (·.op == o.id)).bind s.leadOp with
    | some p => p.mark
    | none => o.mark

/-- What a stopped selection or collective holds, after its element's tokens (R438). -/
def State.heldBlock (s : State) (o : Op) : List Byte :=
  let head (k : Nat) : List Byte := wordBytes [o.fir.img.nodeid.toNat * 2 ^ 46 + s.markOf o % 2 ^ 32, k]
  if (o.kind != .select && o.kind != .coll) || o.st == .complete then []
  else match o.sums with
    | some p => head 0 ++ (Sampler.ofList o.vals).block p
    | none =>
      if o.kind = .select then
        let ps := heldPairs o.vals
        head ps.length ++ ps.flatMap fun p => leBytes 8 p.1 ++ leBytes 4 p.2 ++ leBytes 4 0
      else head 0

/-- The greatest finite logit is also what the weights of a SAMPLE need (R160). -/
def Sampler.reload (a : Sampler) (pass : Nat) (b : List Byte) : Sampler :=
  let m := numAt b 8 8
  let a := { a with top := if a.top = 0 then 0 else m + 1, best := if bitOf a.seen 0 then m else a.best }
  if pass = 2 then { a with part := numAt b 0 8 } else { a with sum := numAt b 0 8 }

/-- Reload what an operation held from its block (R438): the operation, and the bytes behind the block. -/
def Op.reload (o : Op) (b : List Byte) : Op × List Byte :=
  if (o.kind != .select && o.kind != .coll) || o.st == .complete then (o, b)
  else
    let mark := field (numAt b 0 8) 31 0
    let o := if o.mark % 2 ^ 32 = mark ∨ o.kind = .coll ∧ o.vals.isEmpty then o else { o with book := mark }
    match o.sums with
    | some p => ({ o with vals := if o.vals.isEmpty then [] else ((Sampler.ofList o.vals).reload p (b.drop 16)).list }, b.drop 32)
    | none =>
      if o.kind = .select then
        let k := numAt b 8 1
        ({ o with vals := (List.range k).flatMap fun i => [numAt b (16 + 16 * i) 8, numAt b (24 + 16 * i) 4] }, b.drop (16 + 16 * k))
      else (o, b.drop 16)

/-- The groups of a context that are not DRAINED, by launch serial. -/
def State.liveGroups (s : State) (c : BitVec 6) : List Group := s.groups.filter fun g => g.ctx == c && g.state != .drained

/-- The header of an image (R363). -/
def State.imageHeader (s : State) (c : BitVec 6) (im : Image) (magic status wmark total : Nat) : List Byte :=
  let x := s.ctx c
  let mask (lo : Nat) : Nat := (s.partition c).foldl (fun a n => if lo ≤ n ∧ n < lo + 64 then a ||| 2 ^ (n - lo) else a) 0
  wordBytes [status * 2 ^ 56 + 1 * 2 ^ 32 + magic, wmark, total,
    s.plat.epoch.toNat * 2 ^ 32 + (s.liveGroups c).length % 2 ^ 16 * 2 ^ 16 + im.was.code * 2 ^ 8 + ofBool x.sup * 2 ^ 6 + c.toNat,
    mask 0, mask 64, x.csrs.partw.toNat * 2 ^ 32 + mask 128, (x.halt.getD 0) % 2 ^ 64]

def magicSave : Nat := 0x4953_5750
def magicDump : Nat := 0x4941_5750

/-- The sections of an image: type, owner, body. -/
def sectionsIn : Nat → List Byte → List (Nat × Nat × List Byte)
  | 0, _ => []
  | fuel + 1, b =>
    if b.length < 16 then []
    else
      let w := numAt b 0 8
      let len := field w 46 0
      (field w 63 48, numAt b 8 8, (b.drop 16).take len) :: sectionsIn fuel (b.drop (16 + len))

/-! ### What an image keeps (R363) -/

/-- What an image keeps of a context. -/
def State.toShelf (s : State) (c : BitVec 6) : Shelf :=
  let cores := s.partition c
  let gs := s.liveGroups c
  let mine (k : Nat) : Bool := gs.any (·.serial == k)
  let again (g : Group) : Launch := { serial := g.serial, number := g.number, ctx := c, words := g.words, source := g.source }
  { stamp := Config.stamp, fresh := s.fresh, ctx := c,
    ops := s.ops.filter fun o => o.fir.tag.ctx == c && o.ofElement,
    elems := s.elems.filter fun e => cores.contains (e.1 / 128),
    cores := s.cores.filter fun p => cores.contains p.1,
    groups := gs.filter fun g => g.state != .placing,
    bars := s.bars.filter fun b => b.id.ctx == c.toNat,
    dieqs := s.dieqs.filter fun d => d.ctx == c,
    counts := s.counts.filter fun r => r.ctx == c,
    arrivals := s.arrivals.filter fun a => a.bar.ctx == c.toNat,
    commits := s.commits.filter fun k => mine k.serial,
    marks := s.marks.filter fun k => mine k.serial,
    launches := (gs.filter fun g => g.state == .placing).map (fun g => (g.die, again g)) ++
      s.binderies.flatMap fun (b, x) => (x.launches.filter (·.ctx == c)).map fun l => (b, l) }

/-- A token of a stacks quarter, with its element and its NODEID. -/
def Codec.spilled : Codec (List (Nat × Nat × Entry)) := .list (.pair .nat (.pair .nat .entry))

/-- The tokens of a core that are on the stacks. -/
def Shelf.spilled (h : Shelf) (n : Nat) : List (Nat × Nat × Entry) :=
  h.elems.flatMap fun (k, x) => if k / 128 ≠ n then [] else
    (x.conc.filter (·.spilled)).map fun y => (k % 128, (x.slot y.slot).nodeid.toNat, y)

/-- What the last section holds: barrier and collective instances, die copy queues, counts, and what was on its way. -/
abbrev Around := (Nat × Nat × BitVec 6) × List Bar × List DieQueue × List Count × List Arrival × List Commit × List Mark

def Codec.around : Codec Around :=
  .pair (.pair .nat (.pair .nat (.bv 6))) (.pair (.list .bar) (.pair (.list .dieQueue) (.pair (.list .count) (.pair (.list .arrival)
    (.pair (.list .commit) (.list .mark))))))

def Shelf.around (h : Shelf) : Around := ((h.stamp, h.fresh, h.ctx), h.bars, h.dieqs, h.counts, h.arrivals, h.commits, h.marks)

/-- Records by die, in launch order within one. -/
def byDie {α : Type} (die : α → Nat) (l : List α) : List α := (List.range 10).flatMap fun d => l.filter (die · == d)

/-- A group record: of a group, behind a 1, all but its pipes; of a launch not yet checked, behind a 0, what the bindery keeps. -/
def groupRecord (g : Group) : List Byte := Codec.nat.put 1 ++ Codec.group.put { g with pipes := [] }
def launchRecord (d : Nat) (l : Launch) : List Byte := Codec.nat.put 0 ++ (Codec.pair .nat .launch).put (d, l)

/-- The sections of a type, owners ascending. -/
def State.sections (s : State) (c : BitVec 6) (h : Shelf) (ty : Nat) : List (List Byte) :=
  let cores := s.partition c
  let ops (n e : Nat) : List Op := h.ops.filter fun o => o.fir.n == n && o.fir.elem == e
  match ty with
  | 1 => [sect 1 0 (s.csrBytes c)]
  | 2 => [sect 2 0 (wordBytes (s.ctx c).frec.words)]
  | 3 => cores.flatMap fun n => (List.range 90).map fun e =>
      sect 3 (ownerOf n e) (wordBytes (((s.elem n e).stop.getD (List.replicate 8 0)).map BitVec.toNat))
  | 4 => (byDie (·.1) (h.groups.map (fun g => (g.die, groupRecord g)) ++ h.launches.map fun l => (l.1, launchRecord l.1 l.2))).map fun r =>
      sect 4 (ownerOf (coreNum r.1 0) 0) r.2
  | 5 => cores.map fun n => sect 5 (ownerOf n 0) (Codec.core.put { s.core n with acc := [] })
  | 6 => cores.flatMap fun n => (List.range 90).filterMap fun e =>
      let x := s.elem n e
      let x := { x with conc := x.conc.filter (!·.spilled) }
      let os := ops n e
      if x == {} && os.isEmpty then none
      else some (sect 6 (ownerOf n e) (Codec.elem.put x ++ (Codec.list .op).put os ++ os.flatMap s.heldBlock))
  | 7 => cores.map fun n => sect 7 (ownerOf n 0) (Codec.spilled.put (h.spilled n))
  | 8 => cores.map fun n => sect 8 (ownerOf n 0) ((Codec.list (.pair .nat .accBlock)).put (s.core n).acc)
  | 9 => (byDie Group.die h.groups).map fun g =>
      sect 9 (ownerOf (coreNum g.die 0) 0) ((Codec.pair .nat (.list .pipe)).put (g.serial, g.pipes))
  | _ => [sect 10 0 (Codec.around.put h.around)]

/-- The bytes of a save image: its first header and its sections in order (R363). -/
def State.imageBytes (s : State) (c : BitVec 6) (im : Image) : List Byte :=
  let h := s.toShelf c
  s.imageHeader c im magicSave 0 0 0 ++ (([1, 4, 3, 2, 5, 6, 7, 8, 9, 10] : List Nat).flatMap (s.sections c h)).flatten

/-- The core and the element that own a section. -/
def ownerCore (w : Nat) : Nat := coreNum (field w 47 44) (field w 43 39)

/-- Entries in the order in which they were accepted. -/
def bySeq (l : List Entry) : List Entry := l.mergeSort fun a b => a.seq ≤ b.seq

/-- Read one section into what an image keeps; none where its body is none of the model's. -/
def Shelf.read (h : Shelf) (ty owner : Nat) (b : List Byte) : Option Shelf :=
  let n := ownerCore owner
  match ty with
  | 4 => (Codec.nat.get b).bind fun (k, b) =>
    if k = 1 then (Codec.group.get b).map fun g => { h with groups := h.groups ++ [g.1] }
    else ((Codec.pair .nat .launch).get b).map fun l => { h with launches := h.launches ++ [l.1] }
  | 5 => (Codec.core.get b).map fun c => { h with cores := Assoc.set {} h.cores n c.1 }
  | 6 => (Codec.elem.get b).bind fun (x, b) => ((Codec.list .op).get b).map fun (os, b) =>
    let os := (os.foldl (fun (st : List Op × List Byte) o => let r := o.reload st.2; (st.1 ++ [r.1], r.2)) ([], b)).1
    { h with elems := Assoc.set {} h.elems (elemKey n (field owner 38 32)) x, ops := h.ops ++ os }
  | 7 => (Codec.spilled.get b).map fun l => { h with elems := l.1.foldl (fun m (e, _, y) =>
      let x := Assoc.get {} m (elemKey n e)
      Assoc.set {} m (elemKey n e) { x with conc := bySeq (x.conc ++ [y]) }) h.elems }
  | 8 => ((Codec.list (.pair .nat .accBlock)).get b).map fun l =>
    { h with cores := Assoc.set {} h.cores n { Assoc.get {} h.cores n with acc := l.1 } }
  | 9 => ((Codec.pair .nat (.list .pipe)).get b).map fun p =>
    { h with groups := h.groups.map fun g => if g.serial = p.1.1 then { g with pipes := p.1.2 } else g }
  | 10 => (Codec.around.get b).map fun (a, _) =>
    { h with stamp := a.1.1, fresh := a.1.2.1, ctx := a.1.2.2, bars := a.2.1, dieqs := a.2.2.1, counts := a.2.2.2.1,
             arrivals := a.2.2.2.2.1, commits := a.2.2.2.2.2.1, marks := a.2.2.2.2.2.2 }
  | _ => some h

/-- What the bytes of an image keep: its sections read in order, operations and groups in the order in which they arose. -/
def shelfOf (b : List Byte) : Option Shelf :=
  let h : Shelf := { stamp := 0, fresh := 0, ctx := 0, ops := [], elems := [], cores := [], groups := [], bars := [], dieqs := [],
                     counts := [], arrivals := [], commits := [], marks := [], launches := [] }
  ((sectionsIn b.length (b.drop 64)).foldl (fun h x => h.bind fun h => h.read x.1 x.2.1 x.2.2) (some h)).map fun h =>
    { h with ops := h.ops.mergeSort fun a b => a.id ≤ b.id, groups := h.groups.mergeSort fun a b => a.serial ≤ b.serial }

/-- A context leaves the fabric at SAVEEND (R350, R325): cores released, groups SHELVED, launches that were being placed
DECLARED again; the rest is in the image. -/
def State.leaveFabric (s : State) (c : BitVec 6) : State :=
  let cores := s.partition c
  let gs := s.liveGroups c
  let mine (k : Nat) : Bool := gs.any (·.serial == k)
  let shelve (g : Group) : Group :=
    if g.ctx == c && g.state != .drained then
      { g with saved := g.state, state := .shelved, insts := [], pipes := g.pipes.map fun p => { p with entries := [], staged := [], waits := [], cap := 0 } }
    else g
  let again := (gs.filter fun g => g.state == .placing).map fun g =>
    (g.die, ({ serial := g.serial, number := g.number, ctx := c, words := g.words, source := g.source } : Launch))
  let s : State := { s with
    ops := s.ops.filter (fun o => !(o.fir.tag.ctx == c && o.ofElement)),
    elems := s.elems.filter (fun e => !cores.contains (e.1 / 128)),
    groups := (s.groups.filter fun g => !(g.ctx == c && g.state == .placing)).map shelve,
    bars := s.bars.filter (fun b => b.id.ctx != c.toNat),
    dieqs := s.dieqs.filter (fun d => d.ctx != c),
    counts := s.counts.filter (fun r => r.ctx != c),
    arrivals := s.arrivals.filter (fun a => a.bar.ctx != c.toNat),
    commits := s.commits.filter (fun k => !mine k.serial),
    marks := s.marks.filter (fun k => !mine k.serial) }
  let s := s.dropWords c cores
  let s := again.foldl (fun s (d, l) => s.modBind d fun b => { b with launches := l :: b.launches }) s
  cores.foldl (fun s n => s.modCore n Core.left) s

/-! ### Renaming what a restore loads (R364) -/

/-- The target's number and the saved context's; what the numbers of objects grow by, as the old ones may be in use; whether this
package wrote the image since its power-on, so that what the old numbers name is known here; where a slot now stands; the cycle of the
halt and the present one: ages stand still between the two (R325). -/
structure Ren where
  ctx   : BitVec 6
  old   : BitVec 6
  off   : Nat
  own   : Bool
  place : Nat → Nat → Nat → Nat × Nat
  cut   : Nat
  now   : Nat

/-- The new number of an object. -/
def Ren.op (r : Ren) (k : Nat) : Nat := k + r.off

/-- The cycle that is as long ago as a saved one was at the halt. -/
def Ren.time (r : Ren) (t : Nat) : Nat := r.now + t - r.cut

/-- The number of the context that gave a command, where it was the saved one. -/
def Ren.source (r : Ren) (c : BitVec 6) : BitVec 6 := if c = r.old then r.ctx else c

def Ren.tag (r : Ren) (t : Tag) : Tag := { t with ctx := r.ctx }

/-- What a token depends on: in the fabric that wrote the image, the old numbers still name writes (R290). -/
def Ren.deps (r : Ren) (l : List Nat) : List Nat := if r.own then joinDeps l (l.map r.op) else l.map r.op

def Ren.tok (r : Ren) (t : Tok) : Tok := { t with tag := r.tag t.tag, deps := r.deps t.deps }

/-- A route word of a slot or an output-buffer entry (R48, R50). -/
def Ren.route (r : Ren) (w : Nat) : Nat :=
  let p := r.place (coreNum (field w 20 17) (field w 16 12)) (field w 11 5) (field w 4 0)
  if bitOf w 31 then w - field w 11 0 + p.1 * 32 + p.2 else w

def Ren.slot (r : Ren) (x : Slot) : Slot :=
  let f (w : BitVec 32) : BitVec 32 := BitVec.ofNat 32 (r.route w.toNat)
  { x with dest0 := f x.dest0, dest1 := f x.dest1, dest2 := f x.dest2, conv0 := f x.conv0, conv1 := f x.conv1, conv2 := f x.conv2 }

def Ren.firing (r : Ren) (f : Firing) : Firing :=
  let p := r.place f.n f.elem f.slot
  { f with id := r.op f.id, elem := p.1, slot := p.2, tag := r.tag f.tag, inputs := f.inputs.map r.tok, img := r.slot f.img,
           ready := r.time f.ready }

def Ren.out (r : Ren) (n e : Nat) (o : OutEntry) : OutEntry :=
  { o with id := r.op o.id, slot := (r.place n e o.slot).2, tok := r.tok o.tok, dests := o.dests.map fun d => (d.1, r.route d.2.1, d.2.2),
           late := o.late.map fun l => { l with tag := r.tag l.tag } }

def Ren.oper (r : Ren) (o : Op) : Op :=
  { o with id := r.op o.id, fir := r.firing o.fir, deps := r.deps o.deps, outs := o.outs.map (fun p => { p with tok := r.tok p.tok }),
           since := r.time o.since, accs := o.accs.map (fun a => { a with since := r.time a.since }), pins := [],
           was := if r.own then o.id :: o.was else [] }

def Ren.inst (r : Ren) (i : InstId) : InstId := { i with serial := r.op i.serial }

/-- The part of an element that slot `k` has, at its new slot. -/
def Ren.part (r : Ren) (n e : Nat) (x : Elem) (k : Nat) : Elem :=
  let j := (r.place n e k).2
  { slots := match x.slots.find? (·.1 == k) with | some p => [(j, r.slot p.2)] | none => [],
    conc := (x.conc.filter (·.slot == k)).map fun y => { y with slot := j, tok := r.tok y.tok },
    ready := (x.ready.filter (·.slot == k)).map r.firing,
    out := (x.out.filter (·.slot == k)).map (r.out n e),
    emitq := (x.emitq.filter (·.slot == k)).map (r.out n e),
    closed := (x.closed.filter (·.1 == k)).map fun y => (j, r.tag y.2.1, y.2.2),
    folds := (x.folds.filter (·.slot == k)).map fun y => { y with slot := j, tag := r.tag y.tag, deps := r.deps y.deps },
    reord := (x.reord.filter (·.1 == k)).map fun y => (j, r.tag y.2.1, y.2.2),
    notes := (x.notes.filter (·.1 == k)).map fun y => (j, r.tag y.2.1, y.2.2),
    started := (x.started.filter (·.1 == k)).map fun y => (j, r.op y.2) }

/-- Add a slot's part to an element; the registers of the element it comes from hold there too. -/
def Elem.join (a : Elem) (old x : Elem) : Elem :=
  { a with
    slots := x.slots.foldl (fun m p => Assoc.set {} m p.1 p.2) a.slots,
    conc := a.conc ++ x.conc, ready := a.ready ++ x.ready, out := a.out ++ x.out, emitq := a.emitq ++ x.emitq,
    closed := a.closed ++ x.closed, folds := a.folds ++ x.folds, reord := a.reord ++ x.reord, notes := a.notes ++ x.notes,
    started := x.started.foldl (fun m p => Assoc.set 0 m p.1 p.2) a.started,
    eclass := if a.slots.isEmpty ∨ old.eclass.toNat < a.eclass.toNat then old.eclass else a.eclass,
    equota := if a.equota.toNat < old.equota.toNat then old.equota else a.equota,
    sshare := if a.sshare.toNat < old.sshare.toNat then old.sshare else a.sshare }

/-- A stop record with the context's number in its tag. -/
def Ren.stopRec (r : Ren) (w : StopRec) : StopRec :=
  match w with
  | a :: b :: rest => a :: (if bitOf ((rest.headD 0).toNat) 29 then BitVec.ofNat 64 (field b.toNat 57 0 + r.ctx.toNat * 2 ^ 58) else b) :: rest
  | l => l

/-- The elements of a context, each slot at its new place. -/
def Ren.elems (r : Ren) (es : Assoc Elem) : Assoc Elem :=
  let bare (x : Elem) : Elem :=
    { x with slots := [], conc := [], ready := [], out := [], emitq := [], closed := [], folds := [], reord := [], notes := [], started := [],
             stop := x.stop.map r.stopRec, culprit := x.culprit.map r.oper, lastC0 := x.lastC0.map r.time, halted := x.halted.map r.time,
             firedAt := x.firedAt.map (fun f => (r.time f.1, f.2)), busy := r.time x.busy,
             armed := x.armed.map fun a => (a.1, a.2.1, a.2.2.1, r.op a.2.2.2) }
  let base := es.foldl (fun m (k, x) => Assoc.set {} m k (bare x)) ([] : Assoc Elem)
  es.foldl (fun m (key, x) => (List.range 32).foldl (fun m k =>
    let y := r.part (key / 128) (key % 128) x k
    if y == {} then m
    else
      let dst := elemKey (key / 128) (r.place (key / 128) (key % 128) k).1
      Assoc.set {} m dst ((Assoc.get {} m dst).join x y)) m) base

def Ren.frame (r : Ren) (f : Frame) : Frame :=
  { f with owner := r.inst f.owner,
           insts := f.insts.map fun i => { i with waits := i.waits.map r.op, closer := i.closer.map r.op } }

def Ren.core (r : Ren) (c : Core) : Core :=
  { c with owner := some r.ctx, shift := 0, staged := [], bad := [], applied := none, had := c.had.map (fun h => (h.1, r.ctx.toNat)),
           frames := c.frames.map fun (k, f) => (k, f.map r.frame),
           acc := c.acc.map fun (k, b) => (k, { b with drains := b.drains.map r.op }) }

def Ren.pipe (r : Ren) (p : Pipe) : Pipe :=
  { p with entries := p.entries.map (fun e => { e with tok := r.tok e.tok, since := r.time e.since }),
           waits := p.waits.map r.op, takes := p.takes.map (fun t => (t.1, r.op t.2)), deps := r.deps p.deps, staged := p.staged.map fun e => { e with tok := r.tok e.tok } }

def Ren.kinst (r : Ren) (i : KInst) : KInst :=
  { i with fires := i.fires.map (fun f => (f.1, f.2.1, r.tok f.2.2)), issued := i.issued.map r.op,
           nodes := i.nodes.map fun (v, e, k) => (v, r.place i.n e k) }

def Ren.group (r : Ren) (g : Group) : Group :=
  { g with serial := r.op g.serial, ctx := r.ctx, state := if g.state = .shelved then g.saved else g.state,
           source := g.source.map r.source, kernels := g.kernels.map (fun k => { k with evalAt := k.evalAt.map r.time }),
           insts := g.insts.map r.kinst, pipes := g.pipes.map r.pipe }

def Ren.bar (r : Ren) (b : BarId) : BarId := { b with ctx := r.ctx.toNat }

def Ren.contrib (r : Ren) (c : Contrib) : Contrib :=
  { c with op := if c.op = 0 then 0 else r.op c.op, err := c.err.map r.tok, time := r.time c.time }

def Ren.barrier (r : Ren) (b : Bar) : Bar :=
  { b with id := r.bar b.id, contribs := b.contribs.map r.contrib, later := b.later.map (fun u => (u.1.map r.contrib, r.time u.2)), running := b.running.map r.contrib,
           expired := b.expired.map (·.map r.contrib), first := r.time b.first, last := none,
           gens := b.gens.map fun g => { g with deps := r.deps g.deps, p5 := r.deps g.p5, values := g.values.map r.tok, ops := g.ops.map r.op, who := g.who.map r.inst } }

def Ren.arrival (r : Ren) (a : Arrival) : Arrival :=
  { a with id := r.op a.id, bar := r.bar a.bar, op := if a.op = 0 then 0 else r.op a.op, deps := r.deps a.deps,
           value := a.value.map r.tok, who := a.who.map r.inst }

def Ren.commit (r : Ren) (k : Commit) : Commit :=
  { k with id := r.op k.id, serial := r.op k.serial, deps := r.deps k.deps,
           items := k.items.map (fun (p, y) => (p, { y with tok := r.tok y.tok })),
           armed := k.armed.map fun a => ({ a.1 with tag := r.tag a.1.tag }, r.oper a.2) }

/-- What a REORD has noted of a block before it formed a matched set: the next output element is the set's first again, and a
block that the set finished is there again, closed (R113, R279). -/
def State.unreord (s : State) (n elem : Nat) (f : Firing) : State :=
  match ((s.elem n elem).slot f.slot).info with
  | some (opc, _, nd) =>
    if matchRule opc nd != .reord || f.inputs.any (·.isErr) then s
    else s.modElem n elem fun e =>
      let z := reordSize (s.reordDesc f.tag.ctx n elem f.slot nd).1
      let fin := e.closed.any fun c => c.1 == f.slot && c.2.1 == f.tag.atIter 0 && c.2.2 == f.part
      let (o, shut) := e.reordNext f.slot f.tag f.part
      let first := f.tag.iter.toNat - f.part
      { e with closed := e.closed.filter fun c => !(c.1 == f.slot && c.2.1 == f.tag.atIter 0 && c.2.2 == f.part) }.reordSet f.slot f.tag
        f.part z (if fin || first < o then first else o) (shut || fin && f.inputs.any (·.eos))
  | none => s

/-- Matched sets of a restored element are waiting tokens again, and every token but those of the output buffer follows R104
anew (R113); a firing that stood in line at a pipe or waited with its Emits fires anew. -/
def State.unmatch (s : State) (n elem : Nat) : State :=
  let x := s.elem n elem
  let ids := x.ready.map (·.id)
  let s : State := { s with groups := s.groups.map fun g => { g with pipes := g.pipes.map fun p =>
    { p with waits := p.waits.filter fun i => !ids.contains i, takes := p.takes.filter fun t => !ids.contains t.2 } } }
  let s := s.setElem n elem { x with ready := [], conc := x.conc.map fun y => { y with spilled := false } }
  let s := x.ready.reverse.foldl (fun s f => s.unreord n elem f) s
  let s := x.ready.foldl (fun s f => f.inputs.foldl (fun s t => s.addEntry n elem f.slot t) s) s
  s.settleAll n elem true

/-- A number that a device's write, a waiting answer or a shelved record of this package has is known under the new one too. -/
def State.rename (s : State) (h : Shelf) (r : Ren) : State :=
  if !r.own then s
  else { s with pend := s.pend.map fun w => { w with also := w.also ++ ((w.own :: w.also).filter (· < h.fresh)).map r.op } }

/-- The restored operation, with the element that it was given meanwhile. -/
def State.recall (s : State) (o : Op) : Op :=
  match s.told.find? fun p => o.was.contains p.1 with
  | some p => { o with nums := [p.2] }
  | none => o

/-- Load what an image keeps into the fabric. The groups and launches that the target still has of it make room. -/
def State.loadShelf (s : State) (h : Shelf) (r : Ren) : State :=
  let again (d : Nat) (l : Launch) : Bool := r.own && l.ctx == r.ctx && h.launches.any fun k => k.1 == d && k.2.number == l.number
  let s : State := { s.rename h r with
    groups := s.groups.filter (fun g => !(g.ctx == r.ctx && g.state == .shelved)),
    binderies := s.binderies.map fun b => (b.1, { b.2 with launches := b.2.launches.filter fun l => !again b.1 l }) }
  let s : State := { s with
    fresh := max s.fresh (h.fresh + r.off),
    ops := s.ops ++ (h.ops.map r.oper).map s.recall,
    elems := (r.elems h.elems).foldl (fun m (k, x) => Assoc.set {} m k x) s.elems,
    cores := h.cores.foldl (fun m (k, x) => Assoc.set {} m k (r.core x)) s.cores,
    groups := s.groups ++ h.groups.map r.group,
    bars := s.bars ++ h.bars.map r.barrier,
    dieqs := s.dieqs ++ h.dieqs.map (fun d => { d with ctx := r.ctx, ops := d.ops.map r.op }),
    counts := s.counts ++ h.counts.map (fun k => { k with ctx := r.ctx, own := r.op k.own, stopper := k.stopper.map r.op }),
    arrivals := s.arrivals ++ h.arrivals.map r.arrival,
    commits := s.commits ++ h.commits.map r.commit,
    marks := s.marks ++ h.marks.map (fun m => { m with id := r.op m.id, serial := r.op m.serial, deps := r.deps m.deps }) }
  let s := s.elems.foldl (fun (s : State) p => if h.cores.any (·.1 == p.1 / 128) then s.unmatch (p.1 / 128) (p.1 % 128) else s) s
  h.launches.foldl (fun s (d, l) =>
    s.modBind d fun b => { b with launches := b.launches ++
      [{ l with ctx := r.ctx, serial := r.op l.serial, source := l.source.map r.source }] }) s

/-! ### Placing anew under another defect map (R364, R209) -/

/-- The folio of a group, as far as placement needs it. -/
def Group.folio (g : Group) : Folio :=
  { kernels := g.kernels, nodes := g.nodes.map (fun w => FNode.ofWords w.1.toNat w.2.toNat), pool := g.pool, convs := g.convs,
    order := g.order, digest := g.digest }

/-- New places of the nodes of groups, in launch order; none where one does not fit. Each is old core, element, slot and the
new element and slot. -/
def State.replace (s : State) (cores : List Nat) : List Group → Taken → Option (List (Nat × Nat × Nat × Nat × Nat))
  | [], _ => some []
  | g :: rest, taken =>
    let spots := g.insts.filter (·.state != .evicted) |>.map fun i => (i.kernel, i.replica, i.n)
    let key (k n : Nat) : Nat := keyOf [leNat g.digest, k, n, s.plat.epoch.toNat]
    match s.placeAll g.folio key cores.contains spots taken [] with
    | .error _ => none
    | .ok is =>
      let moves := g.insts.flatMap fun i => match is.find? fun j => j.kernel == i.kernel && j.replica == i.replica with
        | some j => (i.nodes.zip j.nodes).map fun (a, b) => (i.n, a.2.1, a.2.2, b.2.1, b.2.2)
        | none => []
      let taken := taken ++ (Group.taken { g with insts := is })
      (s.replace cores rest taken).map (moves ++ ·)

/-- Where the slots of an image stand after a restore: as saved while the epoch is the same, else placed anew. -/
def State.placesOf (s : State) (h : Shelf) (epoch : Nat) : Option (Nat → Nat → Nat → Nat × Nat) :=
  if epoch = s.plat.epoch.toNat then some fun _ e k => (e, k)
  else (s.replace (h.cores.map (·.1)) h.groups []).map fun ms n e k =>
    match ms.find? fun m => m.1 == n && m.2.1 == e && m.2.2.1 == k with
    | some m => m.2.2.2
    | none => (e, k)

/-! ### Save descriptors and extents (R361, R362) -/

/-- The words of a save descriptor and of its extents; none where it is zero, breaks R361 or cannot be read. -/
def State.saveDesc (s : State) (n addr path : Nat) : Option (List Nat × List (Nat × Nat)) × State :=
  if addr = 0 ∨ addr % 64 ≠ 0 then (none, s)
  else
    let (b, s) := s.devRead n addr 64 path
    match b with
    | none => (none, s)
    | some b =>
      let w := (wordsOf b).map (·.toNat)
      let g (i : Nat) : Nat := w.getD i 0
      let next := field (g 0) 47 32
      if field (g 0) 55 48 ≠ 0 ∨ field (g 0) 31 0 ≠ 0 ∨ next = 0 ∨ 4096 < next ∨ g 3 % 16 ≠ 0 ∨ (w.drop 4).any (· ≠ 0) then (none, s)
      else
        let (t, s) := s.devRead n (g 3) (16 * next) path
        match t with
        | none => (none, s)
        | some t =>
          let es := (chunksOf 16 t.length t).map fun e => (numAt e 0 8, numAt e 8 8)
          (if es.all fun e => field e.1 62 52 == 0 && e.1 % 4096 == 0 && field e.2 62 58 == 0 && field e.2 28 0 != 0 then some (w, es) else none, s)

/-- Fields of an extent. -/
def extBad (e : Nat × Nat) : Bool := bitOf e.2 63
def extUsed (e : Nat × Nat) : Nat := field e.2 57 29
def extLen (e : Nat × Nat) : Nat := field e.2 28 0
def extWord (e : Nat × Nat) (bad : Bool) (used : Nat) : Nat := ofBool bad * 2 ^ 63 + used * 2 ^ 29 + extLen e

/-- Write a word or bytes at a physical address, if that can be done. -/
def State.devPut (s : State) (n addr : Nat) (b : List Byte) : State := (s.devWrite 0 n addr b).getD s

/-- The first extent from `i` on that takes another unit, with its units used. -/
def nextExtent (es : List (Nat × Nat)) : Nat → Nat → Nat → Option (Nat × Nat)
  | 0, _, _ => none
  | fuel + 1, i, used => match es[i]? with
    | none => none
    | some e => if extBad e || extLen e ≤ used then nextExtent es fuel (i + 1) 0 else some (i, used)

/-- Overlay words to every core of a partition, in the stream of its die (R362, R364). -/
def State.overlay (s : State) (c : BitVec 6) (cores : List Nat) (cmd : Nat) : State :=
  cores.foldl (fun s n => s.modBind (dieOf n) fun b => { b with stream := b.stream ++ [(n, ctlWord cmd c)] }) s

end Sys2Proof.Machine
end

