-- ==== Sys2Proof/Machine/Save.lean ====
section
/-! DEFINITION. Saving, restoring and dumping a context (R361 to R368): SAVE, its units, SAVEEND and SAVESTOP; RESUME, ABANDON;
RESTORE with RESTOREEND and RESTOREFAIL; DUMP with DUMPEND; and STOPPED, after which a held operation proceeds. -/

namespace Sys2Proof.Machine

/-- The core that stands for the master bindery of a context. -/
def State.masterCore (s : State) (c : BitVec 6) : Nat := coreNum (s.masterDie c) 0

def State.image? (s : State) (c : BitVec 6) : Option Image := (s.ctx c).image

def State.modImage (s : State) (c : BitVec 6) (f : Image → Image) : State := s.modCtx c fun x => { x with image := x.image.map f }

/-- The operation that writes an image. -/
def imageOp (s : State) (c : BitVec 6) (n id : Nat) : Op :=
  { id := id, kind := .image, fir := { n := n, elem := 90, tag := { ctx := c } }, instr := noNode, opc := 0, cap := {}, since := s.cycle }

/-! ### SAVE (R350, R361) -/

/-- Start a save from HALTED: NODESC, or the overlay goes to every core of the partition. The fields that the device writes
start from zero. -/
def State.startSave (s : State) (c : BitVec 6) (o : CtxOp) (was : CState) : State :=
  let n := s.masterCore c
  let addr := (s.ctx c).csrs.savedesc.toNat
  let (d, s) := s.saveDesc n addr 6
  match d with
  | none => s.endOp c o stNodesc 0
  | some (w, es) =>
    let s := es.zipIdx.foldl (fun s (e, i) => s.devPut n (w.getD 3 0 + 16 * i + 8) (leBytes 8 (extWord e false 0))) s
    let (id, s) := s.newId
    let s := { s with ops := s.ops ++ [imageOp s c n id] }
    let im : Image := { desc := BitVec.ofNat 64 addr, op := id, was := was }
    let s := s.modCtx c fun x => { x with state := .saving, holding := some o, image := some im }
    s.overlay c (s.partition c) 4

def execSaveop (ctx : BitVec 6) (s : State) : Host.Outcome State Fault Refusal := s.accept ctx .save fun o s =>
  match (s.ctx ctx).state with
  | .running => s.raiseLine ctx o
  | .halted => s.startSave ctx o .halted
  | _ => s.endOp ctx o stState 0

/-- Every core of the partition shifts. -/
def State.shifting (s : State) (c : BitVec 6) (k : Nat) : Bool := (s.partition c).all fun n => (s.core n).shift == k

/-- One 4 KiB unit of a save (R362, R365), once its cores shift and its bytes are fixed: written at ascending offset, then USED and WMARK advance; a failure marks its
extent BAD. -/
def State.saveUnit (s : State) (o : Op) : State :=
  let c := o.fir.tag.ctx
  let n := o.fir.n
  match (s.ctx c).state, s.image? c with
  | .saving, some im =>
    if im.failed || !s.shifting c 1 then s
    else
      let set (s : State) (im : Image) : State := (s.modOp o.id fun o => { o with since := s.cycle }).modCtx c fun x => { x with image := some im }
      if im.bytes.isEmpty then set s { im with bytes := s.imageBytes c im }
      else if im.bytes.length ≤ im.wmark then s
      else
        let (d, s) := s.saveDesc n im.desc.toNat 6
        match d with
        | none => set s { im with failed := true }
        | some (w, es) => match nextExtent es (es.length + 1) im.extent im.used with
          | none => set s im
          | some (i, used) =>
            let e := es.getD i (0, 0)
            let at_ := e.1 + used * 4096
            let word (s : State) (bad : Bool) (k : Nat) : State := s.devPut n (w.getD 3 0 + 16 * i + 8) (leBytes 8 (extWord e bad k))
            match s.devWrite o.id n at_ ((im.bytes.drop im.wmark).take 4096) with
            | none => set (word s true used) { im with failed := true }
            | some s =>
              let mark := min im.bytes.length (im.wmark + 4096)
              set ((word s false (used + 1)).devPut n (im.desc.toNat + 8) (leBytes 8 mark))
                { im with extent := i, used := used + 1, wmark := mark, head := if im.wmark = 0 then at_ else im.head }
  | _, _ => s

/-- Write the image header again, and STATUS, WMARK and TOTAL of the descriptor (R363, R365). -/
def State.markImage (s : State) (c : BitVec 6) (im : Image) (status : Nat) : State :=
  let n := s.masterCore c
  let total := if status = 1 then im.bytes.length else 0
  let s := if im.wmark = 0 then s else s.devPut n im.head (s.imageHeader c im magicSave status im.wmark total)
  let (b, s) := s.devRead n im.desc.toNat 8
  s.devPut n im.desc.toNat (wordBytes [status * 2 ^ 56 + leNat (b.getD []) % 2 ^ 56, im.wmark, total])

/-- SAVEEND (R350, R363): the whole image is written. -/
def execSaveend (ctx : BitVec 6) (s : State) : Host.Outcome State Fault Refusal :=
  .next (match (s.ctx ctx).state, s.image? ctx with
    | .saving, some im =>
      if im.bytes.isEmpty || im.wmark < im.bytes.length then s
      else
        let s := (s.markImage ctx im 1).dropOp im.op
        ((s.leaveFabric ctx).modCtx ctx fun x => { x with state := .saved, halt := none, image := none }).endHeld ctx stDone im.bytes.length
    | _, _ => s)

/-- The result of an operation that a save failure ends (R375). -/
def Context.failedSave (x : Context) (mark : Nat) : Nat := match x.holding with | some o => if o.op = .save then mark else 0 | none => 0

/-- SAVESTOP (R365): the extents are exhausted or a write failed; SAVEFAIL is counted (R356). -/
def execSavestop (ctx : BitVec 6) (s : State) : Host.Outcome State Fault Refusal :=
  .next (match (s.ctx ctx).state, s.image? ctx with
    | .saving, some im =>
      let n := s.masterCore ctx
      let (d, s) := s.saveDesc n im.desc.toNat 6
      let full := match d with
        | some (_, es) => (nextExtent es (es.length + 1) im.extent im.used).isNone
        | none => true
      if im.bytes.isEmpty || im.bytes.length ≤ im.wmark || !(im.failed || full) then s
      else
        let s := (s.markImage ctx im 2).dropOp im.op
        let r := (s.ctx ctx).failedSave im.wmark
        let s := s.modCtx ctx fun x => { x with state := .savefail }
        (s.raiseAt ctx n 0x000C).endHeld ctx stFailed r
    | _, _ => s)

/-- A failed save goes on (R365): from its watermark, in the first extent after the last one that holds image bytes. -/
def State.continueSave (s : State) (c : BitVec 6) (o : CtxOp) (im : Image) : State :=
  let n := s.masterCore c
  let (d, s) := s.saveDesc n im.desc.toNat 6
  match d with
  | none => s.endOp c o stNodesc 0
  | some (_, es) =>
    let last := es.zipIdx.foldl (fun a (e, i) => if extUsed e ≠ 0 then i + 1 else a) 0
    let (id, s) := s.newId
    let s := { s with ops := s.ops ++ [imageOp s c n id] }
    let im : Image := { im with extent := last, used := 0, failed := false, op := id }
    s.modCtx c fun x => { x with state := .saving, holding := some o, image := some im }

/-- RESUMEOP (R350, R360): the halt line is lowered, and a clock held at its least is let go (R456), or a failed save goes on. -/
def execResumeop (ctx : BitVec 6) (s : State) : Host.Outcome State Fault Refusal := s.accept ctx .resume fun o s =>
  match (s.ctx ctx).state, s.image? ctx with
  | .halted, _ => ({ s with plat := { s.plat with held := false } }.resume ctx).endOp ctx o stDone 0
  | .savefail, some im => s.continueSave ctx o im
  | _, _ => s.endOp ctx o stState 0

/-- ABANDONOP (R350, R365): the image is marked ABANDONED, the context HALTED. -/
def execAbandonop (ctx : BitVec 6) (s : State) : Host.Outcome State Fault Refusal := s.accept ctx .abandon fun o s =>
  match (s.ctx ctx).state, s.image? ctx with
  | .savefail, some im =>
    let s := s.markImage ctx im 3
    let s := (s.partition ctx).foldl (fun s n => s.modCore n fun c => { c with shift := 0 }) s
    (s.modCtx ctx fun x => { x with state := .halted, image := none }).endOp ctx o stDone im.wmark
  | _, _ => s.endOp ctx o stState 0

/-! ### RESTORE (R364) -/

/-- The image that a save descriptor names: the USED bytes of its extents in table order, read on P1. -/
def State.readImage (s : State) (n : Nat) (es : List (Nat × Nat)) : Option (List Byte) × State :=
  (es.flatMap fun e => (List.range (extUsed e)).map fun k => e.1 + 4096 * k).foldl (fun (st : Option (List Byte) × State) a =>
    match st.1 with
    | none => st
    | some b => let r := st.2.devRead n a 4096 1; (r.1.map (b ++ ·), r.2)) (some [], s)

/-- Cores of an image's mask. -/
def imageCores (b : List Byte) : List Nat :=
  (List.range 160).filter fun n => bitOf (numAt b (if n < 64 then 32 else if n < 128 then 40 else 48) 8) (n % 64)

/-- The body of the first section of a type. -/
def sectionOf (b : List Byte) (ty : Nat) : Option (List Byte) :=
  ((sectionsIn b.length (b.drop 64)).find? (·.1 == ty)).map fun x => x.2.2

/-- The bindings and CSRs that a CSR section gives; a SAVED context keeps its bindings. -/
def Context.restored (x : Context) (b : List Byte) : Context :=
  let g (i : Nat) : Nat := numAt b (8 * i) 8
  let nv := g 15
  let d (i : Nat) : Nat := g (18 + nv + i)
  let csrs : Csrs :=
    { partw := BitVec.ofNat 32 (g 1), rmode := BitVec.ofNat 3 (g 3), excmode := BitVec.ofNat 16 (g 4), fflags := BitVec.ofNat 8 (g 5),
      jord := BitVec.ofNat 3 (g 6), jflags := BitVec.ofNat 40 (g 7), jtrap := BitVec.ofNat 40 (g 8), rngkey := BitVec.ofNat 64 (g 9),
      cntthr := BitVec.ofNat 16 (g 10), nqbase := BitVec.ofNat 64 (g 11), dumpdesc := BitVec.ofNat 64 (g 16),
      savedesc := BitVec.ofNat 64 (g 17) }
  let log := (List.range nv).map fun i => (bitOf (g (18 + i)) 62, field (g (18 + i)) 55 0)
  let y : Context := { queue := x.queue, holding := x.holding, state := x.state, sup := x.sup, ptroot := x.ptroot, pod := x.pod, job := x.job,
                       csrs := csrs, violog := log }
  if x.state = .free then
    { y with sup := bitOf (d 0) 52, ptroot := BitVec.ofNat 52 (d 0), pod := bitOf (d 5) 16, job := BitVec.ofNat 16 (d 5) }
  else y

/-- Every group's folio, read at its recorded address, still has its digest (R364). -/
def State.foliosMatch (s : State) (c : BitVec 6) (h : Shelf) : Bool × State :=
  h.groups.foldl (fun (st : Bool × State) g =>
    let virt := bitOf (g.words.getD 0 0).toNat 41
    let addr := (g.words.getD 1 0).toNat
    let (x, s) := st.2.fetchBytes virt c g.die addr 64
    match x with
    | none => (false, s)
    | some x =>
      let (b, s) := s.fetchBytes virt c g.die addr (folioLen x)
      (st.1 && (match b.map parseFolio with | some (.ok f) => f.digest == g.digest | _ => false), s)) (true, s)

/-- What makes an image acceptable (R364), beyond the bodies of its sections. -/
def State.shapeOk (s : State) (c : BitVec 6) (b : List Byte) : Bool :=
  numAt b 0 4 == magicSave && numAt b 4 2 == 1 && numAt b 7 1 == 1 && numAt b 16 8 ≤ b.length && (sectionOf b 1).isSome &&
  (imageCores b).all fun n => match (s.core n).owner with | some d => d == c | none => true

/-- RESTOREOP (R364): NODESC, SHAPE, or RESTORING with RESTOREOVL to the image's cores; a failed read is RESTOREFAIL's. An image
whose bodies are not the model's is none of this hardware's, and ends as SHAPE (log 8). -/
def execRestoreop (ctx : BitVec 6) (s : State) : Host.Outcome State Fault Refusal := s.accept ctx .restore fun o s =>
  let x := s.ctx ctx
  if x.state != .free && x.state != .saved then s.endOp ctx o stState 0
  else
    let n := s.masterCore ctx
    let (d, s) := s.saveDesc n o.arg.toNat 1
    match d with
    | none => s.endOp ctx o stNodesc 0
    | some (_, es) =>
      let (r, s) := s.readImage n es
      match r with
      | none => s.modCtx ctx fun y => { y with state := .restoring, holding := some o, image := some { desc := o.arg, failed := true, run := o.run } }
      | some b =>
        if !s.shapeOk ctx b then s.endOp ctx o stShape 0
        else match shelfOf b with
          | none => s.endOp ctx o stShape 0
          | some h =>
            let y := x.restored ((sectionOf b 1).getD [])
            let (same, t) := (s.modCtx ctx fun _ => y).foliosMatch ctx h
            let s := t.modCtx ctx fun _ => x
            if !same || (s.placesOf h (numAt b 28 4)).isNone then s.endOp ctx o stShape 0
            else
              let cores := imageCores b
              let im : Image := { desc := o.arg, bytes := b, run := o.run }
              let r := FaultRec.ofWords (numsOf 8 ((sectionOf b 2).getD []))
              let frec : FaultRec := { r with tag := { r.tag with ctx := ctx } }
              let halt := some (numAt b 56 8)
              let s := s.modCtx ctx fun _ => { y with state := .restoring, holding := some o, halt := halt, frec := frec, image := some im }
              let s := cores.foldl (fun s k => s.modCore k fun c => { c with owner := some ctx, partw := BitVec.ofNat 32 (numAt b 52 4) }) s
              s.overlay ctx cores 5

/-- RESTOREEND (R350, R364): every core loads; the context runs under RUN, else it is HALTED. -/
def execRestoreend (ctx : BitVec 6) (s : State) : Host.Outcome State Fault Refusal :=
  .next (match (s.ctx ctx).state, s.image? ctx with
    | .restoring, some im =>
      if im.failed || !s.shifting ctx 2 then s
      else match (shelfOf im.bytes).bind fun h => (s.placesOf h (numAt im.bytes 28 4)).map fun p => (h, p) with
        | none => s.modImage ctx fun i => { i with failed := true }
        | some (h, place) =>
          let s := s.loadShelf h { ctx := ctx, old := h.ctx, off := s.fresh, own := h.stamp == Config.stamp, place := place,
                                   cut := numAt im.bytes 56 8, now := s.cycle }
          let s := s.modCtx ctx fun x => { x with state := .halted, image := none }
          (if im.run then s.resume ctx else s).endHeld ctx stDone 0
    | _, _ => s)

/-- RESTOREFAIL (R350, R364): a read of the image failed; the image is untouched. -/
def execRestorefail (ctx : BitVec 6) (s : State) : Host.Outcome State Fault Refusal :=
  .next (match (s.ctx ctx).state, s.image? ctx with
    | .restoring, some im => if im.failed then (s.destroy ctx).endHeld ctx stFailed 0 else s
    | _, _ => s)

/-! ### DUMP (R366 to R368) -/

/-- The words of a dump descriptor; none where it is zero, breaks R366 or cannot be read. -/
def State.dumpDesc (s : State) (n addr : Nat) : Option (List Nat) × State :=
  if addr = 0 ∨ addr % 64 ≠ 0 then (none, s)
  else
    let (b, s) := s.devRead n addr 128
    let w := (wordsOf (b.getD [])).map (·.toNat)
    let g (i : Nat) : Nat := w.getD i 0
    if b.isNone ∨ field (g 0) 62 52 ≠ 0 ∨ g 0 % 64 ≠ 0 ∨ g 1 % 64 ≠ 0 ∨ g 1 < 4096 ∨ 2 ^ 48 < g 1 ∨ field (g 2) 63 1 ≠ 0 ∨
      ((w.drop 3).take 5).any (· ≠ 0) then (none, s)
    else (some w, s)

/-- A dump at the head of its engine's queue starts (R367). -/
def State.beginDump (s : State) (die : Nat) : State :=
  match (s.bind die).dumps with
  | c :: _ => s.modImage c fun i => { i with start := s.cycle, faultst := (s.ctx c).frec.st }
  | [] => s

/-- Queue a dump on the engine of the master die (R368), `prior` being the state to go back to. What a failed save keeps of its own
image stays beside it. -/
def State.startDump (s : State) (c : BitVec 6) (o : Option CtxOp) (was prior : CState) : State :=
  let (d, s) := s.dumpDesc (s.masterCore c) (s.ctx c).csrs.dumpdesc.toNat
  match d with
  | none => match o with | some o => s.endOp c o stNodesc 0 | none => s
  | some _ =>
    let die := s.masterDie c
    let first := (s.bind die).dumps.isEmpty
    let im : Image := { ((s.ctx c).image.getD {}) with prior := prior, dumped := was, second := 0 }
    let s := s.modCtx c fun x => { x with state := .dumping, holding := o, image := some im }
    let s := s.modBind die fun b => { b with dumps := b.dumps ++ [c] }
    if first then s.beginDump die else s

def execDumpop (ctx : BitVec 6) (s : State) : Host.Outcome State Fault Refusal := s.accept ctx .dump fun o s =>
  match (s.ctx ctx).state with
  | .running => s.raiseLine ctx o
  | .halted => s.startDump ctx (some o) .halted .halted
  | .savefail => s.startDump ctx (some o) .savefail .savefail
  | _ => s.endOp ctx o stState 0

/-- The sections that fit into a room, the first that does not cut off with TRUNC; and whether one was cut (R368). -/
def fitSections : Nat → List (List Byte) → List Byte × Bool
  | _, [] => ([], false)
  | room, x :: r =>
    if x.length ≤ room then
      let y := fitSections (room - x.length) r
      (x ++ y.1, y.2)
    else
      let w := numAt x 0 8
      ((if room < 16 then [] else sect (field w 63 48) (numAt x 8 8) ((x.drop 16).take (room - 16)) true), true)

/-- Write bytes in lines of 64; where a write faults, the offset reached. -/
def State.writeLines (s : State) (n : Nat) : Nat → Nat → List (List Byte) → Except Nat Nat × State
  | _, off, [] => (.ok off, s)
  | a, off, x :: r => match s.devWrite 0 n (a + off) x with
    | none => (.error off, s)
    | some s => s.writeLines n a (off + x.length) r

/-- The colophon (R367). -/
def colophon (im : Image) (status len cycle : Nat) : List Byte :=
  wordBytes [im.second * 2 ^ 48 + status * 2 ^ 32 + 0x4C43_5750, len, im.faultst, im.start, cycle, 0, 0, 0]

/-- Write the archive image of a context and its colophon: the outcome is COMPLETE, TRUNCATED or WRITEFAIL (R368). -/
def State.writeDump (s : State) (c : BitVec 6) (im : Image) (w : List Nat) : Nat × State :=
  let n := s.masterCore c
  let buf := w.getD 0 0
  let len := w.getD 1 0
  let x := s.imageHeader c { im with was := im.dumped } magicDump 0 0 0
  let y := fitSections (len - 128) (([3, 2, 1, 5, 6, 7, 8] : List Nat).flatMap (s.sections c (s.toShelf c)))
  let image := x ++ y.1
  let (r, s) := s.writeLines n buf 0 (chunksOf 64 image.length image)
  let fail (off : Nat) : Nat × State := (3, s.devPut n ((s.ctx c).csrs.dumpdesc.toNat + 64) (colophon im 3 off s.cycle))
  match r with
  | .error off => fail off
  | .ok off =>
    let status := if y.2 then 2 else 1
    match s.devWrite 0 n (buf + len - 64) (colophon im status off s.cycle) with
    | some s => (status, s)
    | none => fail off

/-- DUMPEND (R367, R368): the engine of a die ends its dump and starts the next. -/
def execDumpend (die : Nat) (s : State) : Host.Outcome State Fault Refusal :=
  .next (match (s.bind die).dumps with
    | [] => s
    | c :: rest =>
      let s := s.modBind die fun b => { b with dumps := rest }
      match (s.ctx c).state, s.image? c with
      | .dumping, some im =>
        let (d, s) := s.dumpDesc (s.masterCore c) (s.ctx c).csrs.dumpdesc.toNat
        let (status, s) := match d with
          | some w => s.writeDump c im w
          | none => (3, s)
        let s := s.modCtx c fun x => { x with state := im.prior, image := if im.prior = .savefail then some im else none }
        (s.endHeld c (if status = 3 then stFailed else stDone) 0).beginDump die
      | _, _ => s.beginDump die)

/-! ### STOPPED -/

/-- The halt notification (R359), from the core whose firing faulted (R460); a commanded halt has no such core, and the master
bindery's stands for it (log 46). -/
def State.haltNote (s : State) (c : BitVec 6) : State :=
  let x := s.ctx c
  let r := x.frec.words
  let n := if x.byFault then coreNum x.frec.die.toNat x.frec.core.toNat else s.masterCore c
  if x.byFault then s.notify c n 3 x.frec.addr.toNat (leBytes 8 x.frec.st ++ leBytes 8 (r.getD 2 0) ++ leBytes 8 (r.getD 1 0))
  else s.notify c n 3 0 []

/-- AUTO of the dump descriptor (R366). -/
def State.autoDump (s : State) (c : BitVec 6) : Bool × State :=
  let (d, s) := s.dumpDesc (s.masterCore c) (s.ctx c).csrs.dumpdesc.toNat
  (match d with | some w => bitOf (w.getD 2 0) 0 | none => false, s)

/-- STOPPED (R350, R353): the notification is appended; the held operation proceeds, or an automatic dump, or HALTED. -/
def execStopped (ctx : BitVec 6) (s : State) : Host.Outcome State Fault Refusal :=
  .next (
    if (s.ctx ctx).state != .halting || !s.allStopped ctx then s
    else
      let s := s.haltNote ctx
      let byFault := (s.ctx ctx).byFault
      let held := (s.ctx ctx).holding
      let s := s.modCtx ctx fun x => { x with state := .halted, holding := none }
      match held with
      | none =>
        if !byFault then s
        else
          let (auto, s) := s.autoDump ctx
          if auto then s.startDump ctx none .running .halted else s
      | some o => match o.op with
        | .save => s.startSave ctx o .running
        | .dump => s.startDump ctx (some o) .running .halted
        | .destroy => (s.destroy ctx).endOp ctx o stDone 0
        | _ => s.endOp ctx o stDone 0)

end Sys2Proof.Machine
end

