-- ==== Sys2Proof/Machine/Events.lean ====
section
/-! DEFINITION. The events of the memory side: responses, units, block passes, retries under write-blocking (R387), the watchdog
(R356), and accesses from outside: another package's (R264) and the companion processor's (R297). -/

namespace Sys2Proof.Machine

/-- An operation may act now: it has work left, is not stopped, and its element, or one of those it spans, is not halted (R353). -/
def State.opRuns (s : State) (o : Op) : Bool :=
  (o.st == .issued || o.st == .active) && (!o.ofElement || (s.elem o.fir.n o.fir.elem).halted.isNone ||
    (o.kind == .matrix && (mxaCores o.opc o.instr o.fir.n).any fun c => (s.elem c 84).halted.isNone))

/-- Perform an access of another package: translated with the permissions of the context it names (R264), counted (R382), and kept
where write-blocking stalls it (R387). -/
def State.remoteStep (s : State) (o : Op) (i : Nat) : State :=
  match o.accs[i]? with
  | none => s
  | some a =>
    let r : Req := { ctx := o.fir.tag.ctx, n := o.fir.n, iss := .remote (o.nums.getD 0 0), path := 1, va := a.va, size := a.size,
                     kind := a.kind, fmt := o.instr.fmt, data := a.data, own := o.id }
    let (m, l, s) := s.access r (o.leaves, o.pins)
    let o := { o with leaves := l.1, pins := l.2 }
    match m with
    | .stall => s.putOp { o with accs := setAt o.accs i { a with st := .stalled } }
    | _ =>
      let left := o.accs.eraseIdx i
      if left.isEmpty && !o.vals.isEmpty then s.dropOp o.id else s.putOp { o with accs := left }

/-- One access of an operation, `k` naming it where there are several. -/
def State.opAccess (s : State) (o : Op) (k : Nat) : State :=
  match o.kind with
  | .xfer => s.xferElem o k
  | .matrix => s.arrayRead o k
  | .notify => s.notifyStep o
  | .record => s.recordStep o
  | .nqget => s.nqgetStep o
  | .select => s.selectStep o k
  | .launch => s.launchStep o
  | .coll => s.collUnit o (some k)
  | .pwb => s.pwbStep o
  | .page => s.pageStep o
  | .counter => s.counterStep o
  | .remote => s.remoteStep o k
  | _ => s

/-- An operation that makes its accesses in one step and is still there waits for something else than an answer (R356). -/
def State.answered (s : State) (o : Op) : State :=
  if o.kind == .pwb || o.kind == .page then s.modOp o.id fun p => { p with mask := [1] } else s

/-- MEMORY_RESPONSE (R253): an issued request of P0 is performed even under the halt line (R266); any other operation makes an
access only while it runs. -/
def execMemoryResponse (op elem : Nat) (s : State) : Host.Outcome State Fault Refusal :=
  .next (match s.findOp op with
    | none => s
    | some o =>
      if o.kind = .mem then
        match o.accs[elem]? with
        | some a => if a.st = .pending then s.memAccess o elem else s
        | none => s
      else if s.opRuns o then (s.opAccess o elem).answered o
      else s)

/-- STALLED_WRITE_RETRY (R387): a stalled access is translated again, and performed where WB is clear. -/
def execStalledWriteRetry (op elem : Nat) (s : State) : Host.Outcome State Fault Refusal :=
  .next (match s.findOp op with
    | none => s
    | some o =>
      if !s.opRuns o then s
      else if o.kind = .mem then
        match o.accs[elem]? with
        | some a => if a.st = .stalled then s.memAccess o elem else s
        | none => s
      else s.opAccess o elem)

/-- TRANSFER_UNIT (R266, R267): an engine works on the current unit of an operation. -/
def execTransferUnit (op : Nat) (s : State) : Host.Outcome State Fault Refusal :=
  .next (match s.findOp op with
    | none => s
    | some o =>
      if !s.opRuns o then s
      else match o.kind with
        | .xfer => s.xferUnit o
        | .dq => s.dqUnit o
        | .drain => s.drainUnit o
        | .pmig => (s.pmigStep o).modOp o.id fun p => { p with since := s.cycle }
        | .coll => s.collUnit o none
        | .image => s.saveUnit o
        | _ => s)

/-- BLOCK_PASS (R236): the matrix array ends a unit of an operation. -/
def execBlockPass (op : Nat) (s : State) : Host.Outcome State Fault Refusal :=
  .next (match s.findOp op with
    | none => s
    | some o => if s.opRuns o && o.kind == .matrix then s.arrayUnit o else s)

/-- The accesses of the elements of a unit that are neither performed nor failed, each with the cycle of its issue and its address
as an error token names it; one that write-blocking keeps from its issue (R387) is not awaited. -/
def State.awaitedPieces (s : State) (o : Op) (path : Nat) (ps : List Piece) : List (Nat × Nat) :=
  ps.zipIdx.filterMap fun (p, i) =>
    if o.mask.contains i || o.bad.contains i then none
    else
      let got := o.got i
      let side := if got.isSome then p.dst else p.src.orElse fun _ => p.dst
      let stalls : Bool := match (o.piece s path p false got).1 with | .stalled => true | _ => false
      let since := match o.accs.find? (·.e == i) with | some a => max a.since o.since | none => o.since
      match side with
      | some d => if stalls then none else some (since, errAddr d.spm d.va)
      | none => none

/-- The address at which a GATH or SCAT reads its index. -/
def Op.indexAddr (o : Op) : Nat :=
  let w0 := wordAt o.desc 0
  let a := o.fire.i64 0 0
  errAddr (bitOf w0 62) (reach (bitOf w0 62) a (a + o.book * 2 ^ field w0 59 58))

/-- What a save awaits: the write of its next unit. -/
def State.awaitedUnit (s : State) (o : Op) : List (Nat × Nat) :=
  match s.image? o.fir.tag.ctx with
  | some im =>
    if im.failed || im.bytes.isEmpty || im.bytes.length ≤ im.wmark then []
    else match (s.saveDesc o.fir.n im.desc.toNat 6).1 with
      | some (_, es) => match nextExtent es (es.length + 1) im.extent im.used with
        | some (i, used) => [(o.since, (es.getD i (0, 0)).1 + used * 4096)]
        | none => []
      | none => []
  | none => []

/-- What a collective that runs awaits: its reads, then its writes, at the addresses of their ranks. -/
def State.awaitedColl (s : State) (o : Op) : List (Nat × Nat) :=
  match s.ledBy o with
  | none => []
  | some b =>
    let d := leNat o.desc
    let tasks := (collReads o).map (fun t => (t.1, t.2, false)) ++ (collWrites o).map fun t => (t.2.1, t.2.2, true)
    tasks.zipIdx.filterMap fun ((r, j, dst), k) =>
      if o.mask.contains k || o.bad.contains k then none
      else ((b.running.find? (·.rank == r)).bind fun c => s.findOp c.op).map fun p => (o.since, errAddr (bitOf d 52) (collAddr p d dst j))

/-- What a firing of the matrix array awaits: the lists of the next pass that its cores that are not halted have not read. -/
def State.awaitedLists (s : State) (o : Op) : List (Nat × Nat) :=
  if o.opc = 0x105 ∨ o.opc = 0x106 ∨ o.opc = 0x10A then []
  else (quadCores o.instr o.fir.n).zipIdx.flatMap fun (n, i) => match (matrixUnits o)[o.counts.getD i 0]? with
    | none => []
    | some u => if (s.elem n 84).halted.isSome then [] else (List.range 64).filterMap fun q =>
        if o.accs.any (·.e == 64 * i + q) then none
        else let l := o.passList i u q; some (o.since, errAddr true (l.ref.addrOf l.elems l.plane (l.row 0) (l.col 0)))

/-- What an operation awaits (R356): cycles of issue and addresses. -/
def State.awaited (s : State) (o : Op) : List (Nat × Nat) :=
  match o.kind with
  | .mem => (o.accs.filter (·.st == .pending)).map fun a => (a.since, errAddr a.spm a.va)
  | .xfer =>
    if o.st != .active then []
    else if o.vals.isEmpty then (if o.opc = 0x12F ∨ o.opc = 0x130 then [(o.since, o.indexAddr)] else [])
    else if unitsOf o ≤ o.book then [(o.since, errAddr false (o.fire.i64 2 0))]
    else s.awaitedPieces o (pathOf o.opc) (unitPieces o)
  | .drain => if o.st == .active && !o.vals.isEmpty then s.awaitedPieces o 1 (drainPieces o (field o.book 9 0)) else []
  | .dq => if o.st == .active && !o.vals.isEmpty then s.awaitedPieces o 4 (dqPieces o) else []
  | .select =>
    if o.st != .active then []
    else
      let left := (List.range (selTasks o)).filter fun k => !o.mask.contains k && !o.bad.contains k
      left.map fun k => (o.since, errAddr (selSpm (wordAt o.desc 0)) (selReq o k).va)
  | .coll => if o.st == .active && !(o.mask.isEmpty && o.bad.isEmpty) then s.awaitedColl o else []
  | .matrix => if o.st == .active then s.awaitedLists o else []
  | .pmig =>
    if o.st == .active && (o.nums.getD 0 0 = 0 || (o.nums.getD 0 0 = 2 && o.book < 16)) then
      [(o.since, errAddr false (pmigVa o + 4096 * o.book + 64 * o.nums.getD 3 0))]
    else []
  | .pwb | .page => if o.st == .active && o.mask.isEmpty then [(o.since, errAddr false (o.fire.i64 0 0))] else []
  | .nqget => if o.st == .active && o.mask.isEmpty then [(o.since, errAddr false (s.ctx o.fir.tag.ctx).csrs.nqbase.toNat)] else []
  | .launch => if o.st == .active && !o.nums.isEmpty then [(o.since, errAddr false (o.fire.i64 0 o.book))] else []
  | .image => s.awaitedUnit o
  | _ => []

/-- The requests of a firing that the watchdog ends: each is performed or not, which no program can tell. -/
def State.maybePerform (s : State) (o : Op) : State :=
  if o.kind != .mem then s
  else (o.accs.filter (·.st == .pending)).foldl (fun (s : State) a =>
    let (k, s) := s.choice 2
    if k = 0 then s
    else
      let r : Req := { ctx := o.fir.tag.ctx, n := o.fir.n, iss := .core o.fir.n, path := 0, spm := a.spm, va := a.va,
                       size := a.size, kind := a.kind, fmt := o.instr.fmt, data := a.data, cmp := a.cmp }
      (o.access s r).2.2) s

/-- An access of an operation is translated ahead of its performance (R294). -/
def State.translateAhead (s : State) (o : Op) (k : Nat) : State :=
  if !s.opRuns o then s
  else match o.kind with
    | .mem => match o.accs[k]? with
      | some a =>
        if a.st != .pending && a.st != .stalled then s
        else let (_, o, s) := o.pin s (o.memReq a); s.putOp o
      | none => s
    | .xfer =>
      if o.vals.isEmpty || unitsOf o ≤ o.book then s
      else let (o, s) := o.pieceAhead s (pathOf o.opc) (unitPieces o) k; s.putOp o
    | _ => s

/-- WATCHDOG (R356): an access has had no response 2^26 cycles after its issue; its firing or unit ends with a halting fault and no
output, and the fault and stop records name the access; a save whose write has none has failed (R365). -/
def execWatchdog (op : Nat) (s : State) : Host.Outcome State Fault Refusal :=
  .next (match s.findOp op with
    | none => s
    | some o =>
      match (s.awaited o).find? fun a => 2 ^ 26 ≤ s.cycle - a.1 with
      | none => s
      | some a =>
        if o.kind = .image then (s.modImage o.fir.tag.ctx fun i => { i with failed := true }).raiseAt o.fir.tag.ctx o.fir.n 0x0009
        else
          let s := (s.maybePerform o).dropOp op
          s.raise o.fir.tag.ctx 0 (faultRec s o.fir (im o.instr) o.mark 0x0009 a.2 true 0) (some { o with book := o.mark }))

/-- A Strand port carries traffic. -/
def State.strand (s : State) : Bool := (List.range 16).any fun p => (s.link (32 + p)).state.works

/-- The Strand agent honours an access (R264): its port works, the context it names is bound here and in the same pod job. -/
def State.honours (s : State) (req : RemoteReq) : Bool :=
  let x := s.ctx (BitVec.ofNat 6 req.rctx)
  req.via < 16 && (s.link (32 + req.via)).state.works && req.pkg < 2048 && req.rctx < 64 && x.state != .free && x.state != .destroyed &&
  x.pod && req.pod && x.job.toNat == req.job && [1, 2, 4, 8].contains (if req.write then req.data.length else req.size)

/-- The operation that stands for a unit of another package. -/
def State.remoteOp (s : State) (req : RemoteReq) : Option Op :=
  s.ops.find? fun o => o.kind == .remote && o.nums == [req.pkg, req.unit, req.rctx]

/-- REMOTE_ACCESS (R264): another package's access, an atomic add included (R275), is checked and then waits for its performance
with the others of its unit; a refused one has no effect here. -/
def execRemoteAccess (req : RemoteReq) (s : State) : Host.Outcome State Fault Refusal :=
  .next (
    if !s.honours req then s
    else
      let c := BitVec.ofNat 6 req.rctx
      let (o, s) : Op × State := match s.remoteOp req with
        | some o => (o, s)
        | none =>
          let (id, s) := s.newId
          let o : Op := { id := id, kind := .remote, fir := { n := coreNum (s.masterDie c) 0, elem := 90, tag := { ctx := c } },
                          instr := { noNode with fmt := req.add.getD .I }, opc := 0, cap := {}, st := .active,
                          nums := [req.pkg, req.unit, req.rctx], since := s.cycle }
          (o, { s with ops := s.ops ++ [o] })
      let a : Access := { e := 0, j := 0, spm := false, va := req.va, size := if req.write then req.data.length else req.size,
                          kind := if !req.write then .read else if req.add.isSome then .rmw 0 else .write, data := req.data, since := s.cycle }
      s.putOp { o with accs := o.accs ++ [a], vals := if req.last then [1] else o.vals })

/-- The bytes of the report area that only the device writes (R455): FLAGS, BOOT, the hashes, the measurement, the identity, the
signature, the log, and the certificate request (log 10). -/
def reportRo (i : Nat) : Bool :=
  (1 ≤ i && i ≤ 3) || (64 ≤ i && i ≤ 211) || (216 ≤ i && i ≤ 511) || (512 ≤ i && i < 512 + 48 * 4096)

/-- The parts of a host write that take effect: all but the read-only bytes of the report area, as runs of bytes. -/
def State.hostParts (s : State) : List Byte → Nat → List Byte → List (Nat × List Byte)
  | [], at_, acc => if acc.isEmpty then [] else [(at_, acc)]
  | b :: r, at_, acc =>
    let i := at_ + acc.length
    if 3 ≤ s.plat.stage && s.plat.report ≤ i && reportRo (i - s.plat.report) then
      (if acc.isEmpty then [] else [(at_, acc)]) ++ s.hostParts r (i + 1) []
    else s.hostParts r at_ (acc ++ [b])

/-- HOST_ACCESS (R297): the companion processor reads or writes device or host memory; what it writes to a read-only field of the
report area is lost (R455). -/
def execHostAccess (req : HostReq) (s : State) : Host.Outcome State Fault Refusal :=
  .next (
    let size := if req.write then req.data.length else req.size
    match fieldKey req.addr size with
    | none => s
    | some k =>
      if size = 0 || (!bitOf req.addr 63 && !s.tether) then s
      else
        let one (s : State) (k : Nat) (d : List Byte) : State :=
          (s.perform { ctx := 0, n := 0, iss := .host, path := 6, va := 0, size := if req.write then d.length else size,
                       kind := if req.write then .write else .read, data := d, loose := req.loose } k).2
        if req.write then (s.hostParts req.data k []).foldl (fun s p => one s p.1 p.2) s else one s k [])

end Sys2Proof.Machine
end

