-- ==== Sys2Proof/Machine/Network.lean ====
section
/-! DEFINITION. Tokens on the network: injection, delivery, output buffers and spills (R99, R104 to R109, R113), the pacing and
promotion of firings (R38, R323), and the recovery of the network by call slips (R403 to R409). -/

namespace Sys2Proof.Machine

/-- An element that an event names exists, and its halt line has not stopped it. -/
def State.moves (s : State) (n elem : Nat) : Bool := n < 160 && elem < 90 && (s.elem n elem).halted.isNone

/-! ### Injection and delivery -/

/-- A route names an element and a slot that exist (R9, R13, R15, R48). -/
def routeOk (w : Nat) : Bool :=
  routeDie w < 8 && routeCore w < 20 && routeElem w < 90 && routeSlot w < slotCount (routeElem w)

/-- A destination takes or disposes of its copy (R108); an entry whose copies are all taken frees. -/
def Elem.ack (e : Elem) (entry dest : Nat) : Elem :=
  { e with out := (e.out.map fun (o : OutEntry) =>
      if o.id = entry then { o with dests := o.dests.filter fun d => d.1 != dest } else o).filter fun (o : OutEntry) => !o.dests.isEmpty }

/-- The pacing interval since the last class-0 injection has passed (R38). -/
def State.paced (s : State) (e : Elem) : Bool :=
  match e.lastC0 with | some t => 32 ≤ s.cycle - t | none => true

/-- INJECT (R113): one copy leaves the output buffer; under the halt line the outputs of P0 firings alone (R266). A route or a DIE
field that names nothing is an FMT fault (R9, R48) and the copy is gone. -/
def execInject (n elem entry dest : Nat) (s : State) : Host.Outcome State Fault Refusal :=
  .next (
    let e := s.elem n elem
    match e.out.find? (·.id == entry) with
    | none => s
    | some o => match o.dests.find? (·.1 == dest) with
      | none => s
      | some (_, w, c) =>
        if !(s.moves n elem || e.requests o.slot) || o.sent.contains dest || (c = 0 && !s.paced e) then s
        else
          let s := s.payLate n elem entry
          let e := s.elem n elem
          if !routeOk w || 8 ≤ o.tok.tag.die.toNat then
            (s.setElem n elem (e.ack entry dest)).slotFault n elem o.slot o.tok 0x000D
          else
            let (id, s) := s.newId
            let sent (o : OutEntry) : OutEntry := if o.id = entry then { o with sent := dest :: o.sent } else o
            let s := s.setElem n elem { e with out := e.out.map sent, lastC0 := if c = 0 then some s.cycle else e.lastC0 }
            let t := { o.tok with cls := BitVec.ofNat 2 c, port := BitVec.ofNat 2 (field w 22 21) }
            s.addPacket { id := id, tok := t, n := coreNum (routeDie w) (routeCore w), elem := routeElem w, slot := routeSlot w,
                          src := some (n, elem, entry, dest), since := s.cycle, router := n, lane := false, home := n, input := n })

/-! ### Routing (R403, R405) -/

/-- The die of a router; 160 and up are the edges of the dies. -/
def routerDie (r : Nat) : Nat := if r < 160 then dieOf r else r - 160

/-- The die links that a returns-lane packet crosses from die `a` to die `b` in dimension order (R405): along the row, then
between rows. -/
def lanePath : Nat → Nat → Nat → List (Nat × Nat)
  | 0, _, _ => []
  | fuel + 1, a, b =>
    if a = b then []
    else
      let next := if a % 4 < b % 4 then a + 1 else if b % 4 < a % 4 then a - 1 else if a < 4 then a + 4 else a - 4
      (a, next) :: lanePath fuel next b

/-- The modules that join two dies, numbered from the first. -/
def modulesOf (a b : Nat) : List Nat := ((List.range 4).filter fun m => farDie a m == b).map fun m => 4 * a + m

/-- A die pair has a module that carries traffic. -/
def State.pairWorks (s : State) (a b : Nat) : Bool := (modulesOf a b).any fun l => (s.link l).state.works

/-- Along its row of four cores, or along its column: the core routers next on a minimal path of a die, whose cores stand in rows
of one quad each (log 55). -/
def coreHops (r dst : Nat) : List Nat × List Nat :=
  let a := coreIn r
  let b := coreIn dst
  (if a % 4 < b % 4 then [r + 1] else if b % 4 < a % 4 then [r - 1] else [],
   if a / 4 < b / 4 then [r + 4] else if b / 4 < a / 4 then [r - 4] else [])

/-- The dies next on a minimal path between compute dies. -/
def dieHops (a b : Nat) : List Nat :=
  (if a % 4 < b % 4 then [a + 1] else if b % 4 < a % 4 then [a - 1] else []) ++ (if a / 4 ≠ b / 4 then [(a + 4) % 8] else [])

/-- The routers that a packet may move to: any that shortens its path, over die links that carry traffic (R403); on the returns
lane the one of dimension order, and between dies only with the package slip (R405). -/
def State.nexts (s : State) (p : Packet) : List Nat :=
  let d := routerDie p.router
  let dst := dieOf p.n
  if p.router < 160 then
    if d ≠ dst then [160 + d]
    else
      let h := coreHops p.router p.n
      if p.lane then (if h.1.isEmpty then h.2 else h.1) else h.1 ++ h.2
  else if d = dst then [p.n]
  else if p.lane then
    let x : Slip := Assoc.get {} s.slips 8
    if x.held.isSome && x.carry == p.id then ((lanePath 8 d dst).take 1).filterMap fun h => if s.pairWorks d h.2 then some (160 + h.2) else none
    else []
  else ((dieHops d dst).filter (s.pairWorks d)).map (160 + ·)

/-- Count a drained packet on the die link it crosses, at both ends (R415). -/
def State.countDrain (s : State) (x y : Nat) : State :=
  match (modulesOf x y).find? fun l => (s.link l).state.works with
  | none => s
  | some l =>
    let k := (modulesOf x y).findIdx (· == l)
    let twin := (modulesOf y x).getD k l
    ([l, twin].eraseDups).foldl (fun s i => s.modLink i fun z => { z with drains := min (z.drains + 1) 0xFFFF }) s

/-- A packet moves to a router (R403, R405): its blocked-timer begins anew; a drained one leaves the returns lane on its last
die (log 55). -/
def State.hop (s : State) (packet router : Nat) : State :=
  match s.net.find? (·.id == packet) with
  | none => s
  | some p =>
    if !(s.nexts p).contains router then s
    else
      let s := if p.lane && 160 ≤ p.router && 160 ≤ router then s.countDrain (p.router - 160) (router - 160) else s
      (s.dropPacket p).addPacket { p with router := router, input := p.router, waits := false, waitsAt := s.cycle,
                                          lane := p.lane && !(160 ≤ p.router && router < 160) }

/-! ### Class-0 delivery (R408, R409) -/

/-- When a die pair came to carry traffic again, or gave up: none while it only has modules that are RECOVERING. -/
def State.pairReady (s : State) (a b : Nat) : Option Nat :=
  let ms := modulesOf a b
  let up := ms.filter fun l => (s.link l).state.works
  if up.isEmpty then
    (if ms.any fun l => (s.link l).state == .recovering then none else some (ms.foldl (fun t l => max t (s.link l).ready) 0))
  else some (up.foldl (fun t l => min t (s.link l).ready) ((s.link (up.headD 0)).ready))

/-- When some minimal path between two compute dies came to be open: none while each crosses a RECOVERING link. -/
def State.pathReady (s : State) : Nat → Nat → Nat → Option Nat
  | 0, _, _ => some 0
  | fuel + 1, a, b =>
    if a = b then some 0
    else
      let open_ := (dieHops a b).filterMap fun x => match s.pairReady a x, s.pathReady fuel x b with
        | some t, some u => some (max t u)
        | _, _ => none
      match open_ with
      | [] => none
      | t :: r => some (r.foldl min t)

/-- A class-0 packet is past its bound (R408, R409): counted from its injection, or from the end of the recovery that every minimal
path of it waited for. -/
def State.overdue (s : State) (p : Packet) : Bool :=
  let near := dieOf p.home == dieOf p.n
  let start := if near then some p.since else (s.pathReady 8 (dieOf p.home) (dieOf p.n)).map fun t => max t p.since
  p.tok.cls == 0 && !p.late && match start with
    | some t => (if near then 256 else 1024) < s.cycle - t
    | none => false

/-- The halting fault of a class-0 packet past its bound (R409). -/
def State.lateFault (s : State) (p : Packet) : State := if s.overdue p then s.raiseAt p.tok.tag.ctx p.n 0x0008 else s

/-- CLASS0_TIMEOUT (R409): a class-0 packet that is not delivered within its bound faults its context with LINK. -/
def execClass0Timeout (packet : Nat) (s : State) : Host.Outcome State Fault Refusal :=
  .next (match s.net.find? (·.id == packet) with
    | none => s
    | some p =>
      if s.overdue p then
        State.lateFault { s with net := updFirst (·.id == packet) (fun (p : Packet) => { p with late := true }) s.net } p
      else s)

/-- ACCEPT (R104, R113): a copy at its core's router arrives; it is accepted, spilled, disposed of, or redirected to its CONV slot
(R99). One of class 0 that comes past its bound has timed out (R409). -/
def execAccept (packet : Nat) (s : State) : Host.Outcome State Fault Refusal :=
  .next (match s.net.find? (·.id == packet) with
    | none => s
    | some p =>
      if p.router != p.n then s
      else
        let (s, conv) := ((s.lateFault p).dropPacket p).arrive p.n p.elem p.slot p.tok
        match conv with
        | some w =>
          let w := w.toNat
          if routeOk w then
            s.addPacket { p with tok := { p.tok with port := 0 }, n := coreNum (routeDie w) (routeCore w), elem := routeElem w,
                                 slot := routeSlot w, waits := false, lane := false, input := p.router }
          else s.slotFault p.n p.elem p.slot p.tok 0x000D
        | none => match p.src with
          | some (n, e, entry, dest) => s.modElem n e fun x => x.ack entry dest
          | none => s)

/-- CLASS0_PACING (R38): the element may inject a class-0 token again. -/
def execClass0Pacing (n elem : Nat) (s : State) : Host.Outcome State Fault Refusal :=
  .next (if s.paced (s.elem n elem) then s.modElem n elem fun e => { e with lastC0 := none } else s)

/-- EMIT_RESUME (R109): waiting Emits take the entries that have freed. -/
def execEmitResume (n elem : Nat) (s : State) : Host.Outcome State Fault Refusal :=
  .next (s.flushElem n elem)

/-- The oldest SPILLED token of an element. -/
def Elem.oldestSpilled (e : Elem) : Option Entry := leastBy (fun a b => a.seq < b.seq) (e.conc.filter (·.spilled))

/-- The element with the SPILLED tokens of one entry WAITING again: a token, or the elements of a block (R123). -/
def Elem.refilled (e : Elem) (x : Entry) : Elem :=
  let back := e.mates x
  { e with conc := e.conc.map fun y => if back.any (·.seq == y.seq) then { y with spilled := false } else y }

/-- REFILL (R105): when an entry has freed and the element is within quota, its oldest spilled token returns; matches it
completes form. -/
def execRefill (n elem : Nat) (s : State) : Host.Outcome State Fault Refusal :=
  .next (match (s.elem n elem).oldestSpilled with
    | none => s
    | some x =>
      let back := s.modElem n elem fun e => e.refilled x
      if !s.moves n elem || s.halted x.tok.tag.ctx || (s.elem n elem).quota < back.occupancy n elem ||
        !back.fits n elem (64 < x.tok.data.length) then s
      else (back.count x.tok.tag.ctx n elem 0x09 ((s.elem n elem).mates x).length).rematchSlot n elem x.slot)

/-- SPILLED_MATCH (R106): the matches of a slot, those with spilled entries too, in window order (R101); what is left of the
entries takes its place anew (R104). -/
def execSpilledMatch (n elem slot : Nat) (s : State) : Host.Outcome State Fault Refusal :=
  .next (
    if !s.moves n elem || (s.elem n elem).conc.any (fun x => x.slot == slot && s.halted x.tok.tag.ctx) then s
    else (s.formSlot n elem slot true).settleAll n elem true)

/-- FIRING_PROMOTION (R323): a ready firing of class 2 or 3 counts one class lower after 256 and after 512 cycles. -/
def execFiringPromotion (n elem firing : Nat) (s : State) : Host.Outcome State Fault Refusal :=
  .next (match (s.elem n elem).ready.find? (·.id == firing) with
    | none => s
    | some f =>
      if f.promo < 2 ∧ 256 * (f.promo + 1) ≤ s.cycle - f.ready ∧ 2 ≤ s.firingClass { f with promo := 0 } then
        s.modElem n elem fun e => { e with ready := updFirst (·.id == firing) (fun f => { f with promo := f.promo + 1 }) e.ready }
      else s)

/-! ### Blocked packets and the call slips (R404 to R406) -/

/-- The call slip of a ring: 0 to 7 the dies, 8 the package. -/
def State.slip (s : State) (ring : Nat) : Slip := Assoc.get {} s.slips ring

def State.setSlip (s : State) (ring : Nat) (x : Slip) : State := { s with slips := Assoc.set {} s.slips ring x }

/-- The dies in the order of the package ring (R405). -/
def dieRing : List Nat := [8, 0, 1, 2, 3, 9, 7, 6, 5, 4]

/-- The ring of a router: 0 to 159 are the core routers, 160 and up the edges of dies on the package ring. -/
def ringOf (router : Nat) : Nat := if router < 160 then dieOf router else 8

/-- Positions of a ring. -/
def ringSize (ring : Nat) : Nat := if ring = 8 then 10 else 20

/-- A router's position in its ring: a core's number, or the place of its die. -/
def ringPos (router : Nat) : Nat := if router < 160 then coreIn router else dieRing.findIdx (· == router - 160)

/-- BLOCKED_TIMER (R404): the packet at the head of an input of a router, of class 1 to 3, has made no progress for the limit. -/
def execBlockedTimer (router : Nat) (s : State) : Host.Outcome State Fault Refusal :=
  .next { s with net := updFirst (fun (p : Packet) => p.router == router && !p.lane && !p.waits && p.tok.cls != 0 &&
    (match p.headAt with | some t => s.plat.limit ≤ s.cycle - t | none => false)) (fun p => { p with waits := true, waitsAt := s.cycle }) s.net }

/-- A packet for which a router waits for its ring's slip, and since when (R405): a blocked one at a core's router; at a die's edge
one of the returns lane that is bound for another die. -/
def Packet.wantsSlip (p : Packet) : Bool :=
  if p.router < 160 then p.waits && !p.lane else p.lane && dieOf p.n != p.router - 160

/-- The cycle of the last pass of a slip at a position, less those that its watchdog ignores (R406). -/
def Slip.lastPass (x : Slip) (ring pos now : Nat) : Nat :=
  let z := ringSize ring
  let mark := match x.marks.find? (·.1 == pos) with | some m => m.2 | none => x.passed
  if x.held.isSome || x.gone then mark
  else
    let back := (x.pos + (now - x.since) + (z - pos % z)) % z
    if back ≤ now - x.since then now - back else mark

/-- The first cycle, from `t` on, in which a free slip passes a position. -/
def Slip.firstPass (x : Slip) (ring pos t : Nat) : Nat :=
  let z := ringSize ring
  let t := max t x.since
  t + (pos + (z - (x.pos + (t - x.since)) % z)) % z

/-- A slip with its passes up to a cycle noted. -/
def Slip.noted (x : Slip) (ring now : Nat) : Slip :=
  { x with marks := (List.range (ringSize ring)).map fun q => (q, x.lastPass ring q now) }

/-- The packet whose router captures a ring's slip next: the first that the slip passes (R405), and when. -/
def State.nextCapture (s : State) (ring : Nat) : Option (Packet × Nat) :=
  let x := s.slip ring
  if x.held.isSome || x.lost || x.gone then none
  else leastBy (fun a b => a.2 < b.2)
    ((s.net.filter fun p => ringOf p.router == ring && p.wantsSlip).map fun p => (p, x.firstPass ring (ringPos p.router) p.waitsAt))

/-- SLIP_CAPTURE (R405): a router whose packet waits captures its ring's free slip when it passes. On a die the packet moves into
the returns lane; at the die's edge a returns-lane packet bound for another die may go on. -/
def execSlipCapture (router : Nat) (s : State) : Host.Outcome State Fault Refusal :=
  .next (
    let ring := ringOf router
    match s.nextCapture ring with
    | none => s
    | some (p, t) =>
      if p.router != router || s.cycle < t then s
      else
        let x := (s.slip ring).noted ring t
        let s := s.setSlip ring { x with pos := ringPos router, since := t, held := some router, carry := p.id }
        if router < 160 then
          let s := s.dropPacket p
          let s := { s with net := s.net ++ [{ p with lane := true, waits := false, headAt := none }] }
          (List.range 90).foldl (fun s e => s.count p.tok.tag.ctx router e 0x0C 1) s
        else s)

/-- A packet is on the returns lane of a ring. -/
def Packet.onLane (p : Packet) (ring : Nat) : Bool := p.lane && ringOf p.router == ring

/-- SLIP_RELEASE (R405): once its packet has left the returns lane of the ring, the router releases the slip, which goes on to
the next. -/
def execSlipRelease (router : Nat) (s : State) : Host.Outcome State Fault Refusal :=
  .next (
    let ring := ringOf router
    let x := s.slip ring
    if x.held == some router && !s.net.any (fun p => p.id == x.carry && p.onLane ring) then
      s.setSlip ring { x with held := none, pos := (ringPos router + 1) % ringSize ring, since := s.cycle }
    else s)

/-- Contexts that a lost slip of a ring faults (R406). -/
def State.ringContexts (s : State) (ring : Nat) : List (BitVec 6) :=
  ((List.range 64).map (BitVec.ofNat 6)).filter fun c =>
    if ring = 8 then (s.ctx c).state != .free && (s.ctx c).state != .destroyed
    else s.cores.any fun p => p.2.owner == some c && dieOf p.1 == ring

/-- SLIP_WATCHDOG (R406): a slip that some router of its ring, or some die, has not seen pass for 65,536 cycles is lost and faults
contexts with LINK. -/
def execSlipWatchdog (ring : Nat) (s : State) : Host.Outcome State Fault Refusal :=
  .next (
    let x := s.slip ring
    if x.lost || !(List.range (ringSize ring)).any fun q => 65536 ≤ s.cycle - x.lastPass ring q s.cycle then s
    else
      let cs := s.ringContexts ring
      let s := s.setSlip ring { x with lost := true, held := none, lostBy := cs }
      cs.foldl (fun s c => s.raiseAt c (if ring = 8 then 0 else ring * 20) 0x0008) s)

/-- A slip no longer exists: its ring's watchdog will find it lost (R406). -/
def State.slipGone (s : State) (ring : Nat) : State :=
  let x := s.slip ring
  if 9 ≤ ring || x.lost || x.gone then s
  else s.setSlip ring { x.noted ring s.cycle with gone := true, held := none }

/-- SLIP_REISSUE (R406): a new slip, once the halt line of every context so faulted has risen. -/
def execSlipReissue (ring : Nat) (s : State) : Host.Outcome State Fault Refusal :=
  .next (
    let x := s.slip ring
    if x.lost && x.lostBy.all fun c => s.halted c || (s.ctx c).state != .running then
      s.setSlip ring { passed := s.cycle, since := s.cycle }
    else s)

end Sys2Proof.Machine
end

