-- ==== Sys2Proof/Machine/Platform.lean ====
section
/-! DEFINITION. Boot (R451, R452), the identity certificate (R453), reports (R455), links (R410 to R412), pod halt (R414), the
clock and heat (R456), and scrubbing (R458). -/

namespace Sys2Proof.Machine

/-! ### Notifications and faults of links (R411, R412) -/

/-- Contexts that are bound: they have a state in which they own anything. -/
def State.boundCtxs (s : State) : List (BitVec 6) :=
  ((List.range 64).map (BitVec.ofNat 6)).filter fun c =>
    let x := (s.ctx c).state
    x != .free && x != .binding && x != .destroyed

/-- A context has a core on a die. -/
def State.onDie (s : State) (c : BitVec 6) (d : Nat) : Bool := (s.partition c).any fun n => dieOf n == d

/-- The contexts that are told of a link: for a die link those with a core on either die, else every bound one. -/
def State.linkCtxs (s : State) (l : Nat) : List (BitVec 6) :=
  if l < 32 then s.boundCtxs.filter fun c => s.onDie c (l / 4) || s.onDie c (farDie (l / 4) (l % 4)) else s.boundCtxs

/-- The numbers of one physical module: a link between compute dies has one at each end, the k-th module of one die towards the
other being the k-th of the other towards it. -/
def linkTwins (l : Nat) : List Nat :=
  if 32 ≤ l then [l]
  else
    let a := l / 4
    let b := farDie a (l % 4)
    if 8 ≤ b then [l]
    else match (modulesOf a b).findIdx? (· == l) with
      | some k => match (modulesOf b a)[k]? with
        | some m => [l, m]
        | none => [l]
      | none => [l]

/-- The entry of TYPE 0x0004 (R412), issued from core 0 of the compute die at the link's numbered end, or of die 0 (R460). -/
def State.linkNote (s : State) (l : Nat) (old new : LState) : State :=
  let k := s.link l
  let body := leBytes 1 l ++ leBytes 1 old.code ++ leBytes 1 new.code ++ [0] ++ leBytes 4 (min k.replays (2 ^ 32 - 1)) ++ leBytes 8 k.far
  let n := coreNum (if l < 32 then l / 4 else 0) 0
  (s.linkCtxs l).foldl (fun s c => s.notify c n 4 0 body) s

/-- The collectives of a kind that have not all their ranks take EXPIRE (R335, R341), under the halt line too. -/
def State.expireWhere (s : State) (p : Bar → Bool) : State :=
  (s.bars.filter fun b => b.id.coll && b.expires && p b).foldl (fun s b => s.expireBar b.id) s

/-- A collective at POD scope of a context of a pod job. -/
def State.podBar (s : State) (b : Bar) : Bool := b.id.scope == 4 && (s.ctx (BitVec.ofNat 6 b.id.ctx)).pod

/-- A Strand port of another member of the context's pod job has failed: its collectives at POD scope take EXPIRE (R341). -/
def State.farFailed (s : State) (c : BitVec 6) : State := s.expireWhere fun b => b.id.ctx == c.toNat && s.podBar b

/-- The remote accesses of a copy's unit in progress that are not performed fail with cause 0x0C (R411). -/
def Op.failRemote (o : Op) : Op :=
  if o.kind != .xfer || o.st != .active || o.vals.isEmpty || unitsOf o ≤ o.book then o
  else (unitPieces o).zipIdx.foldl (fun o (p, i) =>
    if o.mask.contains i || o.bad.contains i then o
    else match (if (o.got i).isSome then p.dst else p.src.orElse fun _ => p.dst) with
      | some d => if d.remote then { (o.failing i 0x0C (errAddr d.spm d.va)) with bad := insertNat i o.bad } else o
      | none => o) o

/-- The accesses at ranks of other packages that a collective's granule in progress still has to make fail with cause 0x0C (R411). -/
def Op.failRanks (o : Op) (b : Bar) : Op :=
  let d := leNat o.desc
  let tasks := (collReads o).map (fun t => (t.1, t.2, false)) ++ (collWrites o).map fun t => (t.2.1, t.2.2, true)
  tasks.zipIdx.foldl (fun o ((r, j, dst), k) =>
    if o.mask.contains k || o.bad.contains k || !b.running.any (fun c => c.rank == r && c.op == 0) then o
    else { (o.failing (collIdx r j) 0x0C (errAddr (bitOf d 52) (collAddr o d dst j))) with bad := insertNat k o.bad }) o

/-- Remote accesses in flight fail (R411). -/
def State.failRemote (s : State) : State :=
  { s with ops := s.ops.map fun o => match o.kind with
      | .coll => match s.ledBy o with
        | some b => if o.st == .active && !(o.mask.isEmpty && o.bad.isEmpty) then o.failRanks b else o
        | none => o
      | _ => o.failRemote }

/-- The effects of a link that goes FAILED (R411). -/
def State.linkFailed (s : State) (l : Nat) : State :=
  if l < 32 then
    let a := l / 4
    let b := farDie a (l % 4)
    if (modulesOf a b).any fun m => (s.link m).state.works then s
    else
      let on (n : Nat) : Bool := dieOf n == a || dieOf n == b
      let s := s.expireWhere fun b => s.participant b on
      (s.linkCtxs l).foldl (fun s c => s.raiseAt c ((s.partition c).find? on |>.getD 0) 0x0008) s
  else if l < 48 then
    let s := (s.expireWhere s.podBar).failRemote
    (s.boundCtxs.filter fun c => (s.ctx c).pod).foldl (fun s c => s.raiseAt c (s.masterCore c) 0x0008) s
  else s

/-- A transition of a link (R410), applied to both numbers of its module; entered states that R412 names are notified, and so
are returns from them. The far end is known while training has found one (R415). -/
def State.linkTo (s : State) (l : Nat) (new : LState) (f : Link → Link) : State :=
  let old := (s.link l).state
  let named (x : LState) : Bool := x == .degraded || x == .recovering || x == .failed
  let s := (linkTwins l).foldl (fun s m => s.modLink m fun k =>
    { f k with state := new, far := if new.works then linkFar m else if new = .down then 0 else k.far,
               recent := if new = old then k.recent else [] }) s
  let s := if old != new && (named new || named old) then s.linkNote l old new else s
  if new = .failed ∧ old ≠ .failed then s.linkFailed l else s

/-- A link number exists (R402). -/
def linkOk (l : BitVec 6) : Bool := l.toNat < 50

/-- TRAINOK (R410). -/
def execTrainok (link : BitVec 6) (s : State) : Host.Outcome State Fault Refusal :=
  .next (if !linkOk link then s else match (s.link link.toNat).state with
    | .training | .recovering => s.linkTo link.toNat .up fun k => { k with half := false, ready := s.cycle }
    | _ => s)

/-- TRAINHALF (R410). -/
def execTrainhalf (link : BitVec 6) (s : State) : Host.Outcome State Fault Refusal :=
  .next (if !linkOk link then s else match (s.link link.toNat).state with
    | .training | .recovering => s.linkTo link.toNat .degraded fun k => { k with half := true, ready := s.cycle }
    | _ => s)

/-- TRAINFAIL (R410): another attempt, or FAILED after the third. -/
def execTrainfail (link : BitVec 6) (s : State) : Host.Outcome State Fault Refusal :=
  .next (if !linkOk link then s else
    let k := s.link link.toNat
    match k.state with
    | .training | .recovering =>
      if 3 ≤ k.attempts then s.linkTo link.toNat .failed fun k => { k with ready := s.cycle }
      else s.linkTo link.toNat k.state fun k => { k with attempts := k.attempts + 1 }
    | _ => s)

/-- LANELOSS (R410). -/
def execLaneloss (link : BitVec 6) (s : State) : Host.Outcome State Fault Refusal :=
  .next (if !linkOk link then s else match (s.link link.toNat).state with
    | .up => s.linkTo link.toNat .degraded fun k => { k with half := true }
    | .degraded => s.linkTo link.toNat .recovering fun k => { k with attempts := 1 }
    | _ => s)

/-- Cycles of 1 ms at most: the clock's ceiling in MHz gives 1,000 times as many (R410, R452). -/
def Platform.msCycles (p : Platform) : Nat := 1000 * p.ceiling * p.clock / 16

/-- More than 64 replays within 1 ms (R410). -/
def State.bursts (s : State) (k : Link) : Bool := 64 < (k.recent.filter fun t => s.cycle - t ≤ s.plat.msCycles).length

/-- ERRBURST (R410): more than 64 replays within 1 ms, or one flit that fails 8 replays in succession, which the replays
counted do not tell from those of several flits. -/
def execErrburst (link : BitVec 6) (s : State) : Host.Outcome State Fault Refusal :=
  .next (if !linkOk link then s else
    let k := s.link link.toNat
    match k.state with
    | .up | .degraded => if s.bursts k || 8 ≤ k.recent.length then s.linkTo link.toNat .recovering fun k => { k with attempts := 1 } else s
    | _ => s)

/-- ABSENT (R410): the link is DOWN until the next boot. -/
def execAbsent (link : BitVec 6) (s : State) : Host.Outcome State Fault Refusal :=
  .next (if !linkOk link then s else match (s.link link.toNat).state with
    | .training => s.linkTo link.toNat .down id
    | _ => s)

/-- A flit is replayed (R410): counted since boot; with more than 64 within 1 ms ERRBURST follows. -/
def execFlitReplay (link : BitVec 6) (s : State) : Host.Outcome State Fault Refusal :=
  .next (if !linkOk link then s else
    let k := s.link link.toNat
    let t := (linkTwins link.toNat).foldl (fun s m => s.modLink m fun k =>
      { k with replays := min (k.replays + 1) (2 ^ 32 - 1), recent := (s.cycle :: k.recent).take 65 }) s
    match k.state with
    | .down | .failed => s
    | .up | .degraded => if t.bursts (t.link link.toNat) then t.linkTo link.toNat .recovering fun k => { k with attempts := 1 } else t
    | _ => t)

/-! ### Boot (R451) -/

/-- Links DOWN go TRAINING, attempt 1 (R410). -/
def State.train (s : State) (ls : List Nat) : State :=
  ls.foldl (fun s l => s.modLink l fun k => if k.state = .down then { k with state := .training, attempts := 1 } else k) s

/-- Bytes of a range of memory back to what an unlisted address reads as. -/
def State.clearRange (s : State) (k len : Nat) : State :=
  { s with mem := s.mem.filter (fun c => c.1 < k || k + len ≤ c.1), pend := s.pend.filter fun w => !w.overlaps k len }

/-- The boot status word in the report area (R451, R455). -/
def State.bootWord (s : State) (w : Nat) : State :=
  let s : State := { s with plat := { s.plat with boot := BitVec.ofNat 16 w } }
  { s with mem := Memory.write s.mem (s.plat.report + 2) (leBytes 2 w) }

/-- A stage fails: no bindery runs. -/
def State.bootFail (s : State) (stage : Nat) : State :=
  let s : State := { s with plat := { s.plat with failed := true } }
  if s.tether then s.bootWord (stage * 256 + 255) else s

/-- The configuration blob is in bounds (R452, R404, log 10). -/
def Platform.blobOk (p : Platform) : Bool :=
  1000 ≤ p.power && p.power ≤ 4200 && p.ceiling ≤ 1300 && 1024 ≤ p.limit && p.limit ≤ 65536 && p.limit % 256 == 0 &&
  p.report % 65536 == 0 && p.report + 65536 ≤ hbmEnd

/-- The blob that stage 2 reads takes effect (R452). -/
def Platform.load (p : Platform) (b : Blob) : Platform :=
  { p with epoch := b.epoch, defects := b.defects, limit := b.limit, routes := b.routes, power := b.power, ceiling := b.ceiling, ident := b.ident,
           report := b.report, cfgh := b.hash }

/-- Stage 5 (R453): a first boot creates the identity key, wraps it and places a certificate request in the report area, at byte 328 (log
10); a later one unwraps the key that flash holds. -/
def State.identityKey (s : State) : Option State :=
  match Config.flash.wrapped with
  | none =>
    let q := (Config.certRequest Config.newKey).take 184
    some { s with plat := { s.plat with wrapped := Config.newKey, keyed := true, pending := true },
                  mem := Memory.write s.mem (s.plat.report + 328) q }
  | some k => if Config.stageOk 5 then some { s with plat := { s.plat with wrapped := k, keyed := true, cert := Config.flash.cert } } else none

/-- The package is up (R451): CYCLE starts at 0, and with it what counts cycles. -/
def State.goUp (s : State) : State :=
  { s with cycle := 0, plat := { s.plat with up := true },
           links := s.links.foldl (fun m (l, k) => Assoc.set {} m l { k with ready := 0, recent := [] }) s.links }

/-- BOOT (R451): the next stage runs. Stage 3 ends when Tether's training has ended; it succeeds where a port works. Stage 6 ends when
that of the die and Strand links has; whether it succeeds then is left open (log 10). -/
def execBoot (s : State) : Host.Outcome State Fault Refusal :=
  .next (
    let p := s.plat
    let stage (k : Nat) (s : State) : State := { s with plat := { s.plat with stage := k } }
    if p.failed then s
    else match p.stage with
      | 0 => if Config.stageOk 1 then stage 1 s else s.bootFail 1
      | 1 =>
        let q := p.load Config.blob
        if Config.stageOk 2 && q.blobOk then stage 2 { s with plat := q } else s.bootFail 2
      | 2 => stage 3 ((s.train [48, 49]).clearRange p.report 65536)
      | 3 =>
        if (s.link 48).state == .training || (s.link 49).state == .training then s
        else if !s.tether then s.bootFail 3
        else if Config.stageOk 4 then stage 4 { s with plat := { p with fwh := Config.firmwareHash } } else s.bootFail 4
      | 4 =>
        match s.identityKey with
        | some s => stage 5 s
        | none => s.bootFail 5
      | 5 => stage 6 (s.train (List.range 48))
      | _ =>
        if p.up || (List.range 48).any (fun l => (s.link l).state == .training) then s
        else if Config.stageOk 6 then s.goUp.bootWord 0x0601 else s.bootFail 6)

/-- IDENTITY_CERTIFICATE (R453): the certificate that comes back for a pending request is stored. -/
def execIdentityCertificate (cert : List Byte) (s : State) : Host.Outcome State Fault Refusal :=
  .next (if s.plat.pending && s.tether then { s with plat := { s.plat with cert := cert, pending := false } } else s)

/-! ### Reports (R455) -/

/-- Overlay bytes on bytes from an offset on. -/
def putBytes (b : List Byte) (off : Nat) (x : List Byte) : List Byte := b.take off ++ x ++ b.drop (off + x.length)

/-- Exactly `k` bytes, zero beyond those given. -/
def bytesTo (k : Nat) (b : List Byte) : List Byte := (b ++ List.replicate k 0).take k

/-- The report area with its fields written, but for REQ, FLAGS and BOOT. -/
def Platform.reportBytes (p : Platform) (area : List Byte) : List Byte :=
  let b := putBytes area 64 (bytesTo 48 p.fwh)
  let b := putBytes b 112 (bytesTo 48 p.cfgh)
  let b := putBytes b 160 (bytesTo 48 p.measure)
  let b := putBytes b 208 (leBytes 4 p.measured)
  let b := putBytes b 216 (bytesTo 16 p.ident)
  let sig := bytesTo 96 (Config.signature (sha384 ((b.drop 8).take 224)))
  let b := putBytes b 232 sig
  putBytes b 512 p.log.flatten

/-- The security controller still serves a request: its record is under way, or the controller does not see it yet. -/
def State.serves (s : State) : Bool := match s.plat.serving with
  | some id => (s.findOp id).isSome || s.pend.any fun w => w.of id && !w.seenBy (.core 0) 6
  | none => false

/-- REPORT_REQUEST (R455): where REQ reads 1 on P6, and no request is being served, the fields and the signature are written, then
REQ becomes 2; without an identity key (before stage 5, or where it failed), 3. The nonce is the one that is visible with REQ. -/
def execReportRequest (s : State) : Host.Outcome State Fault Refusal :=
  .next (
    let p := s.plat
    if p.stage < 3 || !s.tether || s.serves then s
    else
      let len := 512 + 48 * p.log.length
      let (area, s) := s.rd (.core 0) 6 p.report len
      if area.getD 0 0 != 1 then s
      else
        let head (r : Nat) : List Byte := leBytes 1 r ++ leBytes 1 (ofBool p.logFull) ++ leBytes 2 p.boot.toNat ++ List.replicate 4 0
        let s : State := { s with plat := { p with serving := some s.fresh } }
        if p.keyed then s.record 0 0 false p.report (head 2 ++ (p.reportBytes area).drop 8) false 64
        else s.record 0 0 false p.report (head 3) false)

/-! ### Pod halt, clock, heat, scrubbing -/

/-- POD_HALT (R414): a member's halt line rises as an accepted HALT. -/
def execPodHalt (ctx : BitVec 6) (s : State) : Host.Outcome State Fault Refusal :=
  .next (if s.strand && (s.ctx ctx).pod && (s.ctx ctx).state == .running then s.raiseLine ctx { op := .halt } else s)

/-- Another step of 1/16 of the ceiling would stay at 325 MHz or above. -/
def Platform.mayStep (p : Platform) : Bool := 325 * 16 ≤ (p.clock - 1) * p.ceiling

/-- CLOCK_STEP_DOWN (R456). -/
def execClockStepDown (s : State) : Host.Outcome State Fault Refusal :=
  .next (if s.plat.mayStep then { s with plat := { s.plat with clock := s.plat.clock - 1 } } else s)

/-- CLOCK_STEP_UP (R456): not while the clock is held. -/
def execClockStepUp (s : State) : Host.Outcome State Fault Refusal :=
  .next (if !s.plat.held && s.plat.clock < 16 then { s with plat := { s.plat with clock := s.plat.clock + 1 } } else s)

/-- CRITICAL_TEMPERATURE (R456): at the least clock, every RUNNING context receives an accepted HALT. -/
def execCriticalTemperature (s : State) : Host.Outcome State Fault Refusal :=
  .next (
    if s.plat.mayStep then s
    else
      let cs := ((List.range 64).map (BitVec.ofNat 6)).filter fun c => (s.ctx c).state == .running
      let s := cs.foldl (fun s c => s.raiseLine c { op := .halt }) s
      { s with plat := { s.plat with held := true } })

/-- SCRUB (R458): a corrected line keeps its value; an uncorrectable one is poisoned (R384). -/
def execScrub (line : Nat) (bad : Bool) (s : State) : Host.Outcome State Fault Refusal :=
  .next (
    let inMem : Bool := line * 64 < hbmEnd || (2 ^ 64 ≤ line * 64 && line * 64 < spmKey 160 0)
    if bad && inMem then { s with poison := insertNat line s.poison } else s)

end Sys2Proof.Machine
end

