-- ==== Sys2Proof/Machine/Choice.lean ====
section
/-! DEFINITION. What the machine may do next: the events that its state makes possible, of which a step takes one (log 4), the
passing of time, and where an instruction is put so that the next step runs
it. -/

namespace Sys2Proof.Machine

/-! ### Possible events -/

/-- What the package does next of itself: its own copies of the events of `Instr` (the compiler cannot build the late
constructors of so large a type), and `ev` for the rest. -/
inductive Auto where
  | ev (e : Event)
  | op (c : BitVec 6) (o : COp)
  | inject (n elem entry dest : Nat)
  | emitResume (n elem : Nat)
  | refill (n elem : Nat)
  | spilledMatch (n elem slot : Nat)
  | class0Pacing (n elem : Nat)
  | firingPromotion (n elem firing : Nat)
  | traceSample (n elem : Nat)
  | memoryResponse (op elem : Nat)
  | stalledWriteRetry (op elem : Nat)
  | transferUnit (op : Nat)
  | blockPass (op : Nat)
  | deferredRead (op : Nat)
  | watchdog (op : Nat)
  | activationStart (inst : InstId)
  | steal (inst : InstId)
  | replicaEvaluation (serial kernel : Nat)
  | bound (ctx : BitVec 6)
  | stopped (ctx : BitVec 6)
  | haltLine (n elem : Nat)
  | stopRecord (n elem : Nat)
  | saveend (ctx : BitVec 6)
  | savestop (ctx : BitVec 6)
  | restoreend (ctx : BitVec 6)
  | restorefail (ctx : BitVec 6)
  | reclaimed (ctx : BitVec 6)
  | launchRecord (die : Nat)
  | dumpend (die : Nat)
  | commandAppliedReport (bindery n : Nat)
  | accept (packet : Nat)
  | blockedTimer (router : Nat)
  | class0Timeout (packet : Nat)
  | publish (commit : Nat)
  | endMark (mark : Nat)
  | arrive (arrival : Nat)
  | ticketReturn (arrival : Nat)
  | delivered (bar : BarId)
  | expire (bar : BarId)
  | collectiveEnd (bar : BarId)
  | faultToken (tok : Nat)
  | startPacket (n elem : Nat)
  | stopPacket (n elem : Nat)
  | slipCapture (router : Nat)
  | slipRelease (router : Nat)
  | slipWatchdog (ring : Nat)
  | slipReissue (ring : Nat)
  | reportRequest
  | boot
  deriving DecidableEq, Repr

/-- Events of an element. -/
def State.elemEvents (s : State) (n e : Nat) : List Auto :=
  let x := s.elem n e
  let slots := (x.conc.map (·.slot)).eraseDups
  (if x.ready.isEmpty then [] else [Auto.ev (.fire n e)]) ++
  (x.out.flatMap fun o => (o.dests.filter fun d => !o.sent.contains d.1).map fun d => .inject n e o.id d.1) ++
  (if x.emitq.isEmpty then [] else [.emitResume n e]) ++
  (if x.conc.any (·.spilled) then .refill n e :: slots.map fun k => .spilledMatch n e k else []) ++
  (if x.lastC0.isSome then [.class0Pacing n e] else []) ++
  (x.ready.map fun f => .firingPromotion n e f.id) ++
  (if x.traced.isEmpty then [] else [.traceSample n e])

/-- Accesses of the current unit of an operation. -/
def State.tasksOf (_ : State) (o : Op) : Nat :=
  match o.kind with
  | .mem | .remote => o.accs.length
  | .select => selTasks o
  | .coll => (collReads o).length + (collWrites o).length
  | .xfer => if unitsOf o ≤ o.book then 0 else (unitPieces o).length
  | .matrix => if o.opc = 0x10A then 32 else 64 * (quadCores o.instr o.fir.n).length
  | _ => 1

/-- Events of an operation. -/
def State.opEvents (s : State) (o : Op) : List Auto :=
  let ks := List.range (s.tasksOf o)
  (ks.map fun k => .memoryResponse o.id k) ++ (ks.map fun k => .stalledWriteRetry o.id k) ++ (ks.map fun k => .ev (.translate o.id k)) ++
  [.transferUnit o.id, .blockPass o.id, .deferredRead o.id, .watchdog o.id]

/-- Events of a group. -/
def State.groupEvents (g : Group) : List Auto :=
  let id (i : KInst) : InstId := { serial := g.serial, kernel := i.kernel, replica := i.replica }
  (g.insts.map fun i => .activationStart (id i)) ++ (g.insts.map fun i => .steal (id i)) ++
  (List.range g.kernels.length).map fun k => .replicaEvaluation g.serial k

/-- Events of a context. -/
def State.ctxEvents (s : State) (c : BitVec 6) : List Auto :=
  let x := s.ctx c
  let at_ : List (Nat × Nat) := if x.halt.isNone then [] else (s.partition c).flatMap fun n => (List.range 90).map fun e => (n, e)
  (match x.holding, x.queue with | none, o :: _ => [.op c o.op] | _, _ => []) ++
  (match x.state with
    | .binding => [.bound c]
    | .halting => .stopped c :: ((at_.map fun p => .haltLine p.1 p.2) ++ at_.map fun p => .stopRecord p.1 p.2)
    | .saving => [.saveend c, .savestop c]
    | .restoring => [.restoreend c, .restorefail c]
    | .destroyed => [.reclaimed c]
    | _ => [])

/-- Events of a bindery. -/
def State.bindEvents (s : State) (b : Nat) : List Auto :=
  let x := s.bind b
  (if x.stream.isEmpty then [] else [.ev (.send b)]) ++ (if x.launches.isEmpty then [] else [.launchRecord b]) ++
  (if x.dumps.isEmpty then [] else [.dumpend b]) ++
  s.feeds.flatMap fun (k, x) =>
    if k / 160 ≠ b then []
    else (x.flight.map fun y => .ev (.command b (k % 160) y.1)) ++ [.ev (.word b (k % 160)), .commandAppliedReport b (k % 160)]

/-- Moves of a pending write. -/
def Write.events (w : Write) : List Auto :=
  ((List.range 7).filterMap fun p => if w.levels.getD p 0 < 4 then some (.ev (.visible w.id p (w.levels.getD p 0 + 1))) else none) ++
  (List.range 7).flatMap fun p => [.ev (.visible w.id p 5), .ev (.visible w.id p 6)]

/-- What the machine may do next of itself; an event that finds nothing to do has no effect. -/
def State.possible (s : State) : List Auto :=
  (s.elems.flatMap fun p => s.elemEvents (p.1 / 128) (p.1 % 128)) ++
  (s.net.flatMap fun p => [.accept p.id, .blockedTimer p.router, .class0Timeout p.id] ++ (s.nexts p).map fun r => .ev (.hop p.id r)) ++
  s.ops.flatMap s.opEvents ++ s.groups.flatMap State.groupEvents ++
  (s.ctxs.flatMap fun p => s.ctxEvents (BitVec.ofNat 6 p.1)) ++
  ((List.range 8).flatMap s.bindEvents) ++ s.pend.flatMap Write.events ++
  (s.commits.map fun k => .publish k.id) ++ (s.marks.map fun k => .endMark k.id) ++
  (s.arrivals.flatMap fun a => [.arrive a.id, .ticketReturn a.id]) ++
  (s.bars.flatMap fun b => [.delivered b.id, .expire b.id, .collectiveEnd b.id]) ++
  (s.faults.map fun t => .faultToken t.id) ++
  (s.counts.flatMap fun r => (r.starts.map fun k => .startPacket (k / 128) (k % 128)) ++
    r.stops.map fun k => .stopPacket (k / 128) (k % 128)) ++
  (if s.net.any (fun p => p.waits || p.lane) || !s.slips.isEmpty then
    ((List.range 170).flatMap fun r => [.slipCapture r, .slipRelease r]) ++
    (List.range 9).flatMap fun r => [.slipWatchdog r, .slipReissue r] else []) ++
  (if 3 ≤ s.plat.stage then [.reportRequest] else []) ++
  (if !s.plat.up && !s.plat.failed then [.boot] else []) ++ [.ev (.tick 1)]

/-! ### Time -/

/-- `k` cycles pass: elements count them (R443); a package slip's watchdog ignores cycles in which a die link is RECOVERING
(R406). -/
def State.tick (s : State) (k : Nat) : State :=
  let s := s.countAll k
  let wait := (List.range 32).any fun l => (s.link l).state == .recovering
  let s := if wait then { s with slips := s.slips.foldl (fun m (r, x) =>
    Assoc.set {} m r { x with passed := x.passed + k, marks := x.marks.map fun p => (p.1, p.2 + k) }) s.slips } else s
  { s with cycle := s.cycle + k }

/-- One move of a write towards visibility, and what it certifies. -/
def State.visibleMove (s : State) (w path level : Nat) : State :=
  match s.pend.find? (·.id == w) with
  | some x => if s.mayAdvance x path level then ((s.advance w path level).settleOps).settleGroups else s
  | none => s

/-! ### Placing an instruction for the next step -/

/-- The first element of a type. -/
def firstElem : ElemType → Nat
  | .pe => 0 | .sfe => 64 | .mae => 72 | .rbe => 80 | .mxa => 84 | .cpe => 85 | .qpe => 87 | .bre => 89

/-- The element at which a node record runs. -/
def homeElem (iw lw : Nat) : Nat :=
  match rowOf (field iw 63 55), fieldsOf iw ((destsOf lw).getD []) with
  | some r, some n => firstElem (elemTypeOf r n)
  | _, _ => 0

/-- A matched set of zero tokens, one per port. -/
def zeroFiring (n elem slot id : Nat) (tag : Tag) : Firing :=
  { id := id, n := n, elem := elem, slot := slot, tag := tag,
    inputs := (List.range 4).map fun p => { tag := tag, port := BitVec.ofNat 2 p, data := List.replicate 8 0 } }

/-- A node record in slot 0 of an element of core 0, with a matched set ready there, in context 0 (RUNNING, SUP). -/
def State.withNode (s : State) (iw lw : Nat) : State :=
  let e := homeElem iw lw
  let tag : Tag := {}
  let slot : Slot := { iw := BitVec.ofNat 64 iw, lw := BitVec.ofNat 64 lw }
  let el : Elem := { slots := [(0, slot)], ready := [zeroFiring 0 e 0 s.fresh tag] }
  let fr : Frame := { owner := { serial := 0, kernel := 0, replica := 0 }, kidx := 0, size := 512, insts := [{ num := 0, space := 0, parent := none, window := 1 }] }
  let s := s.setElem 0 e el
  let s := s.modCore 0 fun c => { c with owner := some 0, fsize := 512, fcount := 4, frames := [(0, some fr)] }
  let s := s.modCtx 0 fun c => { c with state := .running, sup := true, halt := none }
  { s with fresh := s.fresh + 1, agenda := [.fire 0 e] }

/-- A command word that die 0's bindery has sent to core 0 and that is due there. -/
def State.withWord (s : State) (w : Nat) : State :=
  let s := s.modFeed 0 0 fun x => { x with flight := [(x.due, BitVec.ofNat 32 w, true)], next := x.due + 1 }
  { s with agenda := [.word 0 0] }

end Sys2Proof.Machine
end

