-- ==== Sys2Proof/Machine/Convert.lean ====
section
/-! DEFINITION. The conversions and packings (R142 to R149). -/

namespace Sys2Proof.Machine

/-- CVT (R142). -/
def execCvt (n : Node) (s : State) : Host.Outcome State Fault Refusal := firePure 0x0A0 n s fun x _ => x.convert

/-- CVTI (R143): source width MOD[2:1], unsigned source MOD[0], IMM[0] saturates. -/
def execCvti (n : Node) (s : State) : Host.Outcome State Fault Refusal := firePure 0x0A1 n s fun x _ =>
  let sw := 8 * 2 ^ field (md n) 2 1
  let w := intWidth n
  x.plainMap .I (w / 8) 0 fun k =>
    let v := readInt sw (bitOf (md n) 0) ((x.port 0).elem (sw / 8) 0 k)
    if bitOf (im n) 0 then let r := satInt w (isUns n) v; (ofInt w r.1, r.2) else (ofInt w v, 0)

/-- CVTF (R144): IMM[7:0] signed fraction bits; MOD[0] to fixed point. -/
def execCvtf (n : Node) (s : State) : Host.Outcome State Fault Refusal := firePure 0x0A2 n s fun x _ =>
  let w := intWidth n
  let f := toSigned 8 (im n)
  if bitOf (md n) 0 then
    x.plainMap .I (w / 8) 0 fun k =>
      toIntP w (isUns n) x.cap.rm (x.drawAt x.f.tag k 0 0)
        (mulP (opnd n.fmt ((x.port 0).elem n.fmt.size 0 k)) (.num false 1 f false, 0))
  else
    x.plainMap n.fmt n.fmt.size 0 fun k =>
      roundP n.fmt x.cap.rm (x.drawAt x.f.tag k 0 0)
        (mulP (.int (readInt w (isUns n) ((x.port 0).elem (w / 8) 0 k)), 0) (.num false 1 (-f) false, 0))

/-- GPACK (R145): the block's values, the missing ones +0; ITER b / 64. -/
def execGpack (n : Node) (s : State) : Host.Outcome State Fault Refusal := firePure 0x0A3 n s fun x _ =>
  let xs := (gathered x.f.inputs).map fun (t, k) => valueOf t.fmt (t.elem t.fmt.size 0 k)
  let tag := x.f.tag.atIter (BitVec.ofNat 16 (x.f.part / 64))
  let draw (i : Nat) : Nat := draw64 x.cap.key.toNat tag.bits x.f.img.nodeid.toNat i 0 3 0 0 >>> 32
  let r := gPack (field (md n) 1 0) x.cap.rm draw (xs ++ List.replicate (64 - xs.length) .zero)
  (out0 { x.tok .G 1 0 r.1 with tag := tag }, r.2)

/-- GUNPK (R146): two tokens of 32 values for each gathering, error tokens for an error gathering (R75). -/
def execGunpk (n : Node) (s : State) : Host.Outcome State Fault Refusal := firePure 0x0A4 n s fun x _ =>
  let v := field (md n) 1 0
  let t := x.port 0
  let one (j h : Nat) : Out × Nat :=
    let bytes := (t.data.drop (j * gSize v)).take (gSize v)
    let tag := x.f.tag.atIter (BitVec.ofNat 16 (64 * (x.f.tag.iter.toNat + j) + 32 * h))
    let eos := x.eos && j + 1 == x.f.len && h == 1
    if gExp bytes = 255 then ({ out := 0, tok := { x.errTok 0x08 0 with tag := tag, eos := eos, span := 31 } }, 0)
    else
      let rs := (List.range 32).map fun i => roundX n.fmt x.cap.rm (x.drawAt tag i 0 0) (gElem v bytes (32 * h + i))
      ({ out := 0, tok := { x.tok n.fmt 32 0 (elems n.fmt.size (rs.map (·.1))) with tag := tag, eos := eos } },
        rs.foldl (fun a r => a ||| r.2) 0)
  let all := (List.range x.f.len).flatMap fun j => [one j 0, one j 1]
  (all.map (·.1), all.foldl (fun a r => a ||| r.2) 0)

/-- The five digits of a ternary byte by the steps of R147. -/
def ternDigits (b : Nat) : List Int :=
  [65536, 21846, 7282, 2428, 810].map fun k =>
    let q := (b * k) >>> 16
    ((q - 3 * ((q * 21846) >>> 16) : Nat) : Int) - 1

/-- UNP3 (R147). -/
def execUnp3 (n : Node) (s : State) : Host.Outcome State Fault Refusal := firePure 0x0A5 n s fun x _ =>
  ((List.range x.f.len).map fun j =>
    let b := (x.port 0).elem 1 0 j
    let tag := x.f.tag.atIter (BitVec.ofNat 16 (5 * (x.f.tag.iter.toNat + j)))
    let eos := x.eos && j + 1 == x.f.len
    if 243 ≤ b then { out := 0, tok := { x.errTok 0x09 0 with tag := tag, eos := eos, span := 4 } }
    else { out := 0, tok := { x.tok .I 5 0 (elems 1 ((ternDigits b).map (ofInt 8))) with tag := tag, eos := eos } }, 0)

/-- NPACK (R148). -/
def execNpack (n : Node) (s : State) : Host.Outcome State Fault Refusal := firePure 0x0A6 n s fun x _ =>
  if x.f.tag.iter.toNat % 8 != 0 || x.f.len % 8 != 0 then ([], flag clsFMT 0)
  else
    let w := intWidth n
    let cs := (List.range x.f.len).map fun k => clampInt 4 (isUns n) (readInt w (isUns n) (x.arg 0 k))
    let word (m : Nat) : Nat := (List.range 8).foldl (fun a i => a + ofInt 4 (cs.getD (8 * m + i) (0, false)).1 * 2 ^ (4 * i)) 0
    let t := x.tok .I (x.f.len / 8) 0 (elems 4 ((List.range (x.f.len / 8)).map word))
    (out0 { t with tag := x.f.tag.atIter (BitVec.ofNat 16 (x.f.tag.iter.toNat / 8)) },
      if cs.any (·.2) then flag clsOF 0 else 0)

/-- NUNPK (R148); RUN is at most 3, and a longer run, which no accepted folio sends (R214), takes NPACK's FMT outcome
(log 15). -/
def execNunpk (n : Node) (s : State) : Host.Outcome State Fault Refusal := firePure 0x0A7 n s fun x _ =>
  if 4 < x.f.len then ([], flag clsFMT 0)
  else
    let w := intWidth n
    let v (k : Nat) : Nat :=
      ofInt w (readInt 4 (isUns n) (field ((x.port 0).elem 4 0 (k / 8)) (4 * (k % 8) + 3) (4 * (k % 8))))
    let t := x.tok .I (8 * x.f.len) 0 (elems (w / 8) ((List.range (8 * x.f.len)).map v))
    (out0 { t with tag := x.f.tag.atIter (BitVec.ofNat 16 (x.f.tag.iter.toNat * 8)) }, 0)

/-- MOVB (R149). -/
def execMovb (n : Node) (s : State) : Host.Outcome State Fault Refusal := firePure 0x0A8 n s fun x _ =>
  let d := (x.port 0).data
  let w := nodeSize n
  if d.length % w = 0 ∧ 0 < d.length ∧ d.length / w ≤ 32 then (out0 (x.tok n.fmt (d.length / w) 0 d), 0)
  else ([], flag clsFMT 0)

end Sys2Proof.Machine
end

