-- ==== Sys2Proof/Machine/Jet.lean ====
section
/-! DEFINITION. The jet instructions (R179 to R193). -/

namespace Sys2Proof.Machine

/-- Order of port 0's jet as the instruction reads it: 0 where K is 0 (R170, R181). -/
def Fire.jetIn (x : Fire) : Nat := if x.capK = 0 then 0 else (x.port 0).jet.toNat

/-- Coefficients 0 to `k` of port 0's element. -/
def Fire.jet0 (x : Fire) (e k : Nat) : List Nat := (x.port 0).coefs x.n.fmt.size k e

/-- The value of port 1 for an element: c_0 of its token, or the immediate. -/
def Fire.val1 (x : Fire) (e : Nat) : Nat := x.arg 1 e

/-- An output of order `k` with flags charged, from a rule for each element. -/
def Fire.jetEach (x : Fire) (k extra : Nat) (rule : Ser → Nat → Coefs) : List Out × Nat :=
  let rs := (List.range x.f.len).map fun e => rule (x.ser e) e
  (out0 (x.jetTok k (rs.map (·.1))), rs.foldl (fun a r => a ||| r.2) extra)

/-- j! -/
def fact : Nat → Nat
  | 0 => 1
  | k + 1 => (k + 1) * fact k

/-- The order that MOD[2:0] asks for, 0 meaning K, capped at K (R182). -/
def Fire.askedOrder (x : Fire) : Nat :=
  let n := field (md x.n) 2 0
  if n = 0 then x.capK else min n x.capK

/-- JSEED (R182): a jet input raises Flag(FMT, 0) with the outcomes of R170, its c_0 alone and a plain result (R179). -/
def execJseed (n : Node) (s : State) : Host.Outcome State Fault Refusal := firePure 0x0C0 n s fun x _ =>
  let k := if (x.port 0).jet = 0 then x.askedOrder else 0
  let bad := if x.capK = 0 ∨ (x.port 0).jet ≠ 0 then flag clsFMT 0 else 0
  x.jetEach k bad fun S e => ((x.jet0 e 0 ++ [oneOf S.fmt] ++ List.replicate 7 0).take (k + 1), 0)

/-- JLIFT (R182). -/
def execJlift (n : Node) (s : State) : Host.Outcome State Fault Refusal := firePure 0x0C1 n s fun x _ =>
  let k := x.askedOrder
  x.jetEach k (if x.capK = 0 then flag clsFMT 0 else 0) fun _ e => (x.jet0 e k, 0)

/-- JGET (R183). -/
def execJget (n : Node) (s : State) : Host.Outcome State Fault Refusal := firePure 0x0C2 n s fun x _ =>
  let j := field (md n) 2 0
  if x.jetIn < j then x.jetEach 0 (x.jetOff [0] ||| flag clsIV 0) fun S _ => ([defNan S.fmt], 0)
  else x.jetEach 0 (x.jetOff [0]) fun S e =>
    let c := (x.jet0 e j).getD j 0
    if bitOf (md n) 3 && 2 ≤ j then
      let r := S.rnd 0 (mulP (opnd S.fmt c) (.int (fact j), 0))
      ([r.1], r.2)
    else ([c], 0)

/-- JPUT (R184). -/
def execJput (n : Node) (s : State) : Host.Outcome State Fault Refusal := firePure 0x0C3 n s fun x _ =>
  let j := field (md n) 2 0
  let k := x.jetIn
  if x.capK < j then x.jetEach (min k x.capK) (x.jetOff [0] ||| flag clsIV 0) fun _ e => (x.jet0 e (min k x.capK), 0)
  else
    let o := min (max k j) x.capK
    x.jetEach o (x.jetOff [0]) fun _ e => (setAt (x.jet0 e o) j (x.val1 e), 0)

/-- JTRUNC (R185). -/
def execJtrunc (n : Node) (s : State) : Host.Outcome State Fault Refusal := firePure 0x0C4 n s fun x _ =>
  let k := min (min x.jetIn (field (md n) 2 0)) x.capK
  x.jetEach k (x.jetOff [0]) fun _ e => (x.jet0 e k, 0)

/-- JDIFF (R186): a plain input gives +0. The emitted order is capped at K (R181). -/
def execJdiff (n : Node) (s : State) : Host.Outcome State Fault Refusal := firePure 0x0C5 n s fun x _ =>
  let k := x.jetIn
  if k = 0 then x.jetEach 0 (x.jetOff [0]) fun _ _ => ([0], 0)
  else
    let o := min (k - 1) x.capK
    x.jetEach o 0 fun S e =>
      let a := x.jet0 e (o + 1)
      Ser.build o fun _ j => if j = 0 then (a.getD 1 0, 0) else S.rnd j (mulP (.int (j + 1), 0) (S.co a (j + 1)))

/-- JINTG (R187). -/
def execJintg (n : Node) (s : State) : Host.Outcome State Fault Refusal := firePure 0x0C6 n s fun x _ =>
  let k := min ((x.port 0).jet.toNat + 1) x.capK
  x.jetEach k 0 fun S e =>
    let a := x.jet0 e k
    Ser.build k fun _ j =>
      if j = 0 then (x.val1 e, 0) else if j = 1 then (a.getD 0 0, 0) else S.rnd j (divP (S.co a (j - 1)) (.int j, 0))

/-- JEVAL (R189): fused Horner; exceptions charged to index 0. -/
def execJeval (n : Node) (s : State) : Host.Outcome State Fault Refusal := firePure 0x0C7 n s fun x _ =>
  let k := x.jetIn
  x.jetEach 0 (x.jetOff [0]) fun S e =>
    let a := x.jet0 e k
    let h := opnd S.fmt (x.val1 e)
    let r := (List.range k).foldl (fun (st : Nat × Nat) i =>
      let y := S.rnd 0 (addP S.rm (mulP (opnd S.fmt st.1) h) (S.co a (k - 1 - i)))
      (y.1, st.2 ||| y.2)) (a.getD k 0, 0)
    ([r.1], r.2)

/-- JCOMP (R191). The product y × d is the whole FMUL of R175, so an infinite or signalling y_0 raises IV in coefficient 0, which
R191's "raises nothing" does not speak of (DESIGN CHOICE, log 53). -/
def execJcomp (n : Node) (s : State) : Host.Outcome State Fault Refusal := firePure 0x0C8 n s fun x _ =>
  let k := min (min (x.port 0).jet.toNat (x.port 1).jet.toNat) x.capK
  x.jetEach k (x.jetOff [0, 1]) fun S e =>
    let f := x.jet0 e k
    let d := setAt ((x.port 1).coefs n.fmt.size k e) 0 0
    (List.range k).foldl (fun (st : Coefs) i =>
      let j := k - 1 - i
      let y := S.mul k st.1 d
      let c := S.rnd 0 (addP S.rm (S.co y.1 0) (S.co f j))
      (setAt y.1 0 c.1, st.2 ||| y.2 ||| c.2)) (f.getD k 0 :: List.replicate k 0, 0)

/-- The mask of R192: bit 5j + c where IMM bits j and 8 + c are set. -/
def jflagMask (n : Node) : Nat :=
  ((List.range 8).flatMap fun j => (List.range 5).filterMap fun c =>
    if bitOf (im n) j && bitOf (im n) (8 + c) then some (2 ^ (5 * j + c)) else none).foldl (· + ·) 0

/-- JFLAG (R192). -/
def execJflag (n : Node) (s : State) : Host.Outcome State Fault Refusal := firePure 0x0C9 n s fun x s =>
  (out0 (x.one64 ((s.ctx x.f.tag.ctx).csrs.jflags.toNat &&& jflagMask n)), 0)

/-- JCLRF (R192): read and clear in one step. -/
def execJclrf (n : Node) (s : State) : Host.Outcome State Fault Refusal := fire 0x0CA n s false fun x s =>
  let j := (s.ctx x.f.tag.ctx).csrs.jflags
  let m := BitVec.ofNat 40 (jflagMask n)
  let s := s.modCtx x.f.tag.ctx fun c => { c with csrs := { c.csrs with jflags := c.csrs.jflags &&& ~~~m } }
  x.finish s (out0 (x.one64 (j &&& m).toNat)) 0

/-- JSCAL (R190): c′_j = Round(c_j × λ^j), the power formed exactly; an infinite or NaN λ follows the product rules. -/
def execJscal (n : Node) (s : State) : Host.Outcome State Fault Refusal := firePure 0x0CB n s fun x _ =>
  let k := min x.jetIn x.capK
  x.jetEach k (x.jetOff [0]) fun S e =>
    let a := x.jet0 e k
    let l := opnd S.fmt (x.val1 e)
    Ser.build k fun _ j =>
      if j = 0 then (a.getD 0 0, 0)
      else S.rnd j (mulP (S.co a j) ((List.range (j - 1)).foldl (fun p _ => mulP p l) l))

/-- JDERV (R188). -/
def execJderv (n : Node) (s : State) : Host.Outcome State Fault Refusal := firePure 0x0CC n s fun x _ =>
  let k := min x.jetIn x.capK
  x.jetEach k (x.jetOff [0]) fun S e =>
    let a := x.jet0 e k
    Ser.build k fun _ j =>
      if j ≤ 1 then (a.getD j 0, 0)
      else S.rnd j (if bitOf (md n) 0 then divP (S.co a j) (.int (fact j), 0) else mulP (S.co a j) (.int (fact j), 0))

end Sys2Proof.Machine
end

