-- ==== Sys2Proof/Machine/Dispatch.lean ====
section
/-! DEFINITION. The one dispatch of the machine: the meaning of every step of spec/opcode_table.json. -/

namespace Sys2Proof.Machine

/-- The meaning of an instruction or event in a state. -/
def exec (i : Instr) (s : State) : Host.Outcome State Fault Refusal :=
  match i with
  | .pass n => Sys2Proof.Machine.execPass n s
  | .copy n => Sys2Proof.Machine.execCopy n s
  | .steer n => Sys2Proof.Machine.execSteer n s
  | .merge n => Sys2Proof.Machine.execMerge n s
  | .gate n => Sys2Proof.Machine.execGate n s
  | .sync n => Sys2Proof.Machine.execSync n s
  | .const n => Sys2Proof.Machine.execConst n s
  | .sink n => Sys2Proof.Machine.execSink n s
  | .select n => Sys2Proof.Machine.execSelect n s
  | .tnext n => Sys2Proof.Machine.execTnext n s
  | .retag n => Sys2Proof.Machine.execRetag n s
  | .tget n => Sys2Proof.Machine.execTget n s
  | .tset n => Sys2Proof.Machine.execTset n s
  | .split n => Sys2Proof.Machine.execSplit n s
  | .join n => Sys2Proof.Machine.execJoin n s
  | .bcast n => Sys2Proof.Machine.execBcast n s
  | .reduce n => Sys2Proof.Machine.execReduce n s
  | .scan n => Sys2Proof.Machine.execScan n s
  | .perm n => Sys2Proof.Machine.execPerm n s
  | .eos n => Sys2Proof.Machine.execEos n s
  | .iseos n => Sys2Proof.Machine.execIseos n s
  | .errt n => Sys2Proof.Machine.execErrt n s
  | .mkerr n => Sys2Proof.Machine.execMkerr n s
  | .itidx n => Sys2Proof.Machine.execItidx n s
  | .conv n => Sys2Proof.Machine.execConv n s
  | .iadd n => Sys2Proof.Machine.execIadd n s
  | .isub n => Sys2Proof.Machine.execIsub n s
  | .imul n => Sys2Proof.Machine.execImul n s
  | .imulh n => Sys2Proof.Machine.execImulh n s
  | .imad n => Sys2Proof.Machine.execImad n s
  | .idiv n => Sys2Proof.Machine.execIdiv n s
  | .irem n => Sys2Proof.Machine.execIrem n s
  | .ineg n => Sys2Proof.Machine.execIneg n s
  | .iabs n => Sys2Proof.Machine.execIabs n s
  | .imin n => Sys2Proof.Machine.execImin n s
  | .imax n => Sys2Proof.Machine.execImax n s
  | .iadds n => Sys2Proof.Machine.execIadds n s
  | .isubs n => Sys2Proof.Machine.execIsubs n s
  | .icmp n => Sys2Proof.Machine.execIcmp n s
  | .idot4 n => Sys2Proof.Machine.execIdot4 n s
  | .iclamp n => Sys2Proof.Machine.execIclamp n s
  | .andw n => Sys2Proof.Machine.execAndw n s
  | .orw n => Sys2Proof.Machine.execOrw n s
  | .xorw n => Sys2Proof.Machine.execXorw n s
  | .notw n => Sys2Proof.Machine.execNotw n s
  | .andn n => Sys2Proof.Machine.execAndn n s
  | .shl n => Sys2Proof.Machine.execShl n s
  | .shr n => Sys2Proof.Machine.execShr n s
  | .sar n => Sys2Proof.Machine.execSar n s
  | .rotl n => Sys2Proof.Machine.execRotl n s
  | .popc n => Sys2Proof.Machine.execPopc n s
  | .clz n => Sys2Proof.Machine.execClz n s
  | .ctz n => Sys2Proof.Machine.execCtz n s
  | .brev n => Sys2Proof.Machine.execBrev n s
  | .bfx n => Sys2Proof.Machine.execBfx n s
  | .bfi n => Sys2Proof.Machine.execBfi n s
  | .addr n => Sys2Proof.Machine.execAddr n s
  | .fadd n => Sys2Proof.Machine.execFadd n s
  | .fsub n => Sys2Proof.Machine.execFsub n s
  | .fmul n => Sys2Proof.Machine.execFmul n s
  | .ffma n => Sys2Proof.Machine.execFfma n s
  | .fdiv n => Sys2Proof.Machine.execFdiv n s
  | .fsqrt n => Sys2Proof.Machine.execFsqrt n s
  | .frcp n => Sys2Proof.Machine.execFrcp n s
  | .frsq n => Sys2Proof.Machine.execFrsq n s
  | .fmin n => Sys2Proof.Machine.execFmin n s
  | .fmax n => Sys2Proof.Machine.execFmax n s
  | .fabs n => Sys2Proof.Machine.execFabs n s
  | .fneg n => Sys2Proof.Machine.execFneg n s
  | .fcmp n => Sys2Proof.Machine.execFcmp n s
  | .fclass n => Sys2Proof.Machine.execFclass n s
  | .frnd n => Sys2Proof.Machine.execFrnd n s
  | .fscale n => Sys2Proof.Machine.execFscale n s
  | .fgetx n => Sys2Proof.Machine.execFgetx n s
  | .fdot2 n => Sys2Proof.Machine.execFdot2 n s
  | .fcpsgn n => Sys2Proof.Machine.execFcpsgn n s
  | .fclamp n => Sys2Proof.Machine.execFclamp n s
  | .cvt n => Sys2Proof.Machine.execCvt n s
  | .cvti n => Sys2Proof.Machine.execCvti n s
  | .cvtf n => Sys2Proof.Machine.execCvtf n s
  | .gpack n => Sys2Proof.Machine.execGpack n s
  | .gunpk n => Sys2Proof.Machine.execGunpk n s
  | .unp3 n => Sys2Proof.Machine.execUnp3 n s
  | .npack n => Sys2Proof.Machine.execNpack n s
  | .nunpk n => Sys2Proof.Machine.execNunpk n s
  | .movb n => Sys2Proof.Machine.execMovb n s
  | .fexp n => Sys2Proof.Machine.execFexp n s
  | .fexp2 n => Sys2Proof.Machine.execFexp2 n s
  | .flog n => Sys2Proof.Machine.execFlog n s
  | .flog2 n => Sys2Proof.Machine.execFlog2 n s
  | .fsin n => Sys2Proof.Machine.execFsin n s
  | .fcos n => Sys2Proof.Machine.execFcos n s
  | .ftanh n => Sys2Proof.Machine.execFtanh n s
  | .fsigm n => Sys2Proof.Machine.execFsigm n s
  | .ferf n => Sys2Proof.Machine.execFerf n s
  | .fatan n => Sys2Proof.Machine.execFatan n s
  | .fpown n => Sys2Proof.Machine.execFpown n s
  | .jseed n => Sys2Proof.Machine.execJseed n s
  | .jlift n => Sys2Proof.Machine.execJlift n s
  | .jget n => Sys2Proof.Machine.execJget n s
  | .jput n => Sys2Proof.Machine.execJput n s
  | .jtrunc n => Sys2Proof.Machine.execJtrunc n s
  | .jdiff n => Sys2Proof.Machine.execJdiff n s
  | .jintg n => Sys2Proof.Machine.execJintg n s
  | .jeval n => Sys2Proof.Machine.execJeval n s
  | .jcomp n => Sys2Proof.Machine.execJcomp n s
  | .jflag n => Sys2Proof.Machine.execJflag n s
  | .jclrf n => Sys2Proof.Machine.execJclrf n s
  | .jscal n => Sys2Proof.Machine.execJscal n s
  | .jderv n => Sys2Proof.Machine.execJderv n s
  | .tspace n => Sys2Proof.Machine.execTspace n s
  | .talloc n => Sys2Proof.Machine.execTalloc n s
  | .tfree n => Sys2Proof.Machine.execTfree n s
  | .tclose n => Sys2Proof.Machine.execTclose n s
  | .ldslot n => Sys2Proof.Machine.execLdslot n s
  | .stslot n => Sys2Proof.Machine.execStslot n s
  | .clrslot n => Sys2Proof.Machine.execClrslot n s
  | .call n => Sys2Proof.Machine.execCall n s
  | .arg n => Sys2Proof.Machine.execArg n s
  | .ret n => Sys2Proof.Machine.execRet n s
  | .commit n => Sys2Proof.Machine.execCommit n s
  | .discard n => Sys2Proof.Machine.execDiscard n s
  | .frmid n => Sys2Proof.Machine.execFrmid n s
  | .fire n => Sys2Proof.Machine.execFire n s
  | .tref n => Sys2Proof.Machine.execTref n s
  | .mma n => Sys2Proof.Machine.execMma n s
  | .mmai n => Sys2Proof.Machine.execMmai n s
  | .mmag n => Sys2Proof.Machine.execMmag n s
  | .mmaj n => Sys2Proof.Machine.execMmaj n s
  | .accz n => Sys2Proof.Machine.execAccz n s
  | .accrd n => Sys2Proof.Machine.execAccrd n s
  | .accwr n => Sys2Proof.Machine.execAccwr n s
  | .tdrn n => Sys2Proof.Machine.execTdrn n s
  | .tsplt n => Sys2Proof.Machine.execTsplt n s
  | .accps n => Sys2Proof.Machine.execAccps n s
  | .mmat n => Sys2Proof.Machine.execMmat n s
  | .ld n => Sys2Proof.Machine.execLd n s
  | .st n => Sys2Proof.Machine.execSt n s
  | .ldx n => Sys2Proof.Machine.execLdx n s
  | .stx n => Sys2Proof.Machine.execStx n s
  | .atom n => Sys2Proof.Machine.execAtom n s
  | .atomr n => Sys2Proof.Machine.execAtomr n s
  | .cas n => Sys2Proof.Machine.execCas n s
  | .ordn n => Sys2Proof.Machine.execOrdn n s
  | .ordj n => Sys2Proof.Machine.execOrdj n s
  | .ordf n => Sys2Proof.Machine.execOrdf n s
  | .fence n => Sys2Proof.Machine.execFence n s
  | .tfence n => Sys2Proof.Machine.execTfence n s
  | .pref n => Sys2Proof.Machine.execPref n s
  | .cpy n => Sys2Proof.Machine.execCpy n s
  | .cpyw n => Sys2Proof.Machine.execCpyw n s
  | .gath n => Sys2Proof.Machine.execGath n s
  | .scat n => Sys2Proof.Machine.execScat n s
  | .reord n => Sys2Proof.Machine.execReord n s
  | .dqput n => Sys2Proof.Machine.execDqput n s
  | .dqflg n => Sys2Proof.Machine.execDqflg n s
  | .mcst n => Sys2Proof.Machine.execMcst n s
  | .lds n => Sys2Proof.Machine.execLds n s
  | .sts n => Sys2Proof.Machine.execSts n s
  | .qput n => Sys2Proof.Machine.execQput n s
  | .qget n => Sys2Proof.Machine.execQget n s
  | .qeos n => Sys2Proof.Machine.execQeos n s
  | .qstat n => Sys2Proof.Machine.execQstat n s
  | .nqget n => Sys2Proof.Machine.execNqget n s
  | .gpri n => Sys2Proof.Machine.execGpri n s
  | .ginfo n => Sys2Proof.Machine.execGinfo n s
  | .bara n => Sys2Proof.Machine.execBara n s
  | .barw n => Sys2Proof.Machine.execBarw n s
  | .bart n => Sys2Proof.Machine.execBart n s
  | .coll n => Sys2Proof.Machine.execColl n s
  | .launch n => Sys2Proof.Machine.execLaunch n s
  | .trap n => Sys2Proof.Machine.execTrap n s
  | .bkpt n => Sys2Proof.Machine.execBkpt n s
  | .csrr n => Sys2Proof.Machine.execCsrr n s
  | .csrrViolog n => Sys2Proof.Machine.execCsrrViolog n s
  | .csrw n => Sys2Proof.Machine.execCsrw n s
  | .csrwViolog n => Sys2Proof.Machine.execCsrwViolog n s
  | .csrwFflags n => Sys2Proof.Machine.execCsrwFflags n s
  | .csrwJflags n => Sys2Proof.Machine.execCsrwJflags n s
  | .progi n => Sys2Proof.Machine.execProgi n s
  | .caps n => Sys2Proof.Machine.execCaps n s
  | .clock n => Sys2Proof.Machine.execClock n s
  | .pmig n => Sys2Proof.Machine.execPmig n s
  | .pcnt n => Sys2Proof.Machine.execPcnt n s
  | .pwbSet n => Sys2Proof.Machine.execPwbSet n s
  | .pwbClr n => Sys2Proof.Machine.execPwbClr n s
  | .phashHash n => Sys2Proof.Machine.execPhashHash n s
  | .phashShare n => Sys2Proof.Machine.execPhashShare n s
  | .phashDrop n => Sys2Proof.Machine.execPhashDrop n s
  | .bmap n => Sys2Proof.Machine.execBmap n s
  | .lnkst n => Sys2Proof.Machine.execLnkst n s
  | .svctxHalt n => Sys2Proof.Machine.execSvctxHalt n s
  | .svctxSave n => Sys2Proof.Machine.execSvctxSave n s
  | .svctxResume n => Sys2Proof.Machine.execSvctxResume n s
  | .svctxAbandon n => Sys2Proof.Machine.execSvctxAbandon n s
  | .svctxDestroy n => Sys2Proof.Machine.execSvctxDestroy n s
  | .svctxQuery n => Sys2Proof.Machine.execSvctxQuery n s
  | .rsctx n => Sys2Proof.Machine.execRsctx n s
  | .dump n => Sys2Proof.Machine.execDump n s
  | .ctrigStart n => Sys2Proof.Machine.execCtrigStart n s
  | .ctrigStop n => Sys2Proof.Machine.execCtrigStop n s
  | .cmpr n => Sys2Proof.Machine.execCmpr n s
  | .expd n => Sys2Proof.Machine.execExpd n s
  | .topk n => Sys2Proof.Machine.execTopk n s
  | .sample n => Sys2Proof.Machine.execSample n s
  | .rng n => Sys2Proof.Machine.execRng n s
  | .smaxt n => Sys2Proof.Machine.execSmaxt n s
  | .argmx n => Sys2Proof.Machine.execArgmx n s
  | .configWrite elem field value => Sys2Proof.Machine.execConfigWrite elem field value s
  | .configSelect die core => Sys2Proof.Machine.execConfigSelect die core s
  | .extend high => Sys2Proof.Machine.execExtend high s
  | .regionBegin ctx => Sys2Proof.Machine.execRegionBegin ctx s
  | .configCommit => Sys2Proof.Machine.execConfigCommit s
  | .regionAbort => Sys2Proof.Machine.execRegionAbort s
  | .drainreq ctx => Sys2Proof.Machine.execDrainreq ctx s
  | .saveovl ctx => Sys2Proof.Machine.execSaveovl ctx s
  | .restoreovl ctx => Sys2Proof.Machine.execRestoreovl ctx s
  | .quota elem entries => Sys2Proof.Machine.execQuota elem entries s
  | .submissionTail queue => Sys2Proof.Machine.execSubmissionTail queue s
  | .launchRecord die => Sys2Proof.Machine.execLaunchRecord die s
  | .haltop ctx => Sys2Proof.Machine.execHaltop ctx s
  | .saveop ctx => Sys2Proof.Machine.execSaveop ctx s
  | .resumeop ctx => Sys2Proof.Machine.execResumeop ctx s
  | .abandonop ctx => Sys2Proof.Machine.execAbandonop ctx s
  | .destroyop ctx => Sys2Proof.Machine.execDestroyop ctx s
  | .queryop ctx => Sys2Proof.Machine.execQueryop ctx s
  | .restoreop ctx => Sys2Proof.Machine.execRestoreop ctx s
  | .dumpop ctx => Sys2Proof.Machine.execDumpop ctx s
  | .bindop ctx => Sys2Proof.Machine.execBindop ctx s
  | .bound ctx => Sys2Proof.Machine.execBound ctx s
  | .haltLine n elem => Sys2Proof.Machine.execHaltLine n elem s
  | .stopRecord n elem => Sys2Proof.Machine.execStopRecord n elem s
  | .stopped ctx => Sys2Proof.Machine.execStopped ctx s
  | .faultToken tok => Sys2Proof.Machine.execFaultToken tok s
  | .saveend ctx => Sys2Proof.Machine.execSaveend ctx s
  | .savestop ctx => Sys2Proof.Machine.execSavestop ctx s
  | .restoreend ctx => Sys2Proof.Machine.execRestoreend ctx s
  | .restorefail ctx => Sys2Proof.Machine.execRestorefail ctx s
  | .dumpend die => Sys2Proof.Machine.execDumpend die s
  | .reclaimed ctx => Sys2Proof.Machine.execReclaimed ctx s
  | .accept packet => Sys2Proof.Machine.execAccept packet s
  | .inject n elem entry dest => Sys2Proof.Machine.execInject n elem entry dest s
  | .class0Pacing n elem => Sys2Proof.Machine.execClass0Pacing n elem s
  | .emitResume n elem => Sys2Proof.Machine.execEmitResume n elem s
  | .refill n elem => Sys2Proof.Machine.execRefill n elem s
  | .spilledMatch n elem slot => Sys2Proof.Machine.execSpilledMatch n elem slot s
  | .firingPromotion n elem firing => Sys2Proof.Machine.execFiringPromotion n elem firing s
  | .activationStart inst => Sys2Proof.Machine.execActivationStart inst s
  | .deferredRead op => Sys2Proof.Machine.execDeferredRead op s
  | .publish commit => Sys2Proof.Machine.execPublish commit s
  | .endMark mark => Sys2Proof.Machine.execEndMark mark s
  | .steal inst => Sys2Proof.Machine.execSteal inst s
  | .replicaEvaluation serial kernel => Sys2Proof.Machine.execReplicaEvaluation serial kernel s
  | .arrive arrival => Sys2Proof.Machine.execArrive arrival s
  | .ticketReturn arrival => Sys2Proof.Machine.execTicketReturn arrival s
  | .delivered bar => Sys2Proof.Machine.execDelivered bar s
  | .expire bar => Sys2Proof.Machine.execExpire bar s
  | .collectiveEnd bar => Sys2Proof.Machine.execCollectiveEnd bar s
  | .memoryResponse op elem => Sys2Proof.Machine.execMemoryResponse op elem s
  | .transferUnit op => Sys2Proof.Machine.execTransferUnit op s
  | .watchdog op => Sys2Proof.Machine.execWatchdog op s
  | .stalledWriteRetry op elem => Sys2Proof.Machine.execStalledWriteRetry op elem s
  | .blockPass op => Sys2Proof.Machine.execBlockPass op s
  | .remoteAccess req => Sys2Proof.Machine.execRemoteAccess req s
  | .hostAccess req => Sys2Proof.Machine.execHostAccess req s
  | .blockedTimer router => Sys2Proof.Machine.execBlockedTimer router s
  | .slipCapture router => Sys2Proof.Machine.execSlipCapture router s
  | .slipRelease router => Sys2Proof.Machine.execSlipRelease router s
  | .slipWatchdog ring => Sys2Proof.Machine.execSlipWatchdog ring s
  | .slipReissue ring => Sys2Proof.Machine.execSlipReissue ring s
  | .class0Timeout packet => Sys2Proof.Machine.execClass0Timeout packet s
  | .boot => Sys2Proof.Machine.execBoot s
  | .trainok link => Sys2Proof.Machine.execTrainok link s
  | .trainhalf link => Sys2Proof.Machine.execTrainhalf link s
  | .trainfail link => Sys2Proof.Machine.execTrainfail link s
  | .laneloss link => Sys2Proof.Machine.execLaneloss link s
  | .errburst link => Sys2Proof.Machine.execErrburst link s
  | .absent link => Sys2Proof.Machine.execAbsent link s
  | .flitReplay link => Sys2Proof.Machine.execFlitReplay link s
  | .podHalt ctx => Sys2Proof.Machine.execPodHalt ctx s
  | .reportRequest => Sys2Proof.Machine.execReportRequest s
  | .clockStepDown => Sys2Proof.Machine.execClockStepDown s
  | .clockStepUp => Sys2Proof.Machine.execClockStepUp s
  | .criticalTemperature => Sys2Proof.Machine.execCriticalTemperature s
  | .scrub line bad => Sys2Proof.Machine.execScrub line bad s
  | .traceSample n elem => Sys2Proof.Machine.execTraceSample n elem s
  | .startPacket n elem => Sys2Proof.Machine.execStartPacket n elem s
  | .stopPacket n elem => Sys2Proof.Machine.execStopPacket n elem s
  | .commandAppliedReport bindery n => Sys2Proof.Machine.execCommandAppliedReport bindery n s
  | .identityCertificate cert => Sys2Proof.Machine.execIdentityCertificate cert s

end Sys2Proof.Machine
end

