-- ==== Sys2Proof/Machine/Step.lean ====
section
/-! DEFINITION. One step of the package: the event at the head of the agenda, or one of those that the state makes possible. -/

namespace Sys2Proof.Machine

/-- What a step makes of a firing's outcome: its effects are visible from its last Emit on (R8). -/
def State.ended (s : State) (f : Firing) (o : Host.Outcome State Fault Refusal) : Host.Outcome State Fault Refusal :=
  match o with
  | .next t => .next (s.holdBack t f)
  | .fault e => .fault e
  | .refused r => .refused r

/-- Run one event. A node instruction runs through `fire` alone and a command word through `word`; the agenda cannot name
either by itself. -/
def runEvent (e : Event) (s : State) : Host.Outcome State Fault Refusal :=
  match e with
  | .instr i => if (encode i).isSome then .next s else exec i s
  | .fire n elem =>
    match s.nextFiring n elem with
    | none => .next s
    | some f => match (s.imageOf f).instr with
      | some i => s.ended f (exec i (s.load f))
      | none => .next s
  | .send b => .next (s.sendWord b)
  | .command b n number => .next (s.commandCame b n number)
  | .word b n =>
    match s.takeWord b n with
    | none => .next s
    | some (w, t) => match decodeWord w.toNat with
      | .ok i => exec i t
      | .error _ => .next ({ t with stream := none }.reservedWord b n)
  | .visible w path level => .next (s.visibleMove w path level)
  | .arrival a => .next (s.farArrival a)
  | .farFailed c => .next (s.farFailed c)
  | .translate op elem => .next (match s.findOp op with
    | some o => s.translateAhead o elem
    | none => s)
  | .hop packet router => .next (s.hop packet router)
  | .slipGone ring => .next (s.slipGone ring)
  | .tick k => .next (s.tick k)

/-- Run what the package does of itself: each event has the meaning that `exec` gives it. -/
def runAuto (a : Auto) (s : State) : Host.Outcome State Fault Refusal :=
  match a with
  | .ev e => runEvent e s
  | .op c .halt => execHaltop c s
  | .op c .save => execSaveop c s
  | .op c .resume => execResumeop c s
  | .op c .abandon => execAbandonop c s
  | .op c .destroy => execDestroyop c s
  | .op c .query => execQueryop c s
  | .op c .restore => execRestoreop c s
  | .op c .dump => execDumpop c s
  | .op c .bind => execBindop c s
  | .inject n elem entry dest => execInject n elem entry dest s
  | .emitResume n elem => execEmitResume n elem s
  | .refill n elem => execRefill n elem s
  | .spilledMatch n elem slot => execSpilledMatch n elem slot s
  | .class0Pacing n elem => execClass0Pacing n elem s
  | .firingPromotion n elem firing => execFiringPromotion n elem firing s
  | .traceSample n elem => execTraceSample n elem s
  | .memoryResponse op elem => execMemoryResponse op elem s
  | .stalledWriteRetry op elem => execStalledWriteRetry op elem s
  | .transferUnit op => execTransferUnit op s
  | .blockPass op => execBlockPass op s
  | .deferredRead op => execDeferredRead op s
  | .watchdog op => execWatchdog op s
  | .activationStart inst => execActivationStart inst s
  | .steal inst => execSteal inst s
  | .replicaEvaluation serial kernel => execReplicaEvaluation serial kernel s
  | .bound ctx => execBound ctx s
  | .stopped ctx => execStopped ctx s
  | .haltLine n elem => execHaltLine n elem s
  | .stopRecord n elem => execStopRecord n elem s
  | .saveend ctx => execSaveend ctx s
  | .savestop ctx => execSavestop ctx s
  | .restoreend ctx => execRestoreend ctx s
  | .restorefail ctx => execRestorefail ctx s
  | .reclaimed ctx => execReclaimed ctx s
  | .launchRecord die => execLaunchRecord die s
  | .dumpend die => execDumpend die s
  | .commandAppliedReport bindery n => execCommandAppliedReport bindery n s
  | .accept packet => execAccept packet s
  | .blockedTimer router => execBlockedTimer router s
  | .class0Timeout packet => execClass0Timeout packet s
  | .publish commit => execPublish commit s
  | .endMark mark => execEndMark mark s
  | .arrive arrival => execArrive arrival s
  | .ticketReturn arrival => execTicketReturn arrival s
  | .delivered bar => execDelivered bar s
  | .expire bar => execExpire bar s
  | .collectiveEnd bar => execCollectiveEnd bar s
  | .faultToken tok => execFaultToken tok s
  | .startPacket n elem => execStartPacket n elem s
  | .stopPacket n elem => execStopPacket n elem s
  | .slipCapture router => execSlipCapture router s
  | .slipRelease router => execSlipRelease router s
  | .slipWatchdog ring => execSlipWatchdog ring s
  | .slipReissue ring => execSlipReissue ring s
  | .reportRequest => execReportRequest s
  | .boot => execBoot s

/-- One step: the agenda first, else an open choice among what is possible (log 4). -/
def step (s : State) : Host.Outcome State Fault Refusal :=
  match s.agenda with
  | e :: rest => runEvent e { s with agenda := rest }
  | [] =>
    let es := s.possible
    let k := s.choice es.length
    runAuto (es.getD k.1 (.ev (.tick 1))) k.2

/-- `s` with the instruction of bits `w` where the next step fetches it. -/
def State.withFetchWord (s : State) (nbits w : Nat) : State :=
  if nbits ≤ 32 then s.withWord (field w 31 0) else s.withNode (field w 63 0) (field w 127 64)

end Sys2Proof.Machine
end

