-- ==== Sys2Proof/Safety.lean ====
section
/-! DEFINITION. The terms in which claims speak of the machine: a step that goes on, a matched set that is loaded and clean, the
tokens that a firing emits and their elements, and what a firing leaves unchanged. -/

namespace Sys2Proof.Machine

/-- The step goes on: neither a fault nor a refusal. -/
def Goes (o : Host.Outcome State Fault Refusal) : Prop := ∃ t, o = .next t

/-- The firing as the meaning of a node instruction of opcode `o` sees it, with what it captures (R168, R352). -/
def State.fireOf (s : State) (o : Nat) (n : Node) (f : Firing) : Fire := { f := f, n := n, opc := o, cap := s.capture f n }

/-- The state in which a firing acts: its matched set is consumed (R100). -/
def State.consumed (s : State) : State := { s with firing := none }

/-- A matched set over 1 to 32 iterations is loaded. -/
structure Fires (s : State) (f : Firing) : Prop where
  set : s.firing = some f
  run : 1 ≤ f.len ∧ f.len ≤ 32

/-- A matched set is loaded that holds no error token, in a context that may run the node (R45, R110). -/
structure Loaded (o : Nat) (n : Node) (s : State) (f : Firing) : Prop extends Fires s f where
  clean : ∀ t ∈ f.inputs, t.isErr = false
  allowed : (s.fireOf o n f).needsSup = true → (s.ctx f.tag.ctx).sup = true

/-- The place of a firing exists (R14). -/
def Firing.placed (f : Firing) : Prop := f.n < 160 ∧ f.elem < 90

/-- The instruction's effect is to emit tokens, in order, and nothing else. -/
def Emits (i : Instr) (o : Nat) (n : Node) (s : State) (f : Firing) (os : List Out) : Prop :=
  exec i s = .next ((s.fireOf o n f).emitAll s.consumed os)

/-- The firing ends (R7) with outputs and exceptions: flags, then the outputs, or what the dispositions put in their place
(R88). -/
def Ends (i : Instr) (o : Nat) (n : Node) (s : State) (f : Firing) (os : List Out) (fl : Nat) : Prop :=
  exec i s = .next ((s.fireOf o n f).finish s.consumed os fl)

/-- The instruction acts on the state and then emits its outputs: what it did before is `P`. -/
def Acts (i : Instr) (o : Nat) (n : Node) (s : State) (f : Firing) (os : List Out) (P : State → Prop) : Prop :=
  ∃ u, exec i s = .next ((s.fireOf o n f).emitAll u os) ∧ P u

/-- The frame that the tag names becomes `g`; every other frame stays, and so does all but the cores and the numbers given out. -/
structure FrameOnly (s u : State) (t : Tag) (g : Frame) : Prop where
  rest   : u = { s with cores := u.cores, fresh := u.fresh }
  frame  : u.frame t = some g
  others : ∀ m k, m ≠ t.core ∨ k ≠ t.fnum → Assoc.get none (u.core m).frames k = Assoc.get none (s.core m).frames k

/-- A group but for what its instances note of the accesses they issued. -/
def Group.unissued (g : Group) : Group := { g with insts := g.insts.map fun j => { j with issued := [] } }

/-- The instruction starts one operation of the firing `x`, for which `P` holds, and then does `g`; beside that the state is `v` but for
the numbers given out and the list of accesses that a kernel instance has issued (R298). -/
def Begins (g : State → State) (i : Instr) (s v : State) (x : Fire) (P : Op → Prop) : Prop :=
  ∃ u op, exec i s = .next (g u) ∧ P op ∧ op.id = s.fresh ∧ op.fir = x.f ∧ op.instr = x.n ∧ op.opc = x.opc ∧ op.cap = x.cap ∧
    op.deps = x.deps ∧ op.since = s.cycle ∧
    u = { v with ops := s.ops ++ [op], fresh := s.fresh + 1, groups := u.groups } ∧
    u.groups.map Group.unissued = s.groups.map Group.unissued

/-- The instruction starts one operation, for which `P` holds, and then does `g`. -/
def StartsThen (g : State → State) (i : Instr) (o : Nat) (n : Node) (s : State) (f : Firing) (P : Op → Prop) : Prop :=
  Begins g i s s.consumed (s.fireOf o n f) P

/-- The instruction starts one operation, for which `P` holds, and does nothing else. -/
def Starts : Instr → Nat → Node → State → Firing → (Op → Prop) → Prop := StartsThen fun u => u

/-- An instruction that moves data goes on: no jet meets a K of 0, or the disposition of FMT lets it read c_0 alone (R170). -/
def Moves (o : Nat) (n : Node) (s : State) (f : Firing) : Prop := verdict (s.fireOf o n f).cap (s.fireOf o n f).jetFlag = .go

/-- What an instruction that moves data and acted to the state `t` leaves: FMT is raised with it where R170 raises it (R8). -/
def State.movedTo (s : State) (o : Nat) (n : Node) (f : Firing) (t : State) : State :=
  if (s.fireOf o n f).jetFlag = 0 then t else s.consumed.owes t f (s.fireOf o n f).cap true (s.fireOf o n f).jetFlag

/-- A firing that writes its jets out, each at its own order (R270, R281), or where K is 0 its c_0 alone (R170). -/
def State.storing (s : State) (o : Nat) (n : Node) (f : Firing) : Fire :=
  if (s.fireOf o n f).capK = 0 then (s.fireOf o n f).capped else s.fireOf o n f

/-- The instruction starts one operation that writes its data operands and owes the FMT of R170, and does nothing else. -/
def StartsStore (i : Instr) (o : Nat) (n : Node) (s : State) (f : Firing) (P : Op → Prop) : Prop :=
  Begins (fun u => u) i s s.consumed (s.storing o n f) fun p => p.excs = (s.fireOf o n f).jetFlag ∧ P p

/-- One output token. -/
def one (out : Nat) (t : Tok) : List Out := [{ out := out, tok := t }]

/-- An element of a payload as the manual lays it out (R46, R47): plane `j`, element `k`, of `len` elements of `w` bytes. -/
def payloadElem (t : Tok) (w len j k : Nat) : Nat := leNat ((t.data.drop ((j * len + k) * w)).take w)

/-- What the output tokens of a firing other than EOS have in common (R95, R97): the matched tag, `len` elements of `planes` planes
of `w` bytes, and EOS where an input has it. -/
structure Shape (f : Firing) (t : Tok) (fmt : Fmt) (w len planes : Nat) : Prop where
  tagIs  : t.tag = f.tag
  fmtIs  : t.fmt = fmt
  lenIs  : t.len = len
  jetIs  : t.jet.toNat + 1 = planes
  eosIs  : t.eos = f.inputs.any (·.eos)
  portIs : t.port = 0
  sizeIs : t.data.length = planes * len * w

/-- A token over the matched range whose plain elements of `w` bytes are `v`. -/
structure Elements (f : Firing) (t : Tok) (fmt : Fmt) (w len : Nat) (v : Nat → Nat) : Prop
    extends Shape f t fmt w len 1 where
  elem : ∀ k, k < len → payloadElem t w len 0 k = v k % 2 ^ (8 * w)

/-- A token over the matched range whose elements are jets of order `o`: coefficient `j` of element `k` is `v k j`. -/
structure Jets (f : Firing) (t : Tok) (fmt : Fmt) (o : Nat) (v : Nat → Nat → Nat) : Prop
    extends Shape f t fmt fmt.size f.len (o + 1) where
  coef : ∀ k j, k < f.len → j ≤ o → payloadElem t fmt.size f.len j k = v k j % 2 ^ (8 * fmt.size)

/-- `v` is the integer that a rounding mode makes of `num / den` (R78, R80): the value itself where it is one, else one of its two
neighbours. -/
def RoundsTo (rm : Rm) (draw : Nat) (num : Int) (den : Nat) (v : Int) : Prop :=
  let off := (v * den - num).natAbs
  off < den ∧ match rm with
    | .ctx | .rne => 2 * off ≤ den ∧ (2 * off = den → v % 2 = 0)
    | .rna => 2 * off ≤ den ∧ (2 * off = den → num.natAbs ≤ (v * den).natAbs)
    | .rtz => (v * den).natAbs ≤ num.natAbs
    | .rup => num ≤ v * den
    | .rdn => v * den ≤ num
    | .sr => num.natAbs < (v * den).natAbs ↔ 2 ^ 32 ≤ num.natAbs % den * 2 ^ 32 / den + draw

/-- The union of the exceptions of the elements of a firing. -/
def orAll (len : Nat) (fl : Nat → Nat) : Nat := (List.range len).foldl (fun a k => a ||| fl k) 0

/-- What a firing leaves unchanged that only emits: every part of the state but its element's buffers and counters, its context's
flags, and what a halting fault of its own changes (R350, R355). -/
structure FiringFrame (f : Firing) (s t : State) : Prop where
  rest  : t = { s with firing := none, elems := t.elems, ctxs := t.ctxs, fresh := t.fresh, faults := t.faults }
  bytes : ∀ iss path k len, t.seen iss path k len = s.seen iss path k len
  elems : ∀ n e, e < 128 → n ≠ f.n ∨ e ≠ f.elem → t.elem n e = s.elem n e
  elem  : ∃ out emitq ctr0 ctr1 cause culprit async, t.elem f.n f.elem =
    { s.elem f.n f.elem with out := out, emitq := emitq, ctr0 := ctr0, ctr1 := ctr1, cause := cause, culprit := culprit, async := async }
  ctxs  : ∀ c, c ≠ f.tag.ctx → t.ctx c = s.ctx c
  ctx   : ∃ fflags jflags state halt byFault image, t.ctx f.tag.ctx =
    { s.ctx f.tag.ctx with csrs := { (s.ctx f.tag.ctx).csrs with fflags := fflags, jflags := jflags },
                           state := state, halt := halt, byFault := byFault, image := image }

end Sys2Proof.Machine
end

