-- ==== Sys2Proof/Certificates/Slice0/Obligations.lean ====
section
/-! DEFINITION. What the provers are asked to show of the machine. Each statement formalises rules of spec/ or follows from
them; its entry in OBLIGATIONS.json says which. -/

open Sys2Proof Sys2Proof.Machine

/-- R54, column Reset: at reset every context is FREE and its registers hold RMODE 1, EXCMODE 0xF955, JTRAP 0x1F, CNTTHR 256 and
zero elsewhere; the violation log and the fault record are empty, CYCLE is 0, the links are DOWN and memory is canonical. What a
register of no such row holds is the model's choice (log 13) and is not stated. -/
def Obligations.ResetRegisterValues : Prop :=
  Memory.wf State.reset.mem = true ∧ State.reset.cycle = 0 ∧
  (∀ c : BitVec 6,
    let x := State.reset.ctx c
    x.state = .free ∧ x.csrs.rmode = 1 ∧ x.csrs.excmode = 0xF955 ∧ x.csrs.fflags = 0 ∧ x.csrs.jord = 0 ∧ x.csrs.jflags = 0 ∧
    x.csrs.jtrap = 0x1F ∧ x.csrs.rngkey = 0 ∧ x.csrs.cntthr = 256 ∧ x.csrs.nqbase = 0 ∧ x.csrs.dumpdesc = 0 ∧
    x.csrs.savedesc = 0 ∧ x.violog = [] ∧ x.frec = {}) ∧
  ∀ l, (State.reset.link l).state = .down

/-- The node records and command words here were written out bit by bit from R32, R41, R44 and R49. -/
def Obligations.DecodesSpecifiedWords : Prop :=
  let n (fmt : Fmt) (arity mod imm : Nat) (immp : Bool) (ds : List Dest) : Node :=
    { fmt := fmt, arity := BitVec.ofNat 2 arity, lane := .value, tagop := .keep, rm := .ctx, cf := false, cls := 0,
      immp := immp, mod := BitVec.ofNat 6 mod, imm := BitVec.ofNat 32 imm, dests := ds }
  -- OPC 0x040 in [63:55], ARITY 2 in [51:50], MOD 0b100000 (32 bits) in [37:32]; NDEST 1 in [63:62], node 5 in [59:42], port 1
  decodeNode 0x2008_0020_0000_0000 0x4000_1500_0000_0000 = .ok (.iadd (n .I 2 0b100000 0 false [{ node := 5, port := 1 }])) ∧
  -- OPC 0x070 in [63:55], FMT 2 (S) in [54:52], ARITY 2, IMMP in [38], IMM the pattern of 1.0; one destination, node 3, port 0
  decodeNode 0x3828_0040_3F80_0000 0x4000_0C00_0000_0000 = .ok (.fadd (n .S 2 0 0x3F80_0000 true [{ node := 3, port := 0 }])) ∧
  -- OPC 0x008, FMT 0, ARITY 1; no destination
  decodeNode 0x0404_0000_0000_0000 0 = .ok (.sink (n .I 1 0 0 false [])) ∧
  -- OPC 0x003, FMT 2, ARITY 2; two destinations: node 1 port 0, node 2 port 3
  decodeNode 0x01A8_0000_0000_0000 0x8000_0400_00B0_0000 =
    .ok (.steer (n .S 2 0 0 false [{ node := 1, port := 0 }, { node := 2, port := 3 }])) ∧
  -- TYPE 00, ELEM 72 in [29:23], FIELD 0x14 in [22:16], VALUE 0x1234
  decodeWord 0x2414_1234 = .ok (.configWrite 72 0x14 0x1234) ∧
  -- TYPE 01, DIE 3 in [29:26], CORE 19 in [25:21]
  decodeWord 0x4E60_0000 = .ok (.configSelect 3 19) ∧
  -- TYPE 10, command 0 (BEGIN), CTX 33 in [25:20]; command 1 (COMMIT)
  decodeWord 0x8210_0000 = .ok (.regionBegin 33) ∧ decodeWord 0x8400_0000 = .ok .configCommit ∧
  -- TYPE 10, command 15 is reserved; OPC 0x000 is no instruction
  decodeWord 0xBC00_0000 = .error .reservedCommand ∧ decodeNode 0 0 = .error (.load .opcode)

/-- R31 to R44 and R49: no bit of an encoding is dropped, for every node instruction and command word, with every operand at
every value that the encoding admits. -/
def Obligations.DecodeOfEncodeIsTheInstruction : Prop :=
  ∀ (i : Instr) (c : Code), i.wf = true → encode i = some c → decode c = .ok i

/-- Each node record has one meaning: what the decoder accepts is well formed, and encoding it gives the record back, so no
bit of an accepted record is ignored (R42). -/
def Obligations.EncodeOfDecodeIsTheRecord : Prop :=
  ∀ (iw lw : Word) (i : Instr), decodeNode iw.toNat lw.toNat = .ok i → i.wf = true ∧ encode i = some (.node iw lw)

/-- When the slot of the firing that an element starts decodes to `i`, the step is `exec` of `i` on the matched set loaded from
it (R51, R100, R323); where an Emit of it found no entry free, its effects wait for that Emit (R8), and where it set both FFLAGS
and JFLAGS the second OR comes later (R435): `State.ended` says how. When the word that a core applies next decodes to `i`, the step
is `exec` of `i` in that stream (R49); an event that the agenda names runs as it is. -/
def Obligations.StepRunsTheDecodedInstruction : Prop :=
  (∀ (s : State) (n e : Nat) (rest : List Event) (f : Firing) (i : Instr),
    let u : State := { s with agenda := rest }
    s.agenda = .fire n e :: rest → u.nextFiring n e = some f →
    decodeNode ((u.imageOf f).iw.toNat) ((u.imageOf f).lw.toNat) = .ok i →
    step s = u.ended f (exec i (u.load f)) ∧
    (f.held = none → u.imageOf f = (s.elem f.n f.elem).slot f.slot) ∧
    (∀ t, exec i (u.load f) = .next t → (∀ o ∈ (t.elem f.n f.elem).emitq, o.id < s.fresh) →
      (t.ctx f.tag.ctx).csrs.fflags = (s.ctx f.tag.ctx).csrs.fflags ∨ (t.ctx f.tag.ctx).csrs.jflags = (s.ctx f.tag.ctx).csrs.jflags →
      step s = .next t)) ∧
  (∀ (s t : State) (b n : Nat) (rest : List Event) (w : BitVec 32) (i : Instr),
    s.agenda = .word b n :: rest → ({ s with agenda := rest } : State).takeWord b n = some (w, t) →
    decodeWord w.toNat = .ok i → step s = exec i t) ∧
  (∀ (s : State) (i : Instr) (rest : List Event),
    s.agenda = .instr i :: rest → encode i = none → step s = exec i { s with agenda := rest })

/-- No state stops the machine: whatever is placed in slots and streams, a step neither faults nor refuses (halting faults are
states of the machine, R350). -/
def Obligations.EveryStepGoes : Prop := ∀ s : State, Goes (step s)

/-- The invariant behind every claim about bytes of memory: addresses rise strictly and no cell holds what an unlisted
address reads as (the form is the model's own, log 1), whatever the step does. -/
def Obligations.MemoryStaysCanonical : Prop :=
  ∀ s t : State, Memory.wf s.mem = true → step s = .next t → Memory.wf t.mem = true

/-- R110: the instruction computes nothing and raises no flag; it emits one copy of the error token to every output, with the
matched tag and the payload unchanged; among several it takes the earliest in graph order. MERGE, SINK, REDUCE, SCAN, ERRT, SMAXT, ARGMX,
FIRE, QPUT, BARA, BART, COLL and the matrix instructions have rules of their own (R119, R116, R127, R126, R161, R162, R222, R305,
R331, R332, R343, R226). -/
def Obligations.ErrorTokensAreForwarded : Prop :=
  ∀ (i : Instr) (o : Nat) (n : Node) (s : State) (f : Firing),
    opcode i = some o → nodeOf i = some n → o ∉ [0x004, 0x008, 0x011, 0x012, 0x016, 0x0ED, 0x101, 0x102, 0x103, 0x104, 0x10B, 0x160, 0x167, 0x169, 0x16A, 0x1A5, 0x1A6] →
    s.firing = some f →
    let x := s.fireOf o n f
    ∀ e, x.firstErr s.consumed = some e →
      e ∈ f.inputs ∧ e.isErr = true ∧
      (∀ u ∈ f.inputs, u.isErr = true → x.rank s.consumed (nodeIn e.data) ≤ x.rank s.consumed (nodeIn u.data)) ∧
      Emits i o n s f ((List.range x.outputs).map fun j => { out := j, tok :=
        { tag := f.tag, fmt := .X, run := 0, jet := 0, eos := x.eos, data := e.data, deps := x.deps,
          span := (x.forwardTok e).span } })

/-- R45, as one statement: the forms that need SUP, what each of them does in a context without it, and the halting cause under
the default disposition. -/
def Obligations.SupervisorFormsNeedSup : Prop :=
  (∀ (i : Instr) (o : Nat) (n : Node) (s : State) (f : Firing),
    opcode i = some o → nodeOf i = some n → s.firing = some f → (∀ t ∈ f.inputs, t.isErr = false) →
    let x := s.fireOf o n f
    x.needsSup = true → (s.ctx f.tag.ctx).sup = false →
    exec i s = .next (
      let t := s.consumed.setFlags f.tag.ctx x.cap (n.lane == .jet) (flag clsPROT 0)
      match verdict x.cap (flag clsPROT 0) with
      | .halt c => x.fault t c
      | _ => x.emitAll t ((List.range x.outputs).map fun j => { out := j, tok := x.errTok 0x07 0 }))) ∧
  (∀ (x : Fire), disposition x.cap.exc clsPROT = 3 → verdict x.cap (flag clsPROT 0) = .halt 0x0003) ∧
  ∀ (n : Node) (f : Firing) (s : State),
    ((∀ o ∈ [0x18D, 0x18E, 0x18F, 0x187, 0x189], (s.fireOf o n f).needsSup = true) ∧
     ((s.fireOf 0x190 n f).needsSup = true ↔ 2 ≤ field (md n) 2 0))

/-- R88 with R87 and R178: a class acts at coefficient 0, and at a higher coefficient where its bit of JTRAP is set; the first HALT
class in the order of R88 wins, then the first TOKEN class. -/
def Obligations.DispositionsDecideTheEnd : Prop :=
  ∀ (x : Fire) (s : State) (os : List Out) (fl addr : Nat),
    let raised (c : Nat) : Prop := c < 8 ∧ ∃ j < 8, bitOf fl (8 * j + c) = true
    let acting (c : Nat) : Prop := c < 8 ∧ ∃ j < 8, bitOf fl (8 * j + c) = true ∧ (j = 0 ∨ (c < 5 ∧ bitOf x.cap.jtrap.toNat (5 * j + c) = true))
    let first (d c : Nat) : Prop := acting c ∧ disposition x.cap.exc c = d ∧ ∀ k < c, ¬(acting k ∧ disposition x.cap.exc k = d)
    -- the flags of every class raised whose disposition is not IGNORE are set
    (∀ c < 8, (((s.setFlags x.f.tag.ctx x.cap (x.n.lane == .jet) fl).ctx x.f.tag.ctx).csrs.fflags.getLsbD c = true ↔
      (s.ctx x.f.tag.ctx).csrs.fflags.getLsbD c = true ∨ (raised c ∧ disposition x.cap.exc c ≠ 0))) ∧
    let t := s.setFlags x.f.tag.ctx x.cap (x.n.lane == .jet) fl
    -- the first HALT class faults
    (∀ c, first 3 c → x.finish s os fl addr = x.fault t (haltCause c) addr (fl := fl)) ∧
    -- otherwise the first TOKEN class puts one error token on each output
    (∀ c, (∀ k, ¬(acting k ∧ disposition x.cap.exc k = 3)) → first 2 c →
      x.finish s os fl addr = x.emitAll t ((List.range x.outputs).map fun j => match os.find? (·.out == j) with
        | some o => { out := j, keepTag := o.keepTag, tok := { x.errTok (c + 1) addr with tag := o.tok.tag, span := spanOf os j } }
        | none => { out := j, tok := x.errTok (c + 1) addr })) ∧
    -- otherwise the outputs are emitted
    ((∀ k, ¬(acting k ∧ 2 ≤ disposition x.cap.exc k)) → x.finish s os fl addr = x.emitAll t os)

/-- R108 and R43: an emitted token takes one entry that waits for each of its destinations; a token of an output without
destination takes none; with all sixteen entries taken, the Emit waits (R109). Two entries are kept for class 0 (R324). -/
def Obligations.EmittedTokensTakeOneEntry : Prop :=
  ∀ (s : State) (n e slot : Nat) (t : Tok) (ds : List (Nat × Nat × Nat)),
    (ds = [] → s.emitTo n e slot t ds = s) ∧
    (ds ≠ [] → (s.elem n e).emitq = [] → (s.elem n e).out.length < 14 →
      ((s.emitTo n e slot t ds).elem n e).out = (s.elem n e).out ++
        [{ id := s.fresh, slot := slot, tok := t, dests := ds, sent := [] }] ∧
      ((s.emitTo n e slot t ds).elem n e).emitq = []) ∧
    (ds ≠ [] → 16 ≤ (s.elem n e).out.length → (s.elem n e).emitq = [] →
      ((s.emitTo n e slot t ds).elem n e).out = (s.elem n e).out ∧
      ((s.emitTo n e slot t ds).elem n e).emitq = [{ id := s.fresh, slot := slot, tok := t, dests := ds, sent := [] }])

/-- The frame of every instruction that only computes: every byte of memory, every other element, core, context, group, barrier,
link and transfer stays as it was; of its own element the slots, the concordance and the rest stay, of its own context every register
but FFLAGS and JFLAGS. A halting fault of the firing itself, with the cause and the operation that its element notes, is part of the
frame (R355). -/
def Obligations.ValueFiringsOnlyEmit : Prop :=
  ∀ mk ∈ ([.pass, .copy, .steer, .merge, .gate, .sync, .const, .sink, .select, .tnext, .retag, .tget, .tset, .split, .bcast, .perm,
      .eos, .iseos, .errt, .mkerr, .itidx, .conv, .iadd, .isub, .imul, .imulh, .imad, .idiv, .irem, .ineg, .iabs, .imin, .imax,
      .iadds, .isubs, .icmp, .idot4, .iclamp, .andw, .orw, .xorw, .notw, .andn, .shl, .shr, .sar, .rotl, .popc, .clz, .ctz, .brev,
      .bfx, .bfi, .addr, .fadd, .fsub, .fmul, .ffma, .fdiv, .fsqrt, .frcp, .frsq, .fmin, .fmax, .fabs, .fneg, .fcmp, .fclass, .frnd,
      .fscale, .fgetx, .fdot2, .fcpsgn, .fclamp, .cvt, .cvti, .cvtf, .gpack, .gunpk, .unp3, .npack, .nunpk, .movb, .fexp, .fexp2,
      .flog, .flog2, .fsin, .fcos, .ftanh, .fsigm, .ferf, .fatan, .fpown, .jseed, .jlift, .jget, .jput, .jtrunc, .jdiff, .jintg,
      .jeval, .jcomp, .jflag, .jclrf, .jscal, .jderv, .ordn, .ordj, .ordf, .rng] : List (Node → Instr)),
  ∀ (n : Node) (s t : State) (f : Firing), s.firing = some f → f.placed → exec (mk n) s = .next t → FiringFrame f s t

/-- R116 and R120: payload, format and run are the input's; on a jet lane a jet keeps its coefficients up to the cap K, and where
K is 0 it raises FMT and its c_0 alone is read (R169, R170); EOS is set where any input carries it (R97). The tag fields of
RETAG are those of a token header (R46). -/
def Obligations.FabricMovesKeepTheirData : Prop :=
  (∀ p ∈ ([(.pass, 0x001, fun _ t => t), (.copy, 0x002, fun _ t => t), (.gate, 0x005, fun _ t => t),
      (.eos, 0x014, fun _ t => { t with eos := true }),
      (.tnext, 0x00A, fun n t => { t with tag := { t.tag with iter := BitVec.ofNat 16 (t.tag.iter.toNat + n.imm.toNat) } }),
      (.tset, 0x00D, fun n t => { t with tag := (if field (md n) 1 0 = 0 then { t.tag with iter := BitVec.ofNat 16 n.imm.toNat }
        else if field (md n) 1 0 = 1 then { t.tag with space := BitVec.ofNat 8 n.imm.toNat }
        else { t.tag with frame := BitVec.ofNat 14 n.imm.toNat }) })] : List ((Node → Instr) × Nat × (Node → Tok → Tok))),
    ∀ (n : Node) (s : State) (f : Firing), Loaded p.2.1 n s f →
      let x := s.fireOf p.2.1 n f
      Ends (p.1 n) p.2.1 n s f (one 0 (p.2.2 n { x.capped.port 0 with eos := f.inputs.any (·.eos), port := 0, deps := x.deps })) x.jetFlag) ∧
  (∀ (n : Node) (s : State) (f : Firing), Loaded 0x006 n s f →
    let x := s.fireOf 0x006 n f
    Ends (.sync n) 0x006 n s f ((List.range n.arity.toNat).map fun j =>
      { out := j, tok := { x.capped.port j with eos := f.inputs.any (·.eos), port := 0, deps := x.deps } }) x.jetFlag) ∧
  -- a jet keeps its coefficients up to K on a jet lane; K = 0 raises FMT; nothing changes on other lanes (R169, R170)
  (∀ (x : Fire) (p : Nat), x.n.lane ≠ .jet → x.capped.port p = x.port p ∧ x.jetFlag = 0) ∧
  (∀ (x : Fire) (p : Nat) (t : Tok), x.n.lane = .jet → x.port? p = some t → p ∈ x.dataPorts →
    let c := x.capped.port p
    c.tag = t.tag ∧ c.fmt = t.fmt ∧ c.run = t.run ∧ c.jet.toNat = min t.jet.toNat x.capK ∧
    (∀ j k, j ≤ c.jet.toNat → k < t.len → c.elem t.esize j k = t.elem t.esize j k) ∧
    (x.capK = 0 → t.jet ≠ 0 → x.jetFlag = flag clsFMT 0) ∧ (x.capK ≠ 0 → x.jetFlag = 0)) ∧
  ∀ (n : Node) (s : State) (f : Firing) (v : Tok), Loaded 0x00B n s f →
    f.inputs.find? (·.port.toNat == 1) = some v → v.data.length = 8 → v.run = 0 →
    let x := s.fireOf 0x00B n f
    let u := x.capped.port 0
    let g := leNat v.data
    let tag : Tag := { u.tag with
      die := if bitOf (md n) 3 then BitVec.ofNat 4 (field g 57 54) else u.tag.die,
      frame := if bitOf (md n) 2 then BitVec.ofNat 14 (field g 53 40) else u.tag.frame,
      space := if bitOf (md n) 1 then BitVec.ofNat 8 (field g 39 32) else u.tag.space,
      iter := if bitOf (md n) 0 then BitVec.ofNat 16 (field g 31 16) else u.tag.iter }
    tag.die.toNat < 8 →
    Ends (.retag n) 0x00B n s f (one 0 { u with tag := tag, eos := f.inputs.any (·.eos), port := 0, deps := x.deps }) x.jetFlag

/-- R117 to R125. The pieces of a STEER are consecutive, cover the run, and change the side from one to the next. SELECT is stated on
plain lanes; its jets are in SelectTakesTheLeastOrder. -/
def Obligations.FabricRoutesElements : Prop :=
  (∀ (n : Node) (s : State) (f : Firing), Loaded 0x003 n s f →
    let x := (s.fireOf 0x003 n f).capped
    let u : Tok := { x.port 0 with eos := x.eos, deps := x.deps, port := 0 }
    ∃ ps : List (Nat × Nat), Ends (.steer n) 0x003 n s f (ps.map fun p =>
        { out := if x.pred 1 p.1 then 0 else 1, tok := u.slice p.1 p.2 }) (s.fireOf 0x003 n f).jetFlag ∧
      (ps.map (·.2)).sum = f.len ∧ (∀ p ∈ ps, 1 ≤ p.2) ∧
      (∀ i p, ps[i]? = some p → p.1 = ((ps.take i).map (·.2)).sum ∧ (∀ j < p.2, x.pred 1 (p.1 + j) = x.pred 1 p.1) ∧
        ∀ q, ps[i + 1]? = some q → x.pred 1 q.1 ≠ x.pred 1 p.1)) ∧
  (∀ (n : Node) (s : State) (f : Firing), Loaded 0x00E n s f →
    let x := (s.fireOf 0x00E n f).capped
    let k := field (md n) 4 0 + 1
    let u : Tok := { x.port 0 with eos := x.eos, deps := x.deps, port := 0 }
    Ends (.split n) 0x00E n s f ((List.range ((u.len + k - 1) / k)).map fun i =>
      { out := 0, tok := u.slice (i * k) (min k (u.len - i * k)) }) (s.fireOf 0x00E n f).jetFlag) ∧
  (∀ (n : Node) (s : State) (f : Firing), Loaded 0x010 n s f →
    let u := (s.fireOf 0x010 n f).capped.port 0
    ∃ t, Ends (.bcast n) 0x010 n s f (one 0 t) ((if u.run = 0 then 0 else flag clsFMT 0) ||| (s.fireOf 0x010 n f).jetFlag) ∧
      Shape f t u.fmt u.esize (field (md n) 4 0 + 1) u.planes ∧
      ∀ j k, j < u.planes → k ≤ field (md n) 4 0 →
        payloadElem t u.esize (field (md n) 4 0 + 1) j k = u.elem u.esize j 0 % 2 ^ (8 * u.esize)) ∧
  (∀ (n : Node) (s : State) (f : Firing), Loaded 0x009 n s f → n.lane ≠ .jet →
    let x := s.fireOf 0x009 n f
    let w := (x.port 1).esize
    ∃ t, Emits (.select n) 0x009 n s f (one 0 t) ∧
      Elements f t n.fmt w f.len fun k => (if x.pred 0 k then x.port 1 else x.port 2).elem w 0 k) ∧
  (∀ (n : Node) (s : State) (f : Firing), Loaded 0x013 n s f →
    let x := s.fireOf 0x013 n f
    let u := x.capped.port 0
    let idx (k : Nat) : Nat := ((x.pool s.consumed (im n) 32).getD k 0).toNat
    ∃ t, Ends (.perm n) 0x013 n s f (one 0 t) x.jetFlag ∧ Shape f t n.fmt u.esize f.len u.planes ∧
      ∀ j k, j < u.planes → k < f.len → payloadElem t u.esize f.len j k =
        (if idx k < f.len then u.elem u.esize j (idx k) else 0) % 2 ^ (8 * u.esize)) ∧
  ∀ (n : Node) (s : State) (f : Firing), Fires s f →
    let x := s.fireOf 0x004 n f
    (Moves 0x004 n s f → exec (.merge n) s = .next (s.movedTo 0x004 n f
      (x.capped.emitAll s.consumed (x.capped.f.inputs.map fun u => { out := 0, tok := { u with port := 0 } })))) ∧
    (¬Moves 0x004 n s f → exec (.merge n) s = .next (x.finish s.consumed [] (flag clsFMT 0)))

/-- R116, R121, R123 and R126; the error token of MKERR is laid out as R91 lays it out. JOIN is stated for a block of one format and
element size; what a mixed block gives the manual does not say (log 11). Where a jet meets a K of 0, the disposition of FMT decides whether the firing goes on (R170). -/
def Obligations.FabricMakesTokens : Prop :=
  (∀ (n : Node) (s : State) (f : Firing), Loaded 0x007 n s f →
    let x := s.fireOf 0x007 n f
    let v := if bitOf (md n) 0 then leNat (x.pool s.consumed (im n) (nodeSize n)) else immPattern n
    (n.lane ≠ .jet → ∃ t, Emits (.const n) 0x007 n s f (one 0 t) ∧ Elements f t n.fmt (nodeSize n) f.len fun _ => v) ∧
    (n.lane = .jet → n.fmt ≠ .I → ∀ fr, s.frame f.tag = some fr → ∃ t, Emits (.const n) 0x007 n s f (one 0 t) ∧
      Jets f t n.fmt fr.jord.toNat fun _ j => if j = 0 then v else 0)) ∧
  (∀ (n : Node) (s : State) (f : Firing), Fires s f → Moves 0x008 n s f → exec (.sink n) s = .next (s.movedTo 0x008 n f s.consumed)) ∧
  (∀ (n : Node) (s : State) (f : Firing), Loaded 0x00C n s f → ∃ t, Emits (.tget n) 0x00C n s f (one 0 t) ∧
    Elements f t .I 8 f.len fun k => f.tag.ctx.toNat * 2 ^ 58 + f.tag.die.toNat * 2 ^ 54 + f.tag.frame.toNat * 2 ^ 40 +
      f.tag.space.toNat * 2 ^ 32 + (f.tag.iter.toNat + k) % 65536 * 2 ^ 16) ∧
  (∀ (n : Node) (s : State) (f : Firing), Loaded 0x018 n s f → ∃ t, Emits (.itidx n) 0x018 n s f (one 0 t) ∧
    Elements f t .I (intWidth n / 8) f.len fun k => (f.tag.iter.toNat + k) % 65536) ∧
  (∀ (n : Node) (s : State) (f : Firing), Loaded 0x015 n s f →
    let x := s.fireOf 0x015 n f
    ∃ t, Ends (.iseos n) 0x015 n s f (one 0 t ++ one 1 { x.capped.port 0 with eos := x.eos, deps := x.deps, port := 0 }) x.jetFlag ∧
      Elements f t .I 4 f.len fun k => if x.eos ∧ k + 1 = f.len then 1 else 0) ∧
  (∀ (n : Node) (s : State) (f : Firing), Fires s f → Moves 0x016 n s f →
    let x := (s.fireOf 0x016 n f).capped
    let u := x.port 0
    ∃ t v, exec (.errt n) s = .next (s.movedTo 0x016 n f (x.emitAll s.consumed (one 0 t ++ one 1 v))) ∧
      (u.isErr = true → Elements f t .I 4 1 (fun _ => 1) ∧
        (bitOf (md n) 0 = true → v.data = u.data ∧ v.fmt = .I ∧ v.len = 2 ∧ v.tag = f.tag) ∧
        (bitOf (md n) 0 = false → v = { u with eos := x.eos, deps := x.deps, port := 0 })) ∧
      (u.isErr = false → Elements f t .I 4 f.len (fun _ => 0) ∧ v = { u with eos := x.eos, deps := x.deps, port := 0 })) ∧
  (∀ (n : Node) (s : State) (f : Firing), Loaded 0x017 n s f → ∃ t, Emits (.mkerr n) 0x017 n s f (one 0 t) ∧
    t.fmt = .X ∧ t.tag = f.tag ∧ t.run = 0 ∧ t.data = leBytes 8 (coreIn f.n * 2 ^ 46 + dieOf f.n * 2 ^ 42 +
      f.img.nodeid.toNat * 2 ^ 24 + n.imm.toNat % 256) ++ leBytes 8 0) ∧
  (∀ (n : Node) (s : State) (f : Firing) (u : Tok) (w : Nat), Loaded 0x00F n s f → f.inputs ≠ [] →
    (∀ t ∈ f.inputs, t.fmt = u.fmt ∧ t.esize = w ∧ (n.lane ≠ .jet → t.jet = u.jet)) → (f.inputs.map Tok.len).sum = f.len →
    Moves 0x00F n s f →
    let x := (s.fireOf 0x00F n f).capped
    let jets := (x.f.inputs.map (·.jet.toNat)).filter (· ≠ 0)
    let o := if n.lane = .jet then jets.foldl min (jets.headD 0) else u.jet.toNat
    ∃ t, exec (.join n) s = .next (s.movedTo 0x00F n f (x.finish (s.consumed.choice f.inputs.length).2 (one 0 t) 0)) ∧
      Shape f t u.fmt w f.len (o + 1) ∧
      ∀ j i k v, j ≤ o → x.f.inputs[i]? = some v → k < v.len →
        payloadElem t w f.len j (((f.inputs.take i).map Tok.len).sum + k) = (if j ≤ v.jet.toNat then v.elem w j k else 0) % 2 ^ (8 * w)) ∧
  -- where a jet meets a K of 0 and FMT ends the firing (R170)
  (∀ (n : Node) (s : State) (f : Firing) o i, (o, i) ∈ [(0x008, Instr.sink n), (0x016, .errt n), (0x00F, .join n)] →
    (if o = 0x00F then Loaded o n s f else Fires s f) → ¬Moves o n s f → exec i s = .next ((s.fireOf o n f).finish s.consumed [] (flag clsFMT 0))) ∧
  ∀ (n : Node) (s : State) (f : Firing), Loaded 0x009 n s f → n.lane = .jet →
    let x := s.fireOf 0x009 n f
    let a := x.port 1
    let b := x.port 2
    let o := min (min a.jet.toNat b.jet.toNat) x.capK
    ∃ t, Ends (.select n) 0x009 n s f (one 0 t) (x.jetOff [1, 2]) ∧ Shape f t n.fmt a.esize f.len (o + 1) ∧
      ∀ j k, j ≤ o → k < f.len → payloadElem t a.esize f.len j k =
        (if x.pred 0 k then a else b).elem a.esize j k % 2 ^ (8 * a.esize)

/-- R81 and R127 for the run form on integers: addition and multiplication modulo 2^w, minimum and maximum as the type compares, the bitwise operations; each element joins the running value from
the left. -/
def Obligations.FoldsAreLeftToRight : Prop :=
  ∀ (n : Node) (s : State) (f : Firing) (u : Tok), n.fmt = .I → n.lane = .value → bitOf (im n) 5 = false →
    f.inputs = [u] → u.port = 0 → u.jet = 0 → u.isErr = false → u.len = f.len → f.tag = u.tag →
    let w := intWidth n
    let step (a b : Nat) : Nat := match field (md n) 2 0 with
      | 0 => (a + b) % 2 ^ w
      | 1 => a * b % 2 ^ w
      | 2 => if readInt w (isUns n) b < readInt w (isUns n) a then b else a
      | 3 => if readInt w (isUns n) a < readInt w (isUns n) b then b else a
      | 4 => a &&& b
      | 5 => a ||| b
      | _ => a ^^^ b
    let upTo (k : Nat) : Nat := (List.range k).foldl (fun a i => step a (u.elem (w / 8) 0 (i + 1))) (u.elem (w / 8) 0 0)
    (Loaded 0x011 n s f → ∃ t, Emits (.reduce n) 0x011 n s f (one 0 t) ∧
      Elements f t .I (w / 8) 1 fun _ => upTo (f.len - 1)) ∧
    (Loaded 0x012 n s f → ∃ t, Emits (.scan n) 0x012 n s f (one 0 t) ∧ Elements f t .I (w / 8) f.len upTo)

/-- R93, R127 and R421: over a group, the first error token leaves with ABSORBED raised by the tokens that the fold would still have
reached; without one, one result leaves at the group's tag. A SCAN passes an error token on and keeps it for the rest of the group. -/
def Obligations.GroupFoldsEmitOnce : Prop :=
  (∀ (n : Node) (s : State) (f : Firing), s.firing = some f → (s.fireOf 0x011 n f).needsSup = false → isGroup n = true →
    let x := s.fireOf 0x011 n f
    let ts := f.inputs.filter (·.port == 0)
    (∀ i u, (∀ j v, j < i → ts[j]? = some v → v.isErr = false) → ts[i]? = some u → u.isErr = true →
      exec (.reduce n) s = .next (x.emitAll (s.consumed.count f.tag.ctx f.n f.elem 0x0E (ts.length - i - 1))
        ((List.range x.outputs).map fun j => { out := j, tok :=
          { x.tok .X 1 0 (absorb (ts.length - i - 1) u.data) with tag := u.tag, span := x.outSpan } }))) ∧
    ((∀ u ∈ ts, u.isErr = false) → ∃ t fl, Ends (.reduce n) 0x011 n s f (one 0 t) fl ∧ t.tag = f.tag ∧ t.run = 0 ∧ t.fmt = n.fmt)) ∧
  ∀ (n : Node) (s : State) (f : Firing), s.firing = some f → (s.fireOf 0x012 n f).needsSup = false → isGroup n = true →
    let x := s.fireOf 0x012 n f
    ∀ u, x.port 0 = u → u.isErr = true →
      let held := (s.elem f.n f.elem).folds.find? fun h => h.slot == f.slot && h.tag.sameKey u.tag && h.group == f.part
      let deps := joinDeps x.deps (match held with | some h => h.deps | none => [])
      let os := one 0 { x.tok .X 1 0 u.data with tag := u.tag, deps := deps, span := u.reach - 1 }
      (x.emitsAll s.consumed os = true →
        exec (.scan n) s = .next ((x.emitAll s.consumed os).scanNext x u [] 0 (some u.data) deps)) ∧
      -- a TAGOP that finds no instance ends the firing (R7)
      (x.emitsAll s.consumed os = false → exec (.scan n) s = .next (x.emitAll s.consumed os))

/-- R133 and R134: operands as exact integers of the type of MOD[5:3], the row's operation, the result modulo 2^w; none of these
raises a flag, at any width, signedness and immediate form. -/
def Obligations.IntegerResultsModuloWidth : Prop :=
  (∀ p ∈ ([(.iadd, 0x040, fun _ a b _ => a + b), (.isub, 0x041, fun _ a b _ => a - b), (.imul, 0x042, fun _ a b _ => a * b),
      (.imulh, 0x043, fun w a b _ => a * b / (2 ^ w : Nat)), (.imad, 0x044, fun _ a b c => a * b + c), (.ineg, 0x047, fun _ a _ _ => -a),
      (.iabs, 0x048, fun _ a _ _ => if a < 0 then -a else a), (.imin, 0x049, fun _ a b _ => if a < b then a else b),
      (.imax, 0x04A, fun _ a b _ => if a < b then b else a),
      (.iclamp, 0x04F, fun _ a b c => if c < (if a < b then b else a) then c else (if a < b then b else a))] :
      List ((Node → Instr) × Nat × (Nat → Int → Int → Int → Int))),
    ∀ (n : Node) (s : State) (f : Firing), Loaded p.2.1 n s f →
      let x := s.fireOf p.2.1 n f
      let w := intWidth n
      let rd (q k : Nat) : Int := readInt w (isUns n) (x.arg q k)
      ∃ t, Emits (p.1 n) p.2.1 n s f (one 0 t) ∧
        Elements f t .I (w / 8) f.len fun k => (p.2.2 w (rd 0 k) (rd 1 k) (rd 2 k) % (2 ^ w : Nat)).toNat) ∧
  (∀ (n : Node) (s : State) (f : Firing), Loaded 0x04D n s f →
    let x := s.fireOf 0x04D n f
    let rd (q k : Nat) : Int := readInt (intWidth n) (isUns n) (x.arg q k)
    let holds (k : Nat) : Bool := match field (md n) 2 0 with
      | 0 => rd 0 k = rd 1 k | 1 => rd 0 k ≠ rd 1 k | 2 => rd 0 k < rd 1 k | 3 => rd 0 k ≤ rd 1 k | 4 => rd 1 k < rd 0 k
      | _ => rd 1 k ≤ rd 0 k
    ∃ t, Emits (.icmp n) 0x04D n s f (one 0 t) ∧ Elements f t .I 4 f.len fun k => if holds k then 1 else 0) ∧
  ∀ (n : Node) (s : State) (f : Firing), Loaded 0x05F n s f →
    let x := s.fireOf 0x05F n f
    ∃ t, Emits (.addr n) 0x05F n s f (one 0 t) ∧ Elements f t .I 8 f.len fun k =>
      ((((x.port 0).elem 8 0 k : Int) + readInt (intWidth n) (isUns n) (x.arg 1 k) * 2 ^ field (im n) 2 0 + immHi n) % (2 ^ 64 : Nat)).toNat

/-- R135, and the clamped rows of R133, and R136: division by zero, the one overflowing quotient, truncation toward zero, a remainder
with the sign of a, saturation with OF. -/
def Obligations.IntegerCornerCases : Prop :=
  ∀ p ∈ ([(.idiv, 0x045, fun w uns a b => if b = 0 then (-1, flag clsDZ 0)
        else if uns = false ∧ a = -(2 ^ (w - 1) : Nat) ∧ b = -1 then (a, flag clsOF 0) else (a.tdiv b, 0)),
      (.irem, 0x046, fun w uns a b => if b = 0 then (a, flag clsDZ 0)
        else if uns = false ∧ a = -(2 ^ (w - 1) : Nat) ∧ b = -1 then (0, flag clsOF 0) else (a.tmod b, 0)),
      (.iadds, 0x04B, fun w uns a b =>
        let lo : Int := if uns then 0 else -(2 ^ (w - 1) : Nat)
        let hi : Int := if uns then (2 ^ w : Nat) - 1 else (2 ^ (w - 1) : Nat) - 1
        (max lo (min hi (a + b)), if a + b < lo ∨ hi < a + b then flag clsOF 0 else 0)),
      (.isubs, 0x04C, fun w uns a b =>
        let lo : Int := if uns then 0 else -(2 ^ (w - 1) : Nat)
        let hi : Int := if uns then (2 ^ w : Nat) - 1 else (2 ^ (w - 1) : Nat) - 1
        (max lo (min hi (a - b)), if a - b < lo ∨ hi < a - b then flag clsOF 0 else 0))] :
      List ((Node → Instr) × Nat × (Nat → Bool → Int → Int → Int × Nat))),
  (∀ (n : Node) (s : State) (f : Firing), Loaded p.2.1 n s f →
    let x := s.fireOf p.2.1 n f
    let w := intWidth n
    let r (k : Nat) := p.2.2 w (isUns n) (readInt w (isUns n) (x.arg 0 k)) (readInt w (isUns n) (x.arg 1 k))
    ∃ t, Ends (p.1 n) p.2.1 n s f (one 0 t) (orAll f.len fun k => (r k).2) ∧
      Elements f t .I (w / 8) f.len fun k => ((r k).1 % (2 ^ w : Nat)).toNat) ∧
  ∀ (n : Node) (s : State) (f : Firing), Loaded 0x04E n s f →
    let x := s.fireOf 0x04E n f
    let w := intWidth n
    let byte (q k i : Nat) (uns : Bool) : Int := readInt 8 uns (field ((x.port q).elem 4 0 k) (8 * i + 7) (8 * i))
    let sum (k : Nat) : Int := readInt w false ((x.port 2).elem (w / 8) 0 k) +
      byte 0 k 0 (bitOf (md n) 1) * byte 1 k 0 (bitOf (md n) 0) + byte 0 k 1 (bitOf (md n) 1) * byte 1 k 1 (bitOf (md n) 0) +
      byte 0 k 2 (bitOf (md n) 1) * byte 1 k 2 (bitOf (md n) 0) + byte 0 k 3 (bitOf (md n) 1) * byte 1 k 3 (bitOf (md n) 0)
    let out (k : Nat) : Prop := bitOf (md n) 2 = true ∧ (sum k < -(2 ^ (w - 1) : Nat) ∨ (2 ^ (w - 1) : Nat) - 1 < sum k)
    ∃ t fl, Ends (.idot4 n) 0x04E n s f (one 0 t) fl ∧ (fl = 0 ∨ fl = flag clsOF 0) ∧ (fl = flag clsOF 0 ↔ ∃ k < f.len, out k) ∧
      ∃ v : Nat → Nat, Elements f t .I (w / 8) f.len v ∧ ∀ k < f.len,
        (¬out k → v k = (sum k % (2 ^ w : Nat)).toNat) ∧
        (out k → v k = if sum k < 0 then 2 ^ (w - 1) else 2 ^ (w - 1) - 1)

/-- R133, the logic rows, as properties of each bit: shifts and rotations by b mod w, sign fill, bit reversal, the field
instructions for every position and length that R133 admits, and the three counts. -/
def Obligations.LogicResultsBitByBit : Prop :=
  (∀ p ∈ ([(.andw, 0x050, fun _ _ a b i => a i && b i), (.orw, 0x051, fun _ _ a b i => a i || b i),
      (.xorw, 0x052, fun _ _ a b i => a i != b i), (.notw, 0x053, fun _ _ a _ i => !a i),
      (.andn, 0x054, fun _ _ a b i => a i && !b i), (.shl, 0x055, fun _ k a _ i => k ≤ i && a (i - k)),
      (.shr, 0x056, fun w k a _ i => i + k < w && a (i + k)), (.sar, 0x057, fun w k a _ i => a (min (i + k) (w - 1))),
      (.rotl, 0x058, fun w k a _ i => a ((i + w - k) % w)), (.brev, 0x05C, fun w _ a _ i => a (w - 1 - i))] :
      List ((Node → Instr) × Nat × (Nat → Nat → (Nat → Bool) → (Nat → Bool) → Nat → Bool))),
    ∀ (n : Node) (s : State) (f : Firing), Loaded p.2.1 n s f →
      let x := s.fireOf p.2.1 n f
      let w := intWidth n
      ∃ t v, Emits (p.1 n) p.2.1 n s f (one 0 t) ∧ Elements f t .I (w / 8) f.len v ∧
        ∀ k i, k < f.len → i < w →
          (v k).testBit i = p.2.2 w (x.arg 1 k % w) (x.arg 0 k).testBit (x.arg 1 k).testBit i) ∧
  (∀ (n : Node) (s : State) (f : Firing), Loaded 0x05D n s f → 1 ≤ field (im n) 13 8 →
    let x := s.fireOf 0x05D n f
    let w := intWidth n
    let pos := field (im n) 5 0
    let len := field (im n) 13 8
    pos + len ≤ w →
    ∃ t v, Emits (.bfx n) 0x05D n s f (one 0 t) ∧ Elements f t .I (w / 8) f.len v ∧ ∀ k i, k < f.len → i < w →
      (v k).testBit i = if i < len then (x.arg 0 k).testBit (pos + i) else !isUns n && (x.arg 0 k).testBit (pos + len - 1)) ∧
  (∀ (n : Node) (s : State) (f : Firing), Loaded 0x05E n s f →
    let x := s.fireOf 0x05E n f
    let w := intWidth n
    let pos := field (im n) 5 0
    let len := field (im n) 13 8
    pos + len ≤ w →
    ∃ t v, Emits (.bfi n) 0x05E n s f (one 0 t) ∧ Elements f t .I (w / 8) f.len v ∧ ∀ k i, k < f.len → i < w →
      (v k).testBit i = if pos ≤ i ∧ i < pos + len then (x.arg 1 k).testBit (i - pos) else (x.arg 0 k).testBit i) ∧
  (∀ (n : Node) (s : State) (f : Firing), Loaded 0x059 n s f →
    let x := s.fireOf 0x059 n f
    let w := intWidth n
    ∃ t, Emits (.popc n) 0x059 n s f (one 0 t) ∧ Elements f t .I (w / 8) f.len fun k =>
      ((List.range w).map fun i => if (x.arg 0 k).testBit i then 1 else 0).sum) ∧
  (∀ (n : Node) (s : State) (f : Firing), Loaded 0x05A n s f →
    let x := s.fireOf 0x05A n f
    let w := intWidth n
    ∃ t v, Emits (.clz n) 0x05A n s f (one 0 t) ∧ Elements f t .I (w / 8) f.len v ∧ ∀ k < f.len, v k ≤ w ∧
      (∀ i, w - v k ≤ i → i < w → (x.arg 0 k).testBit i = false) ∧ (v k < w → (x.arg 0 k).testBit (w - 1 - v k) = true)) ∧
  ∀ (n : Node) (s : State) (f : Firing), Loaded 0x05B n s f →
    let x := s.fireOf 0x05B n f
    let w := intWidth n
    ∃ t v, Emits (.ctz n) 0x05B n s f (one 0 t) ∧ Elements f t .I (w / 8) f.len v ∧ ∀ k < f.len, v k ≤ w ∧
      (∀ i < v k, (x.arg 0 k).testBit i = false) ∧ (v k < w → (x.arg 0 k).testBit (v k) = true)

/-- R137, R150, R175 and R176: one statement for every operand form, plain or jet: the element for iteration e is the series of its
row over the coefficients of the operands, of the order R169 gives (0 exactly where no operand is a jet or K is 0, else at most every
jet operand's order and K). What the series compute is stated in PlainFloatResultsAreRounded and SeriesSumRules. -/
def Obligations.FloatResultsFollowTheirSeries : Prop :=
  (∀ p ∈ ([(.fadd, 0x070, [0, 1], fun S k a b _ => S.add k a b), (.fsub, 0x071, [0, 1], fun S k a b _ => S.sub k a b),
      (.fmul, 0x072, [0, 1], fun S k a b _ => S.mul k a b), (.ffma, 0x073, [0, 1, 2], fun S k a b c => S.fma k a b c),
      (.fdiv, 0x074, [0, 1], fun S k a b _ => S.div k a b), (.fsqrt, 0x075, [0], fun S k a _ _ => S.sqrt k a),
      (.frcp, 0x076, [0], fun S k a _ _ => S.rcp k a), (.frsq, 0x077, [0], fun S k a _ _ => S.rsqrt k a),
      (.fmin, 0x078, [0, 1], fun S k a b _ => pick S false k a b), (.fmax, 0x079, [0, 1], fun S k a b _ => pick S true k a b),
      (.fabs, 0x07A, [0], fun S _ a _ _ => (absJet S a, 0)), (.fneg, 0x07B, [0], fun S _ a _ _ => (S.flip a, 0)),
      (.fcpsgn, 0x082, [0, 1], fun S _ a b _ => (copySign S a b, 0)), (.fclamp, 0x083, [0, 1, 2], fun S k a b c => clampFlt S k a b c),
      (.fexp, 0x0B0, [0], fun S k a _ _ => S.exp false k a), (.fexp2, 0x0B1, [0], fun S k a _ _ => S.exp true k a),
      (.flog, 0x0B2, [0], fun S k a _ _ => S.log false k a), (.flog2, 0x0B3, [0], fun S k a _ _ => S.log true k a),
      (.fsin, 0x0B4, [0], fun S k a _ _ => S.sinCos false k a), (.fcos, 0x0B5, [0], fun S k a _ _ => S.sinCos true k a),
      (.ftanh, 0x0B6, [0], fun S k a _ _ => S.tanh k a), (.fsigm, 0x0B7, [0], fun S k a _ _ => S.sigm k a),
      (.ferf, 0x0B8, [0], fun S k a _ _ => S.erf k a), (.fatan, 0x0B9, [0], fun S k a _ _ => S.atan k a)] :
      List ((Node → Instr) × Nat × List Nat × (Ser → Nat → List Nat → List Nat → List Nat → Coefs))),
    ∀ (n : Node) (s : State) (f : Firing), Loaded p.2.1 n s f →
      let x := s.fireOf p.2.1 n f
      let o := x.order? p.2.2.1
      let r (e : Nat) : Coefs := p.2.2.2 (x.ser e) o (x.coefs 0 e o) (x.coefs 1 e o) (x.coefs 2 e o)
      ∃ t, Ends (p.1 n) p.2.1 n s f (one 0 t) (orAll f.len (fun e => (r e).2) ||| x.jetOff p.2.2.1) ∧
        Jets f t n.fmt o fun e j => (r e).1.getD j 0) ∧
  (∀ p ∈ ([(.fscale, 0x07F, fun S k a m => S.scale k a m), (.fpown, 0x0BA, fun S k a m => S.pown k a m)] :
      List ((Node → Instr) × Nat × (Ser → Nat → List Nat → Int → Coefs))),
    ∀ (n : Node) (s : State) (f : Firing), Loaded p.2.1 n s f →
      let x := s.fireOf p.2.1 n f
      let o := x.order? [0]
      let r (e : Nat) : Coefs := p.2.2 (x.ser e) o (x.coefs 0 e o) (x.argI32 1 e)
      ∃ t, Ends (p.1 n) p.2.1 n s f (one 0 t) (orAll f.len (fun e => (r e).2) ||| x.jetOff [0]) ∧
        Jets f t n.fmt o fun e j => (r e).1.getD j 0) ∧
  (∀ (n : Node) (s : State) (f : Firing), Loaded 0x07E n s f →
    let x := s.fireOf 0x07E n f
    let o := x.order? [0]
    let r (e : Nat) := (x.ser e).rint (bitOf (md n) 0) (x.arg 0 e)
    ∃ t, Ends (.frnd n) 0x07E n s f (one 0 t) (orAll f.len (fun e => (r e).2) ||| x.jetOff [0]) ∧
      Jets f t n.fmt o fun e j => if j = 0 then (r e).1 else 0) ∧
  ∀ (x : Fire) (ps : List Nat),
    (x.order? ps = 0 ↔ x.capK = 0 ∨ ∀ p ∈ ps, x.ordOf p = 0) ∧
    (∀ p ∈ ps, x.ordOf p ≠ 0 → x.order? ps ≤ x.ordOf p) ∧ x.order? ps ≤ x.capK

/-- R68 to R71 and R78: for each of the five float formats and each rounding mode, a value that the format holds (normal, subnormal,
zero of either sign, infinity) is rounded to its own pattern without a flag. -/
def Obligations.RepresentableValuesRoundToThemselves : Prop :=
  ∀ (f : Fmt) (rm : Rm) (draw p : Nat), f ∈ [.D, .S, .H, .B, .Q] → p < 2 ^ fbits f → draw < 2 ^ 32 → isNanPat f p = false →
    roundX f rm draw (valueOf f p) = (p, 0)

/-- R137, R173 and R70: on plain lanes each row is Round of the exact operation, one rounding, with the flags of that operation and of
its signalling operands; any NaN operand gives the default NaN. -/
def Obligations.PlainFloatResultsAreRounded : Prop :=
  ∀ (S : Ser) (a b c : Nat), S.fmt ∈ [.D, .S, .H, .B, .Q] → (∀ j, S.draw j < 2 ^ 32) →
    let op (p : Nat) : FP := opnd S.fmt p
    let once (v : FP) : Coefs := ([(roundX S.fmt S.rm (S.draw 0) v.1).1], (roundX S.fmt S.rm (S.draw 0) v.1).2 ||| v.2)
    S.add 0 [a] [b] = once (addP S.rm (op a) (op b)) ∧
    S.sub 0 [a] [b] = once (addP S.rm (op a) ((op b).1.neg, (op b).2)) ∧
    S.mul 0 [a] [b] = once (mulP (op a) (op b)) ∧
    S.fma 0 [a] [b] [c] = once (addP S.rm (op c) (mulP (op a) (op b))) ∧
    S.div 0 [a] [b] = once (divP (op a) (op b)) ∧
    S.rcp 0 [a] = once (divP (.int 1, 0) (op a)) ∧
    S.sqrt 0 [a] = once (sqrtP (op a)) ∧
    S.rsqrt 0 [a] = once (rsqrtP (op a)) ∧
    (isNanPat S.fmt a = true ∨ isNanPat S.fmt b = true →
      (S.add 0 [a] [b]).1 = [defNan S.fmt] ∧ (S.sub 0 [a] [b]).1 = [defNan S.fmt] ∧ (S.mul 0 [a] [b]).1 = [defNan S.fmt] ∧
      (S.div 0 [a] [b]).1 = [defNan S.fmt])

/-- R175 with R137: each coefficient of a sum is rounded with its own draw; FNEG inverts every sign bit; FABS clears and FCPSGN copies the
sign bit of a plain value, NaN payloads unchanged (R70). -/
def Obligations.SeriesSumRules : Prop :=
  (∀ (S : Ser) (k j : Nat) (a b : List Nat), j ≤ k →
    (S.add k a b).1.length = k + 1 ∧ (S.sub k a b).1.length = k + 1 ∧
    (S.add k a b).1.getD j 0 = (roundX S.fmt S.rm (S.draw j) (addP S.rm (S.co a j) (S.co b j)).1).1 ∧
    (S.sub k a b).1.getD j 0 = (roundX S.fmt S.rm (S.draw j) (addP S.rm (S.co a j) ((S.co b j).1.neg, (S.co b j).2)).1).1) ∧
  (∀ (S : Ser) (a : List Nat) (j : Nat), S.fmt ∈ [.D, .S, .H, .B, .Q] → (∀ p ∈ a, p < 2 ^ fbits S.fmt) → j < a.length →
    let top := fbits S.fmt - 1
    -- every sign bit inverted, every other bit kept
    (∀ i < fbits S.fmt, ((S.flip a).getD j 0).testBit i = if i = top then !(a.getD j 0).testBit i else (a.getD j 0).testBit i)) ∧
  ∀ (S : Ser) (p q : Nat), S.fmt ∈ [.D, .S, .H, .B, .Q] → p < 2 ^ fbits S.fmt → q < 2 ^ fbits S.fmt →
    let top := fbits S.fmt - 1
    (∃ v, absJet S [p] = [v] ∧ ∀ i < fbits S.fmt, v.testBit i = if i = top then false else p.testBit i) ∧
    (∃ v, copySign S [p] [q] = [v] ∧ ∀ i < fbits S.fmt, v.testBit i = if i = top then q.testBit i else p.testBit i)

/-- R139, R140 and R141. FCMP: the conditions with their unordered cases, −0 equal to +0, IV only for a signalling NaN. FCLASS: the
one bit of each class, and no exception. FGETX: the unbiased exponent, with IV for zero, infinity and NaN. FDOT2: the exact sum of two
products and an addend rounded once, with the sign R84 gives an exact zero, and the default NaN with IV for a signalling NaN,
0 × ∞ or two infinities of opposite sign. On jet lanes FCMP and FCLASS read c_0 and raise FMT where K is 0 (R170). -/
def Obligations.ComparisonsAndClasses : Prop :=
  (∀ (n : Node) (s : State) (f : Firing), Loaded 0x07C n s f →
    let x := s.fireOf 0x07C n f
    let r (e : Nat) := cmpFlt n.fmt (field (md n) 2 0) (x.arg 0 e) (x.arg 1 e)
    ∃ t, Ends (.fcmp n) 0x07C n s f (one 0 t) (orAll f.len (fun e => (r e).2) ||| x.jetOff [0, 1]) ∧
      Elements f t .I 4 f.len fun e => (r e).1) ∧
  (∀ (n : Node) (s : State) (f : Firing), Loaded 0x07D n s f →
    let x := s.fireOf 0x07D n f
    ∃ t, Ends (.fclass n) 0x07D n s f (one 0 t) (x.jetOff [0]) ∧
      Elements f t .I 4 f.len fun e => 2 ^ classBit n.fmt (x.arg 0 e)) ∧
  (∀ (n : Node) (s : State) (f : Firing), Loaded 0x080 n s f →
    let x := s.fireOf 0x080 n f
    let r (e : Nat) := getExp n.fmt (x.arg 0 e)
    ∃ t, Ends (.fgetx n) 0x080 n s f (one 0 t) (orAll f.len fun e => (r e).2) ∧ Elements f t .I 4 f.len fun e => ofInt 32 (r e).1) ∧
  (∀ (n : Node) (s : State) (f : Firing), Loaded 0x081 n s f →
    let x := s.fireOf 0x081 n f
    -- value i of element e of port q, the exact products A0 × B0 and A1 × B1, and C
    let half (q e i : Nat) : FP := opnd n.fmt (field ((x.port q).elem 4 0 e) (16 * i + 15) (16 * i))
    let a (e : Nat) : FP := mulP (half 0 e 0) (half 1 e 0)
    let b (e : Nat) : FP := mulP (half 0 e 1) (half 1 e 1)
    let c (e : Nat) : FP := opnd .S ((x.port 2).elem 4 0 e)
    let terms (e : Nat) : List XV := [(a e).1, (b e).1, (c e).1]
    let invalid (e : Nat) : Prop := ((a e).2 ||| (b e).2 ||| (c e).2) % 2 = 1 ∨ (XV.inf true ∈ terms e ∧ XV.inf false ∈ terms e)
    let zeros (e : Nat) : Prop := ∀ v ∈ terms e, ∃ g q, v = XV.num g 0 q false
    let minus (e : Nat) : Prop := if x.cap.rm = .rdn then ∃ v ∈ terms e, v.sign = true else ∀ v ∈ terms e, v.sign = true
    let sum (e : Nat) : XV := (addP x.cap.rm (addP x.cap.rm (a e) (b e)) (c e)).1
    let round (e : Nat) (v : XV) : Nat × Nat := roundX .S x.cap.rm (x.drawAt f.tag e 0 0) v
    ∃ t v fl, Ends (.fdot2 n) 0x081 n s f (one 0 t) (orAll f.len fl) ∧ Elements f t .S 4 f.len v ∧ ∀ e < f.len,
      (invalid e → (v e, fl e) = (0x7FC0_0000, flag clsIV 0)) ∧
      -- the sign of an exact zero sum (R84), of zeros and of terms that cancel
      (¬ invalid e → zeros e → minus e → (v e, fl e) = (0x8000_0000, 0)) ∧
      (¬ invalid e → zeros e → ¬ minus e → (v e, fl e) = (0, 0)) ∧
      (¬ invalid e → ¬ zeros e → (∃ g q, sum e = XV.num g 0 q false) →
        (v e, fl e) = (if x.cap.rm = .rdn then 0x8000_0000 else 0, 0)) ∧
      (¬ invalid e → ¬ zeros e → (¬ ∃ g q, sum e = XV.num g 0 q false) → (v e, fl e) = round e (sum e))) ∧
  (∀ (f : Fmt) (a b : Nat), f ∈ [.D, .S, .H, .B, .Q] →
    -- unordered: false but for .ne and .unord; a NaN raises IV only where it signals
    (isNanPat f a = true ∨ isNanPat f b = true → ∀ c < 8, (cmpFlt f c a b).1 = if c = 1 ∨ c = 6 then 1 else 0) ∧
    (∀ c, (cmpFlt f c a b).2 = if isSig f a = true ∨ isSig f b = true then flag clsIV 0 else 0) ∧
    -- −0 equals +0
    (cmpFlt f 0 (2 ^ (fbits f - 1)) 0).1 = 1 ∧ (cmpFlt f 2 (2 ^ (fbits f - 1)) 0).1 = 0 ∧ (cmpFlt f 4 (2 ^ (fbits f - 1)) 0).1 = 0 ∧
    -- numbers: exactly one of .lt, .eq and .gt holds, and the other conditions follow from these
    (isNanPat f a = false → isNanPat f b = false →
      (cmpFlt f 2 a b).1 + (cmpFlt f 0 a b).1 + (cmpFlt f 4 a b).1 = 1 ∧ (cmpFlt f 7 a b).1 = 1 ∧ (cmpFlt f 6 a b).1 = 0 ∧
      (cmpFlt f 1 a b).1 = 1 - (cmpFlt f 0 a b).1 ∧
      (cmpFlt f 3 a b).1 = (cmpFlt f 2 a b).1 + (cmpFlt f 0 a b).1 ∧ (cmpFlt f 5 a b).1 = (cmpFlt f 4 a b).1 + (cmpFlt f 0 a b).1)) ∧
  (∀ (f : Fmt) (a : Nat), f ∈ [.D, .S, .H, .B, .Q] → a < 2 ^ fbits f →
    let minus := a.testBit (fbits f - 1)
    let number := isNanPat f a = false ∧ ∀ g, valueOf f a ≠ .inf g
    let ex := field a (fbits f - 2) (fracBits f)
    (classBit f a = 0 ↔ isSig f a = true) ∧ (classBit f a = 1 ↔ isNanPat f a = true ∧ isSig f a = false) ∧
    (classBit f a = 2 ↔ valueOf f a = .inf true) ∧ (classBit f a = 9 ↔ valueOf f a = .inf false) ∧
    (classBit f a = 5 ↔ a = 2 ^ (fbits f - 1)) ∧ (classBit f a = 6 ↔ a = 0) ∧
    (classBit f a = 3 ↔ number ∧ ex ≠ 0 ∧ minus = true) ∧ (classBit f a = 8 ↔ number ∧ ex ≠ 0 ∧ minus = false) ∧
    (classBit f a = 4 ↔ ex = 0 ∧ a % 2 ^ fracBits f ≠ 0 ∧ minus = true) ∧
    (classBit f a = 7 ↔ ex = 0 ∧ a % 2 ^ fracBits f ≠ 0 ∧ minus = false)) ∧
  ∀ (f : Fmt) (a : Nat), f ∈ [.D, .S, .H, .B, .Q] →
    (∀ g q, valueOf f a = .num g 0 q false → getExp f a = (-(2 ^ 31), flag clsIV 0)) ∧
    (∀ g, valueOf f a = .inf g → getExp f a = (2 ^ 31 - 1, flag clsIV 0)) ∧
    (valueOf f a = .nan → getExp f a = (2 ^ 31 - 1, flag clsIV 0)) ∧
    -- floor(log2 |m × 2^q|)
    (∀ (g st : Bool) (m k : Nat) (q : Int), valueOf f a = .num g m q st → 2 ^ k ≤ m → m < 2 ^ (k + 1) → getExp f a = ((k : Int) + q, 0))

/-- R142 to R144 on plain tokens: an equal format is emitted unchanged, a source of format G raises FMT and emits nothing, an integer or
a float is rounded once to a float, a float becomes the integer of its mode, with NaN 0 and what lies beyond the type the nearest
bound, both with IV. -/
def Obligations.ConversionsRoundOnce : Prop :=
  (∀ p ∈ ([(.cvt, 0x0A0), (.conv, 0x019)] : List ((Node → Instr) × Nat)),
    ∀ (n : Node) (s : State) (f : Firing) (u : Tok), Loaded p.2 n s f → n.lane = .value → f.inputs = [u] → u.port = 0 → u.jet = 0 →
      u.fmt ≠ .X →
      let x := s.fireOf p.2 n f
      (u.fmt = n.fmt → Emits (p.1 n) p.2 n s f (one 0 { u with deps := x.deps })) ∧
      (u.fmt ≠ n.fmt → u.fmt = .G → Ends (p.1 n) p.2 n s f [] (flag clsFMT 0)) ∧
      (u.fmt ≠ n.fmt → u.fmt ≠ .G →
        let src : NumTy := { fmt := u.fmt, w := intWidth n, uns := isUns n }
        let dst : NumTy := { fmt := n.fmt, w := intWidth n, uns := isUns n }
        let r (k : Nat) := cvtElem src dst x.cap.rm (x.drawAt f.tag k 0 0) (u.elem src.size 0 k)
        ∃ t, Ends (p.1 n) p.2 n s f (one 0 t) (orAll f.len fun k => (r k).2) ∧
          Elements f t n.fmt dst.size f.len fun k => (r k).1)) ∧
  (∀ (src dst : NumTy) (rm : Rm) (draw a : Nat), src.fmt = .I → dst.fmt ∈ [.D, .S, .H, .B, .Q] →
    cvtElem src dst rm draw a = roundX dst.fmt rm draw (.int (readInt src.w src.uns a))) ∧
  (∀ (src dst : NumTy) (rm : Rm) (draw a : Nat), src.fmt ∈ [.D, .S, .H, .B, .Q] → dst.fmt = .I →
    (isNanPat src.fmt a = true → (cvtElem src dst rm draw a).1 = 0 ∧ bitOf (cvtElem src dst rm draw a).2 0 = true) ∧
    (∀ sg, valueOf src.fmt a = .inf sg → (cvtElem src dst rm draw a).1 =
      ofInt dst.w (if sg then intMin dst.w dst.uns else intMax dst.w dst.uns) ∧ bitOf (cvtElem src dst rm draw a).2 0 = true) ∧
    -- a finite value: the integer of the rounding mode, the nearest bound with IV beyond the type, NX where it is not the value
    (∀ sg m e, valueOf src.fmt a = .num sg m e false → 1 ≤ dst.w → draw < 2 ^ 32 →
      let num : Int := (if sg then -1 else 1) * (m * 2 ^ e.toNat : Nat)
      let den : Nat := 2 ^ (-e).toNat
      let lo : Int := if dst.uns then 0 else -(2 ^ (dst.w - 1) : Nat)
      let hi : Int := if dst.uns then (2 ^ dst.w : Nat) - 1 else (2 ^ (dst.w - 1) : Nat) - 1
      ∃ v : Int, RoundsTo rm draw num den v ∧ (cvtElem src dst rm draw a).1 = (max lo (min v hi) % (2 ^ dst.w : Nat)).toNat ∧
        (cvtElem src dst rm draw a).2 = if v < lo ∨ hi < v then flag clsIV 0 else if v * den = num then 0 else flag clsNX 0)) ∧
  -- from float to float: a NaN becomes the default NaN, every other value is rounded once
  (∀ (src dst : NumTy) (rm : Rm) (draw a : Nat), src.fmt ∈ [.D, .S, .H, .B, .Q] → dst.fmt ∈ [.D, .S, .H, .B, .Q] →
    (isNanPat src.fmt a = true → cvtElem src dst rm draw a = (defNan dst.fmt, if isSig src.fmt a then flag clsIV 0 else 0)) ∧
    (isNanPat src.fmt a = false → cvtElem src dst rm draw a = roundX dst.fmt rm draw (valueOf src.fmt a)) ∧
    -- a wider format holds every value of a narrower one
    (isNanPat src.fmt a = false → src.fmt ∈ [.H, .B, .Q] → dst.fmt ∈ [.D, .S] → draw < 2 ^ 32 →
      (cvtElem src dst rm draw a).2 = 0 ∧ cmpX (valueOf dst.fmt (cvtElem src dst rm draw a).1) (valueOf src.fmt a) = 0)) ∧
  -- what rounding once means: a multiple of the quantum of the value's binade, in the mode's direction; beyond the largest finite
  -- value it is OF, with infinity or the largest finite value
  (∀ (f : Fmt) (rm : Rm) (draw m : Nat) (e : Int) (sg : Bool), f ∈ [.D, .S, .H, .B, .Q] → draw < 2 ^ 32 → m ≠ 0 →
    let r := roundX f rm draw (.num sg m e false)
    let q : Int := max (emin f) (Nat.log2 m + e) - fracBits f
    let num : Int := (if sg then -1 else 1) * (m * 2 ^ (e - q).toNat : Nat)
    let den : Nat := 2 ^ (q - e).toNat
    ∃ v : Int, RoundsTo rm draw num den v ∧
      (bitOf r.2 2 = true ↔ cmpX (.num false v.natAbs q false) (valueOf f (maxFin f)) = 1) ∧
      (bitOf r.2 2 = false → signOf f r.1 = sg ∧ cmpX (valueOf f r.1) (.num sg v.natAbs q false) = 0 ∧
        (bitOf r.2 4 = true ↔ v * den ≠ num)) ∧
      (bitOf r.2 2 = true → r.1 = withSign f sg (if f ≠ .Q ∧ rm ≠ .rtz ∧ (rm = .rup → sg = false) ∧ (rm = .rdn → sg = true)
        then infPat f else maxFin f))) ∧
  (∀ (n : Node) (s : State) (f : Firing), Loaded 0x0A1 n s f →
    let x := s.fireOf 0x0A1 n f
    let w := intWidth n
    let sw := 8 * 2 ^ field (md n) 2 1
    let v (k : Nat) : Int := readInt sw (bitOf (md n) 0) ((x.port 0).elem (sw / 8) 0 k)
    let lo : Int := if isUns n then 0 else -(2 ^ (w - 1) : Nat)
    let hi : Int := if isUns n then (2 ^ w : Nat) - 1 else (2 ^ (w - 1) : Nat) - 1
    let out (k : Nat) : Prop := bitOf (im n) 0 = true ∧ (v k < lo ∨ hi < v k)
    ∃ t fl, Ends (.cvti n) 0x0A1 n s f (one 0 t) fl ∧ (fl = 0 ∨ fl = flag clsOF 0) ∧ (fl = flag clsOF 0 ↔ ∃ k < f.len, out k) ∧
      Elements f t .I (w / 8) f.len fun k =>
        ((if bitOf (im n) 0 then max lo (min hi (v k)) else v k) % (2 ^ w : Nat)).toNat) ∧
  ∀ (n : Node) (s : State) (f : Firing), Loaded 0x0A2 n s f →
    let x := s.fireOf 0x0A2 n f
    let w := intWidth n
    let q := toSigned 8 (im n)
    (bitOf (md n) 0 = true →
      let r (k : Nat) := toIntP w (isUns n) x.cap.rm (x.drawAt f.tag k 0 0)
        (mulP (opnd n.fmt ((x.port 0).elem n.fmt.size 0 k)) (.num false 1 q false, 0))
      ∃ t, Ends (.cvtf n) 0x0A2 n s f (one 0 t) (orAll f.len fun k => (r k).2) ∧ Elements f t .I (w / 8) f.len fun k => (r k).1) ∧
    (bitOf (md n) 0 = false →
      let r (k : Nat) := roundP n.fmt x.cap.rm (x.drawAt f.tag k 0 0)
        (mulP (.int (readInt w (isUns n) ((x.port 0).elem (w / 8) 0 k)), 0) (.num false 1 (-q) false, 0))
      ∃ t, Ends (.cvtf n) 0x0A2 n s f (one 0 t) (orAll f.len fun k => (r k).2) ∧ Elements f t n.fmt n.fmt.size f.len fun k => (r k).1)

/-- R145 to R149: counts, tags and bits of what each packing and unpacking emits, with its refusals as FMT and its error tokens. -/
def Obligations.PackingsKeepTheirLayout : Prop :=
  (∀ (n : Node) (s : State) (f : Firing), Loaded 0x0A3 n s f →
    let x := s.fireOf 0x0A3 n f
    let xs := f.inputs.flatMap fun t => (List.range t.len).map fun k => valueOf t.fmt (t.elem t.fmt.size 0 k)
    let tag := f.tag.atIter (BitVec.ofNat 16 (f.part / 64))
    let r := gPack (field (md n) 1 0) x.cap.rm (fun i => draw64 x.cap.key.toNat tag.bits f.img.nodeid.toNat i 0 3 0 0 >>> 32)
      (xs ++ List.replicate (64 - xs.length) .zero)
    ∃ t, Ends (.gpack n) 0x0A3 n s f (one 0 t) r.2 ∧ t.fmt = .G ∧ t.run = 0 ∧ t.tag = tag ∧ t.data = r.1 ∧
      t.data.length = 8 + 8 * (gMag (field (md n) 1 0) + 1)) ∧
  (∀ (n : Node) (s : State) (f : Firing), Loaded 0x0A4 n s f →
    let x := s.fireOf 0x0A4 n f
    let v := field (md n) 1 0
    let bytes (j : Nat) := ((x.port 0).data.drop (j * gSize v)).take (gSize v)
    ∃ os fl, Ends (.gunpk n) 0x0A4 n s f os fl ∧ os.length = 2 * f.len ∧ ∀ i o, os[i]? = some o → o.out = 0 ∧
      o.tok.tag = f.tag.atIter (BitVec.ofNat 16 (64 * (f.tag.iter.toNat + i / 2) + 32 * (i % 2))) ∧
      (gExp (bytes (i / 2)) = 255 → o.tok.fmt = .X) ∧
      (gExp (bytes (i / 2)) ≠ 255 → o.tok.fmt = n.fmt ∧ o.tok.len = 32 ∧ ∀ k < 32, payloadElem o.tok n.fmt.size 32 0 k =
        (roundX n.fmt x.cap.rm (x.drawAt o.tok.tag k 0 0) (gElem v (bytes (i / 2)) (32 * (i % 2) + k))).1 % 2 ^ (8 * n.fmt.size))) ∧
  (∀ (n : Node) (s : State) (f : Firing), Loaded 0x0A5 n s f →
    let x := s.fireOf 0x0A5 n f
    let b (j : Nat) := (x.port 0).elem 1 0 j
    ∃ os, Emits (.unp3 n) 0x0A5 n s f os ∧ os.length = f.len ∧ ∀ j o, os[j]? = some o → o.out = 0 ∧
      o.tok.tag = f.tag.atIter (BitVec.ofNat 16 (5 * (f.tag.iter.toNat + j))) ∧
      (243 ≤ b j → o.tok.fmt = .X ∧ causeIn o.tok.data = 0x09) ∧
      -- the five digits, least significant ternary digit first, as −1, 0 and 1 in two's complement bytes
      (b j < 243 → o.tok.fmt = .I ∧ o.tok.len = 5 ∧ ∃ d : Nat → Nat, b j = d 0 + 3 * d 1 + 9 * d 2 + 27 * d 3 + 81 * d 4 ∧
        ∀ i < 5, d i < 3 ∧ payloadElem o.tok 1 5 0 i = (d i + 255) % 256)) ∧
  (∀ (n : Node) (s : State) (f : Firing), Loaded 0x0A6 n s f →
    let x := s.fireOf 0x0A6 n f
    let c (k : Nat) := clampInt 4 (isUns n) (readInt (intWidth n) (isUns n) (x.arg 0 k))
    (f.tag.iter.toNat % 8 ≠ 0 ∨ f.len % 8 ≠ 0 → Ends (.npack n) 0x0A6 n s f [] (flag clsFMT 0)) ∧
    (f.tag.iter.toNat % 8 = 0 → f.len % 8 = 0 →
      ∃ t fl, Ends (.npack n) 0x0A6 n s f (one 0 t) fl ∧ (fl = flag clsOF 0 ∨ fl = 0) ∧ (fl = flag clsOF 0 ↔ ∃ k < f.len, (c k).2 = true) ∧
        t.fmt = .I ∧ t.len = f.len / 8 ∧ t.tag = f.tag.atIter (BitVec.ofNat 16 (f.tag.iter.toNat / 8)) ∧
        ∀ k < f.len, field (payloadElem t 4 (f.len / 8) 0 (k / 8)) (4 * (k % 8) + 3) (4 * (k % 8)) = ofInt 4 (c k).1)) ∧
  (∀ (n : Node) (s : State) (f : Firing), Loaded 0x0A7 n s f → f.len ≤ 4 →
    let x := s.fireOf 0x0A7 n f
    ∃ t, Emits (.nunpk n) 0x0A7 n s f (one 0 t) ∧ t.fmt = .I ∧ t.len = 8 * f.len ∧
      t.tag = f.tag.atIter (BitVec.ofNat 16 (f.tag.iter.toNat * 8)) ∧
      ∀ k < 8 * f.len, payloadElem t (intWidth n / 8) (8 * f.len) 0 k =
        ofInt (intWidth n) (readInt 4 (isUns n) (field ((x.port 0).elem 4 0 (k / 8)) (4 * (k % 8) + 3) (4 * (k % 8))))) ∧
  ∀ (n : Node) (s : State) (f : Firing), Loaded 0x0A8 n s f →
    let d := ((s.fireOf 0x0A8 n f).port 0).data
    (d.length % nodeSize n = 0 → 0 < d.length → d.length / nodeSize n ≤ 32 → 0 < nodeSize n →
      ∃ t, Emits (.movb n) 0x0A8 n s f (one 0 t) ∧ t.fmt = n.fmt ∧ t.tag = f.tag ∧ t.data = d ∧ t.len = d.length / nodeSize n) ∧
    (d.length % nodeSize n ≠ 0 ∨ d.length = 0 ∨ 32 < d.length / nodeSize n → Ends (.movb n) 0x0A8 n s f [] (flag clsFMT 0))

/-- R182 to R185: with K the order cap, k the order of port 0's jet as read (0 where K is 0), c its coefficients, +0 above its order, and m
the number in MOD[2:0]. JSEED reads a jet as its c_0 alone, with FMT, and its result is plain (R179, R170). -/
def Obligations.JetShapesFollowTheOrder : Prop :=
  ∀ (n : Node) (s : State) (f : Firing),
    let x (o : Nat) := s.fireOf o n f
    let K := (x 0).capK
    let u := (x 0).port 0
    let k := if K = 0 then 0 else u.jet.toNat
    let c (e j : Nat) : Nat := if j ≤ u.jet.toNat then u.elem n.fmt.size j e else 0
    let m := field (md n) 2 0
    let N := if m = 0 then K else min m K
    let off := (x 0).jetOff [0]
    (Loaded 0x0C0 n s f → ∃ t, Ends (.jseed n) 0x0C0 n s f (one 0 t) (if K = 0 ∨ u.jet ≠ 0 then flag clsFMT 0 else 0) ∧
      Jets f t n.fmt (if u.jet = 0 then N else 0) fun e j => if j = 0 then c e 0 else if j = 1 then oneOf n.fmt else 0) ∧
    (Loaded 0x0C1 n s f → ∃ t, Ends (.jlift n) 0x0C1 n s f (one 0 t) (if K = 0 then flag clsFMT 0 else 0) ∧ Jets f t n.fmt N c) ∧
    (Loaded 0x0C2 n s f →
      (k < m → ∃ t, Ends (.jget n) 0x0C2 n s f (one 0 t) (off ||| flag clsIV 0) ∧ Jets f t n.fmt 0 fun _ _ => defNan n.fmt) ∧
      (m ≤ k → bitOf (md n) 3 = false ∨ m ≤ 1 →
        ∃ t, Ends (.jget n) 0x0C2 n s f (one 0 t) off ∧ Jets f t n.fmt 0 fun e _ => c e m) ∧
      (m ≤ k → bitOf (md n) 3 = true → 2 ≤ m →
        let r (e : Nat) := roundP n.fmt (x 0).cap.rm ((x 0).drawAt f.tag e 0 0) (mulP (opnd n.fmt (c e m)) (.int (fact m), 0))
        ∃ t, Ends (.jget n) 0x0C2 n s f (one 0 t) (orAll f.len (fun e => (r e).2) ||| off) ∧ Jets f t n.fmt 0 fun e _ => (r e).1)) ∧
    (Loaded 0x0C3 n s f →
      (K < m → ∃ t, Ends (.jput n) 0x0C3 n s f (one 0 t) (off ||| flag clsIV 0) ∧ Jets f t n.fmt (min k K) c) ∧
      (m ≤ K → ∃ t, Ends (.jput n) 0x0C3 n s f (one 0 t) off ∧
        Jets f t n.fmt (min (max k m) K) fun e j => if j = m then (x 0x0C3).arg 1 e else c e j)) ∧
    (Loaded 0x0C4 n s f → ∃ t, Ends (.jtrunc n) 0x0C4 n s f (one 0 t) off ∧ Jets f t n.fmt (min (min k m) K) c)

/-- R186 to R191: differentiation, integration, scaling, conversion between coefficients and derivatives, fused Horner evaluation, and
composition, coefficient by coefficient, each rounded once with the draw and the charge of its index. The order k − 1 of JDIFF is taken
before the cap (log 40). -/
def Obligations.JetCalculusIsTermwise : Prop :=
  ∀ (n : Node) (s : State) (f : Firing),
    let x (o : Nat) := s.fireOf o n f
    let K := (x 0).capK
    let u := (x 0).port 0
    let k := if K = 0 then 0 else u.jet.toNat
    let c (e j : Nat) : Nat := if j ≤ u.jet.toNat then u.elem n.fmt.size j e else 0
    let op (p : Nat) : FP := opnd n.fmt p
    let rd (e j : Nat) (v : FP) : Nat × Nat := roundP n.fmt (x 0).cap.rm ((x 0).drawAt f.tag e j 0) v
    let off := (x 0).jetOff [0]
    -- the firing ends with jets whose coefficients and flags are those of `r`
    let gives (i : Instr) (o ord extra : Nat) (r : Nat → Nat → Nat × Nat) : Prop := ∃ t,
      Ends i o n s f (one 0 t) (orAll f.len (fun e => orAll (ord + 1) fun j => chargeTo j (r e j).2) ||| extra) ∧
      Jets f t n.fmt ord fun e j => (r e j).1
    (Loaded 0x0C5 n s f →
      (k = 0 → gives (.jdiff n) 0x0C5 0 off fun _ _ => (0, 0)) ∧
      (0 < k → gives (.jdiff n) 0x0C5 (min (k - 1) K) 0 fun e j =>
        if j = 0 then (c e 1, 0) else rd e j (mulP (.int (j + 1), 0) (op (c e (j + 1)))))) ∧
    (Loaded 0x0C6 n s f → gives (.jintg n) 0x0C6 (min (u.jet.toNat + 1) K) 0 fun e j =>
      if j = 0 then ((x 0x0C6).arg 1 e, 0) else if j = 1 then (c e 0, 0) else rd e j (divP (op (c e (j - 1))) (.int j, 0))) ∧
    (Loaded 0x0CB n s f → gives (.jscal n) 0x0CB (min k K) off fun e j =>
      let l := op ((x 0x0CB).arg 1 e)
      if j = 0 then (c e 0, 0) else rd e j (mulP (op (c e j)) ((List.range (j - 1)).foldl (fun p _ => mulP p l) l))) ∧
    (Loaded 0x0CC n s f → gives (.jderv n) 0x0CC (min k K) off fun e j =>
      if j ≤ 1 then (c e j, 0)
      else rd e j (if bitOf (md n) 0 then divP (op (c e j)) (.int (fact j), 0) else mulP (op (c e j)) (.int (fact j), 0))) ∧
    (Loaded 0x0C7 n s f → ∃ t fl, Ends (.jeval n) 0x0C7 n s f (one 0 t) fl ∧ ∃ h : Nat → Nat → Nat,
      (∀ e < f.len, h e k = c e k ∧
        ∀ j < k, h e j = (rd e 0 (addP (x 0).cap.rm (mulP (op (h e (j + 1))) (op ((x 0x0C7).arg 1 e))) (op (c e j)))).1) ∧
      Jets f t n.fmt 0 fun e _ => h e 0) ∧
    (Loaded 0x0C8 n s f →
      let v := (x 0).port 1
      let N := min (min u.jet.toNat v.jet.toNat) K
      let d (e : Nat) : List Nat := (List.range (N + 1)).map fun j => if j = 0 then 0 else v.elem n.fmt.size j e
      ∃ t fl, Ends (.jcomp n) 0x0C8 n s f (one 0 t) fl ∧ ∃ y : Nat → Nat → List Nat,
        (∀ e < f.len, y e N = c e N :: List.replicate N 0 ∧ ∀ j < N,
          let p := (((x 0x0C8).ser e).mul N (y e (j + 1)) (d e)).1
          y e j = setAt p 0 (rd e 0 (addP (x 0).cap.rm (op (p.getD 0 0)) (op (c e j)))).1) ∧
        Jets f t n.fmt N fun e j => (y e 0).getD j 0)

/-- R192: bit 5j + c is read, and for JCLRF cleared, where IMM bits j and 8 + c are both 1; every other bit of JFLAGS, FFLAGS and every
other register keep their values. -/
def Obligations.JetFlagsAreReadAndCleared : Prop :=
  ∀ (n : Node) (s : State) (f : Firing),
    let J := (s.ctx f.tag.ctx).csrs.jflags
    let sel (j c : Nat) : Bool := n.imm.getLsbD j && n.imm.getLsbD (8 + c)
    (Loaded 0x0C9 n s f → ∃ t v, Emits (.jflag n) 0x0C9 n s f (one 0 t) ∧ Elements f t .I 8 1 (fun _ => v) ∧ v < 2 ^ 40 ∧
      ∀ j c, j < 8 → c < 5 → v.testBit (5 * j + c) = (J.getLsbD (5 * j + c) && sel j c)) ∧
    (Loaded 0x0CA n s f → ∃ t v r, exec (.jclrf n) s = .next ((s.fireOf 0x0CA n f).emitAll r (one 0 t)) ∧
      Elements f t .I 8 1 (fun _ => v) ∧ v < 2 ^ 40 ∧
      (∀ j c, j < 8 → c < 5 → v.testBit (5 * j + c) = (J.getLsbD (5 * j + c) && sel j c)) ∧
      (∀ j c, j < 8 → c < 5 → (r.ctx f.tag.ctx).csrs.jflags.getLsbD (5 * j + c) = (J.getLsbD (5 * j + c) && !sel j c)) ∧
      (∀ c', c' ≠ f.tag.ctx → r.ctx c' = s.ctx c') ∧
      ∃ j, r.ctx f.tag.ctx = { s.ctx f.tag.ctx with csrs := { (s.ctx f.tag.ctx).csrs with jflags := j } })

/-- R154, R161, R162 and R164. For ARGMX the choice is stated on integers: the greatest element, the first among equals. For SMAXT the
statement covers the NaN logits and the temperature that R160 refuses. -/
def Obligations.SelectionsOverTokens : Prop :=
  (∀ (n : Node) (s : State) (f : Firing), Loaded 0x1A4 n s f → n.fmt ∈ [.I, .D, .S] →
    let x := s.fireOf 0x1A4 n f
    let d (k : Nat) : Nat := draw64 x.cap.key.toNat f.tag.bits f.img.nodeid.toNat k 0 0 (field (im n) 7 0) 0
    ∃ t, Emits (.rng n) 0x1A4 n s f (one 0 t) ∧ Elements f t n.fmt (nodeSize n) f.len fun k => match n.fmt with
      | .I => if intWidth n = 64 then d k else d k / 2 ^ 32
      | .D => (roundX .D .rne 0 (.num false (d k / 2 ^ 11) (-53) false)).1
      | _ => (roundX .S .rne 0 (.num false (d k / 2 ^ 40) (-24) false)).1) ∧
  (∀ (n : Node) (s : State) (f : Firing) (u : Tok), Loaded 0x1A6 n s f → isGroup n = false → f.inputs = [u] → u.port = 0 →
    let w := nodeSize n
    let v (k : Nat) := u.elem w 0 k
    ∃ i a b, Emits (.argmx n) 0x1A6 n s f (one 0 a ++ one 1 b) ∧ i < u.len ∧ Elements f a .I 4 1 (fun _ => i) ∧
      Elements f b n.fmt w 1 (fun _ => if n.fmt ≠ .I ∧ isNanPat n.fmt (v i) = true then defNan n.fmt else v i) ∧
      (n.fmt = .I → (∀ k < u.len, readInt (intWidth n) (isUns n) (v k) ≤ readInt (intWidth n) (isUns n) (v i)) ∧
        ∀ k < i, readInt (intWidth n) (isUns n) (v k) < readInt (intWidth n) (isUns n) (v i))) ∧
  (∀ (n : Node) (s : State) (f : Firing), Loaded 0x1A5 n s f → n.lane = .value → n.fmt ∈ [.D, .S, .H, .B] →
    let x := s.fireOf 0x1A5 n f
    let ts := f.inputs.filter (·.port == 0)
    (tempBad n.fmt x.smaxTemp = none → ∃ os fl, Ends (.smaxt n) 0x1A5 n s f os fl ∧ os.length = ts.length ∧
      ∀ (i : Nat) (o : Out) (u : Tok), os[i]? = some o → ts[i]? = some u → o.out = 0 ∧ o.tok.tag = u.tag ∧ o.tok.run = u.run ∧ o.tok.fmt = n.fmt ∧
        o.tok.eos = u.eos ∧
        ((∃ p ∈ ts, ∃ k < p.len, isNanPat n.fmt (p.elem (nodeSize n) 0 k) = true) → ∀ k < u.len,
          payloadElem o.tok (nodeSize n) u.len 0 k = defNan n.fmt)) ∧
    (∀ iv, tempBad n.fmt x.smaxTemp = some iv → ∃ t, exec (.smaxt n) s = .next t ∧
      ((∀ c, verdict x.cap (if iv then flag clsIV 0 else 0) ≠ .halt c) → ∃ os,
        t = x.emitAll (s.consumed.setFlags f.tag.ctx x.cap false (if iv then flag clsIV 0 else 0)) os ∧ os.length = ts.length ∧
        ∀ o ∈ os, o.tok.fmt = .X ∧ causeIn o.tok.data = 0x0A))) ∧
  ∀ (n : Node) (s : State) (f : Firing) (m : Tok), Loaded 0x1A1 n s f → f.inputs.find? (·.port.toNat == 0) = some m →
    let data := f.inputs.find? (·.port.toNat == 1)
    let p (k : Nat) : Bool := m.elem 4 0 k != 0
    let before (k : Nat) : Nat := ((List.range k).filter p).length
    let has : Nat := match data with | some d => d.len | none => 0
    ∃ t, Ends (.expd n) 0x1A1 n s f (one 0 t) (if before m.len = 0 ∨ before m.len = has then 0 else flag clsFMT 0) ∧
      Elements f t n.fmt (nodeSize n) m.len fun k =>
        if p k ∧ before k < has then (match data with | some d => d.elem (nodeSize n) 0 (before k) | none => 0) else 0

/-- R205, R206, R216 and R219 over an activation that has not ended: an instance opens under the trigger's first iteration with the
window of its space record; a request is granted, waits or faults; freeing takes iterations out of the live set; closing ends with the
count of granted iterations in the parent tag. A TSPACE without a free instance number waits in its slot (R199). -/
def Obligations.TagSpacesFollowTheWindow : Prop :=
  ∀ (n : Node) (s : State) (f : Firing) (fr : Frame),
    s.frame f.tag = some fr → fr.ended = false →
    let x (o : Nat) := s.fireOf o n f
    let q := f.tag.space.toNat
    let its := (List.range f.len).map fun e => f.tag.iter + BitVec.ofNat 16 e
    -- TSPACE: a new instance under the trigger's first iteration, with n = b = 0 and the window of its space record
    (Loaded 0x0E0 n s f → ∀ k ks, s.consumed.freeInsts f.tag fr = k :: ks →
      Acts (.tspace n) 0x0E0 n s f (one 0 { (x 0x0E0).port 0 with eos := (x 0x0E0).eos, deps := (x 0x0E0).deps, port := 0 }) fun u =>
        k ≠ 0 ∧ k < 256 ∧ ∃ i : Inst,
          FrameOnly s.consumed u f.tag { fr with insts := fr.insts.filter (·.num != k) ++ [i] } ∧ i.num = k ∧
          i.space = field (im n) 7 0 ∧ i.parent = some (q, f.tag.iter.toNat) ∧ i.state = .open ∧ i.next = 0 ∧ i.live = [] ∧
          i.waits = [] ∧ i.grants = 0 ∧ i.opened = s.fresh ∧
          ∀ g kn j r, (x 0x0E0).own s.consumed = some (g, kn, j) → kn.spaces[field (im n) 7 0]? = some r → i.window = 2 ^ r.wlog) ∧
    (Loaded 0x0E0 n s f → s.consumed.freeInsts f.tag fr = [] → exec (.tspace n) s = .next (s.consumed.requeue f)) ∧
    -- TALLOC: one request for each trigger of the run; a request is granted, waits, or faults
    (Loaded 0x0E1 n s f → exec (.talloc n) s = .next ((List.range f.len).foldl (fun (st : State × Bool) e =>
      if st.2 then st else (x 0x0E1).request st.1 (field (md n) 4 0 + 1) e (e + 1 == f.len)) (s.consumed, false)).1) ∧
    (∀ (y : Fire) (u : State) (m e : Nat) (last : Bool) (g : Frame) (i : Inst),
      u.frame y.f.tag = some g → g.designate y.f.tag.space.toNat (y.f.tag.iter + BitVec.ofNat 16 e).toNat (field (im y.n) 7 0) = some i →
      (i.window < m ∨ i.state = .closing ∨ i.state = .closed → y.request u m e last = (y.fault u 0x0006, true)) ∧
      (m ≤ i.window → i.state = .open ∨ i.state = .full → i.waits = [] → i.grants? m = true → u.halted y.f.tag.ctx = false →
        g.inst i.num = some i → y.opc = 0x0E1 → ∃ v t, y.request u m e last = (y.emitAll v [{ out := 0, tok := t, keepTag := true }], false) ∧
          t.tag = { y.f.tag with space := BitVec.ofNat 8 i.num, iter := i.next } ∧ t.fmt = .I ∧ t.run = BitVec.ofNat 5 (m - 1) ∧
          t.data = (List.range m).flatMap (fun k => leBytes 4 (i.next + BitVec.ofNat 16 k).toNat) ∧ t.eos = (y.eos && last) ∧
          ∃ j, (v.frame y.f.tag).bind (·.inst i.num) = some j ∧ j.grants = i.grants + m ∧
            j.next = i.next + BitVec.ofNat 16 m ∧ j.live = i.live ++ (List.range m).map fun k => i.next + BitVec.ofNat 16 k) ∧
      (m ≤ i.window → i.state = .open ∨ i.state = .full → i.waits ≠ [] ∨ i.grants? m = false ∨ u.halted y.f.tag.ctx = true →
        ∃ v, y.request u m e last = (v, false) ∧ (∃ o ∈ v.ops, o.id = u.fresh ∧ o.kind = .grant ∧ o.nums = [m, i.num]) ∧
          v.elems = u.elems)) ∧
    -- TFREE: the iterations of the trigger leave the live set; one that is not live faults
    (Loaded 0x0E2 n s f → ∀ i, fr.inst q = some i →
      ((i.state = .closed ∨ ∃ a ∈ its, a ∉ i.live) → exec (.tfree n) s = .next ((x 0x0E2).fault s.consumed 0x0006)) ∧
      (i.state ≠ .closed → (∀ a ∈ its, a ∈ i.live) → i.waits = [] → i.state ≠ .closing →
        ∃ t j, exec (.tfree n) s = .next t ∧ (t.frame f.tag).bind (·.inst q) = some j ∧
          j.live = i.live.filter (!its.contains ·) ∧ j.next = i.next ∧ j.grants = i.grants ∧ t.elems = s.elems)) ∧
    -- TCLOSE: CLOSING while iterations live, else CLOSED with the grant count in the parent tag; waiting requests make it a fault
    (Loaded 0x0E3 n s f → ∀ i, fr.inst q = some i →
      (i.state = .closing ∨ i.state = .closed ∨ i.waits ≠ [] → exec (.tclose n) s = .next ((x 0x0E3).fault s.consumed 0x0006)) ∧
      (i.state = .open ∨ i.state = .full → i.waits = [] → i.live ≠ [] →
        ∃ t j, exec (.tclose n) s = .next t ∧ (t.frame f.tag).bind (·.inst q) = some j ∧ j.state = .closing ∧
          j.live = i.live ∧ t.elems = s.elems) ∧
      (i.state = .open ∨ i.state = .full → i.waits = [] → i.live = [] → ∀ p it, i.parent = some (p, it) →
        (∀ o ∈ s.ops, o.id < s.fresh) →
        Acts (.tclose n) 0x0E3 n s f [{ out := 0, keepTag := true, tok := { (x 0x0E3).one32 i.grants with
          tag := { f.tag with space := BitVec.ofNat 8 p, iter := BitVec.ofNat 16 it } } }] fun u =>
          ∃ j, (u.frame f.tag).bind (·.inst q) = some j ∧ j.state = .closed))

/-- R201, R202 and R220: the elements of a token and the slots of its frame, both ways, with the layout of R201; a read of an absent
slot waits as an operation (log 17) and takes an entry of the element's quota, its trigger being WAITING. A breach is the halting fault TAGSPACE (0x0006), with no slot written. -/
def Obligations.FrameSlotsHoldTheirElements : Prop :=
  ∀ (n : Node) (s : State) (f : Firing) (fr : Frame), s.frame f.tag = some fr →
    let x (o : Nat) := s.fireOf o n f
    let jet : Bool := n.lane = .jet
    let pos (e j : Nat) : Nat := if jet then im n + 8 * e + j else im n + e
    let val (k : Nat) : Nat := ((Assoc.get none fr.slots k).getD 0).toNat
    -- LDSLOT reads `len` elements of order `o`; the elements of an integer format are the whole slot
    let len := if jet then field (md n) 2 0 + 1 else field (md n) 4 0 + 1
    let o := if jet then field (md n) 5 3 else 0
    let w := if n.fmt = .I then 8 else n.fmt.size
    let present : Prop := ∀ e j, e < len → j ≤ o → (Assoc.get none fr.slots (pos e j)).isSome = true
    let inside : Prop := ∀ e j, e < len → j ≤ o → pos e j < fr.size
    let loads (t : Tok) : Prop := Shape f t n.fmt w len (o + 1) ∧
      ∀ e j, e < len → j ≤ o → payloadElem t w len j e = val (pos e j) % 2 ^ (8 * w)
    (Loaded 0x0E4 n s f → inside → present → ∃ t, Emits (.ldslot n) 0x0E4 n s f (one 0 t) ∧ loads t) ∧
    (Loaded 0x0E4 n s f → inside → ¬present → s.retired f.tag = true → exec (.ldslot n) s = .next ((x 0x0E4).stranded s.consumed)) ∧
    (Loaded 0x0E4 n s f → inside → ¬present → s.retired f.tag = false → ∃ u : State, exec (.ldslot n) s = .next (u.settleAll f.n f.elem false) ∧
      u = { s.consumed with ops := u.ops, fresh := s.fresh + 1, groups := u.groups } ∧
      u.groups.map Group.unissued = s.groups.map Group.unissued ∧
      ∃ p, u.ops = s.ops ++ [p] ∧ p.id = s.fresh ∧ p.kind = .slotRead ∧ p.fir = f ∧ p.instr = n) ∧
    (Loaded 0x0E4 n s f → ¬inside → exec (.ldslot n) s = .next ((x 0x0E4).fault s.consumed 0x0006)) ∧
    -- a deferred read completes once every slot it reads is present, and not before
    (∀ p, s.findOp p.id = some p → p.kind = .slotRead → p.fir = f → p.instr = n → s.halted f.tag.ctx = false →
      (present → ∃ t, exec (.deferredRead p.id) s = .next (s.closeOp p 0 fun u => p.fire.emitAll u (one 0 t)) ∧ loads t) ∧
      (¬present → exec (.deferredRead p.id) s = .next s)) ∧
    -- STSLOT writes the elements of its input, a jet's coefficients up to its order, and counts them
    (Loaded 0x0E5 n s f → Moves 0x0E5 n s f →
      let y := (x 0x0E5).capped
      let u := y.port 0
      let top := if jet then u.jet.toNat else 0
      let free : Prop := ∀ e j, e < f.len → j ≤ top → pos e j < fr.size ∧ Assoc.get none fr.slots (pos e j) = none
      (free → ∃ t, Elements f t .I 4 1 (fun _ => f.len * (top + 1)) ∧
        ∃ v sl, exec (.stslot n) s = .next (s.movedTo 0x0E5 n f (y.emitAll v (one 0 t))) ∧ FrameOnly s.consumed v f.tag { fr with slots := sl } ∧
          (∀ e j, e < f.len → j ≤ top → Assoc.get none sl (pos e j) = some (slotWord n (u.elem (nodeSize n) j e))) ∧
          ∀ k, (∀ e j, e < f.len → j ≤ top → k ≠ pos e j) → Assoc.get none sl k = Assoc.get none fr.slots k) ∧
      (¬free → exec (.stslot n) s = .next (s.movedTo 0x0E5 n f (y.fault s.consumed 0x0006)))) ∧
    -- the layout of R201
    (∀ v, slotWord n v = if n.fmt = .I then BitVec.ofInt 64 (readInt (intWidth n) (isUns n) v) else BitVec.ofNat 64 (v % 2 ^ (8 * n.fmt.size))) ∧
    -- CLRSLOT clears slots IMM to IMM + n − 1
    (Loaded 0x0E6 n s f → ∃ t, Elements f t .I 4 1 (fun _ => field (md n) 4 0 + 1) ∧
      Acts (.clrslot n) 0x0E6 n s f (one 0 t) fun v => ∃ sl, FrameOnly s.consumed v f.tag { fr with slots := sl } ∧
        ∀ k, Assoc.get none sl k = if im n ≤ k ∧ k ≤ im n + field (md n) 4 0 then none else Assoc.get none fr.slots k)

/-- R208, R212, R221 and R222: the callee frame records its caller; values go down and come back by tags; a request of FIRE carries its
token, error tokens included. A jet on a jet lane goes with its coefficients up to K (R169); where K is 0 the firing goes on unless the
disposition of FMT ends it (R170). A CALL that finds every frame reserved by others waits, which R208 excludes of checked folios. -/
def Obligations.CalleeFramesCarryTheReturnTag : Prop :=
  ∀ (n : Node) (s : State) (f : Firing) (fr : Frame), s.frame f.tag = some fr →
    let x (o : Nat) := s.fireOf o n f
    -- CALL: a callee frame that records the caller, its tag on output 0 and a zero element at the callee on output 1
    (Loaded 0x0E7 n s f → fr.ended = false → s.consumed.mayCall f.n fr = true → ∀ k ks, s.consumed.freeFrames f.n = k :: ks → ∃ a b,
      Elements f a .I 8 1 (fun _ => (frameTag f.tag.ctx f.n k).bits * 65536) ∧
      b.tag = frameTag f.tag.ctx f.n k ∧ b.fmt = .I ∧ b.run = 0 ∧ b.data = [0, 0, 0, 0] ∧
      Acts (.call n) 0x0E7 n s f [{ out := 0, tok := a, keepTag := true }, { out := 1, tok := b, keepTag := true }] fun u =>
        u = { s.consumed with cores := u.cores } ∧
        (∀ m j, m ≠ f.n ∨ j ≠ k → Assoc.get none (u.core m).frames j = Assoc.get none (s.core m).frames j) ∧
        ∃ g, Assoc.get none (u.core f.n).frames k = some g ∧ g.ret = some (f.tag.frame.toNat, f.tag.space.toNat, f.tag.iter.toNat) ∧
          g.jord = fr.jord ∧ g.owner = fr.owner ∧ g.root = fr.root ∧ g.size = fr.size ∧ g.slots = [] ∧ g.ended = false ∧
          ∃ r, g.insts = [r] ∧ r.num = 0 ∧ r.space = field (im n) 7 0 ∧ r.state = .open) ∧
    (Loaded 0x0E7 n s f → fr.ended = false → s.consumed.mayCall f.n fr = false → exec (.call n) s = .next (s.consumed.requeue f)) ∧
    -- ARG: each element into the callee frame that port 1 names; a frame that is no live callee of the trigger's faults
    (Loaded 0x0E8 n s f → Moves 0x0E8 n s f →
      let y := (x 0x0E8).capped
      let d (e : Nat) : Tag := Tag.ofBits (y.i64 1 e >>> 16)
      let callee (t : Tag) : Prop := t.ctx = f.tag.ctx ∧ t.core = f.tag.core ∧
        ∃ g r, s.frame t = some g ∧ g.ended = false ∧ g.ret = some r ∧ r.1 = f.tag.frame.toNat
      ((∀ e < f.len, callee (d e)) → ∃ ts : List Tok, ts.length = f.len ∧
        exec (.arg n) s = .next (s.movedTo 0x0E8 n f (y.emitAll s.consumed (ts.map fun t => { out := 0, tok := t, keepTag := true }))) ∧
        ∀ e (h : e < ts.length), ts[e].tag = { f.tag with frame := (d e).frame, space := (d e).space, iter := 0 } ∧ ts[e].run = 0 ∧
          ts[e].data = ((y.port 0).slice e 1).data ∧ ts[e].fmt = (y.port 0).fmt ∧ ts[e].jet = (y.port 0).jet) ∧
      ((∃ e < f.len, ¬callee (d e)) → exec (.arg n) s = .next (s.movedTo 0x0E8 n f (y.fault s.consumed 0x0006)))) ∧
    -- RET: port j to output j in the return tag, and the callee frame ends
    (Loaded 0x0E9 n s f → Moves 0x0E9 n s f →
      let y := (x 0x0E9).capped
      (fr.ended = true → exec (.ret n) s = .next (s.movedTo 0x0E9 n f (y.stranded s.consumed))) ∧
      (fr.ended = false → fr.ret = none → exec (.ret n) s = .next (s.movedTo 0x0E9 n f (y.fault s.consumed 0x0006))) ∧
      (fr.ended = false → ∀ frame space iter, fr.ret = some (frame, space, iter) →
        let tag := { f.tag with frame := BitVec.ofNat 14 frame, space := BitVec.ofNat 8 space, iter := BitVec.ofNat 16 iter }
        let u := y.emitAll s.consumed ((List.range n.arity.toNat).map fun j => { out := j, keepTag := true, tok :=
          { y.port j with tag := tag, eos := y.eos, deps := y.deps, port := 0 } })
        let t := (u.modFrame f.tag Frame.finish).retireFrames f.tag.ctx fun y => y.sameFrame f.tag
        exec (.ret n) s = .next (s.movedTo 0x0E9 n f t) ∧ t.frame f.tag = some fr.finish ∧
          ∀ e ∈ t.elems, ∀ y ∈ e.2.conc, y.tok.tag.sameFrame f.tag = false)) ∧
    -- FRMID: activation number, kernel index, die and frame of the activation
    (Loaded 0x0EC n s f → ∃ t, Emits (.frmid n) 0x0EC n s f (one 0 t) ∧ Elements f t .I 8 1 fun _ =>
      fr.actno.toNat * 2 ^ 32 + fr.kidx * 2 ^ 18 + f.tag.die.toNat * 2 ^ 14 + (coreIn f.tag.core * 512 + fr.root)) ∧
    -- FIRE: a request to the kernel instance; sixteen may wait
    (Fires s f → Moves 0x0ED n s f → ∀ g k i, (x 0x0ED).own s.consumed = some (g, k, i) →
      let y := (x 0x0ED).capped
      (16 ≤ i.fires.length → exec (.fire n) s = .next (s.movedTo 0x0ED n f (y.fault s.consumed 0x0007))) ∧
      (i.fires.length < 16 → exec (.fire n) s = .next (s.movedTo 0x0ED n f
        (s.consumed.modInst { serial := g.serial, kernel := i.kernel, replica := i.replica } fun i => { i with
          fires := i.fires ++ [(field (im n) 17 0, field (im n) 19 18, { y.port 0 with eos := y.eos, deps := y.deps })] }))))

/-- R196, R197, R198 and R371: the frame header at the start and the tags of what is delivered; at the end, the tokens that retire, the
staged tokens, what is not undone, and the fault of an armed frame. (A core whose partition the groups give up at that moment has no
frames left.) -/
def Obligations.ActivationsStartAndEndOnce : Prop :=
  -- the end of an activation
  (∀ (n : Node) (s : State) (f : Firing) (fr : Frame) (commit : Bool), s.frame f.tag = some fr →
    let op := if commit then 0x0EA else 0x0EB
    let i : Instr := if commit then .commit n else .discard n
    let x := s.fireOf op n f
    let root := f.tag.fnum
    let mine (y : Staged) : Prop := y.kernel = fr.owner.kernel ∧ y.replica = fr.owner.replica ∧ y.frame = root
    Loaded op n s f →
      (fr.ended = true → exec i s = .next (x.stranded s.consumed)) ∧
      (fr.ended = false → fr.ret ≠ none → exec i s = .next (x.fault s.consumed 0x0006)) ∧
      (fr.ended = false → fr.ret = none → fr.root = root → f.tag.core = f.n → f.placed → ∃ t, exec i s = .next t ∧
        t.mem = s.mem ∧ t.pend = s.pend ∧
        -- the frame ends and its waiting tokens retire
        (∀ g, t.frame f.tag = some g → g.ended = true) ∧
        (∀ e ∈ t.elems, ∀ y ∈ e.2.conc, ¬(y.tok.tag.ctx = f.tag.ctx ∧ y.tok.tag.core = f.n ∧ y.tok.tag.fnum = root)) ∧
        -- accesses and transfers already issued are not undone
        (∀ o ∈ s.ops, o.kind ≠ .slotRead → o.kind ≠ .grant → o.kind ≠ .close → o ∈ t.ops) ∧
        -- its staged tokens leave their pipes: COMMIT sends them on their way, DISCARD drops them
        (∀ g p, t.group fr.owner.serial = some g → p ∈ g.pipes → ∀ y ∈ p.staged, ¬mine y) ∧
        (commit = false → t.commits = s.commits) ∧
        (commit = true → ∃ c, t.commits = s.commits ++ [c] ∧ c.serial = fr.owner.serial ∧ c.deps = s.live x.deps ∧ c.armed.map (fun a => (a.1.cause, a.1.code)) = fr.armed.map (fun code => (0x000B, code)) ∧
          ∀ p y, (p, y) ∈ c.items ↔ mine y ∧ ∃ g q, s.group fr.owner.serial = some g ∧ g.pipes[p]? = some q ∧ y ∈ q.staged) ∧
        -- an armed frame then faults: after a DISCARD at once, after a COMMIT once its tokens are published
        (fr.armed = none ∨ commit = true → t.faults = s.faults) ∧
        ∀ code, commit = false → fr.armed = some code → ∃ k, t.faults = s.faults ++ [k] ∧ k.recd.cause = 0x000B ∧ k.recd.code = code)) ∧
  -- the start of an activation
  ∀ (s : State) (id : InstId) (g : Group) (i : KInst) (k : Kernel) (f : Nat) (fs : List Nat),
    s.group id.serial = some g → (g.insts.find? fun j => j.kernel == id.kernel && j.replica == id.replica) = some i →
    g.kernels[i.kernel]? = some k →
    (s.ready? g i = false → exec (.activationStart id) s = .next s) ∧
    (s.ready? g i = true → s.freeFrames i.n = f :: fs → ∃ t, exec (.activationStart id) s = .next t ∧
      t.mem = s.mem ∧ ((t.core i.n).frames = [] ∨ ∃ fr, Assoc.get none (t.core i.n).frames f = some fr ∧ fr.actno = i.actno + 1 ∧ fr.jord = k.jord ∧
        fr.bookmark = 0 ∧ fr.slots = [] ∧ fr.size = k.framesz ∧ fr.owner = id ∧ fr.root = f ∧ fr.ret = none ∧ fr.ended = false ∧
        ∃ r, fr.insts = [r] ∧ r.num = 0 ∧ r.space = 0 ∧ r.state = .open ∧ r.live = []) ∧
      ∃ ps, t.net = s.net ++ ps ∧ ∀ p ∈ ps, p.n = i.n ∧ p.tok.tag.sameKey (frameTag g.ctx i.n f) = true)

/-- R240 and R247 with the reference words of R224 and R225: a template keeps every bit above its base field; a piece keeps format,
order and strides, and its base and its extent are those of its place. (An accumulator store of at most two granules, R13.) -/
def Obligations.TileReferencesAreMadeAndCut : Prop :=
  ∀ (n : Node) (s : State) (f : Firing),
    let x (o : Nat) := s.fireOf o n f
    -- TREF: a token for each offset, the base field (bits [top−1:0]) being the template's plus the offset
    (Loaded 0x100 n s f →
      let tpl := (x 0x100).pool s.consumed (im n) 16
      let w0 := leNat (tpl.take 8)
      let top := if bitOf w0 62 then 17 else 23
      let v (e : Nat) := w0 % 2 ^ top + (x 0x100).i64 0 e
      let bad (e : Nat) : Prop := 2 ^ top ≤ v e ∨ v e % (if bitOf w0 62 then 8192 else 8) ≠ 0
      let fl := if ∃ e < f.len, bad e then flag clsFMT 0 else 0
      let s' := s.consumed.setFlags f.tag.ctx (x 0x100).cap false fl
      (verdict (x 0x100).cap fl = .halt 0x000D → exec (.tref n) s = .next ((x 0x100).fault s' 0x000D)) ∧
      ((∀ c, verdict (x 0x100).cap fl ≠ .halt c) → ∃ ts : List Tok, ts.length = f.len ∧
        exec (.tref n) s = .next ((x 0x100).emitAll s' (ts.map fun t => { out := 0, tok := t })) ∧
        ∀ e (h : e < ts.length), ts[e].tag = f.tag.atIter (f.tag.iter + BitVec.ofNat 16 e) ∧ ts[e].run = 0 ∧
          (bad e → ts[e].fmt = .X ∧ causeIn ts[e].data = 8) ∧
          (¬bad e → ts[e].fmt = n.fmt ∧ ts[e].jet.toNat = field (md n) 2 0 ∧ ts[e].data.drop 8 = tpl.drop 8 ∧
            leNat (ts[e].data.take 8) % 2 ^ top = v e ∧ leNat (ts[e].data.take 8) >>> top = w0 >>> top))) ∧
    -- TSPLT: pieces along rows or columns, the last one shorter
    (Loaded 0x109 n s f →
      let r := Ref.ofTok ((x 0x109).port 0)
      let p := im n + 1
      let acc : Bool := bitOf r.w0 62
      let cols : Bool := bitOf (md n) 0
      -- bytes from piece to piece along the columns
      let stride : Nat := match spltElems n with | .plain z => p * z | .gather v => p / 64 * gSize v | .ternary => p / 5
      let whole : Prop := match spltElems n with | .plain _ => True | .gather _ => p % 64 = 0 | .ternary => p % 5 = 0
      let pieces (count : Nat) (good : Nat → Ref → Prop) : Prop := ∃ ts : List Tok, ts.length = count ∧
        Emits (.tsplt n) 0x109 n s f (ts.map fun t => { out := 0, tok := t }) ∧
        ∀ i (h : i < ts.length), ts[i].tag = f.tag.atIter (f.tag.iter + BitVec.ofNat 16 i) ∧
          ts[i].eos = ((x 0x109).eos && i + 1 == count) ∧ (Ref.ofTok ts[i]).fmt = r.fmt ∧ (Ref.ofTok ts[i]).jet = r.jet ∧
          (Ref.ofTok ts[i]).w1 = r.w1 ∧ good i (Ref.ofTok ts[i])
      (acc = false → r.fmt = n.fmt → r.operandForm (spltElems n) = true → s.consumed.outside f.n r (spltElems n) = none →
        (cols = false → pieces ((r.rows + p - 1) / p) fun i q =>
          q.rows = min p (r.rows - i * p) ∧ q.cols = r.cols ∧ q.base = r.base + i * p * r.rstride) ∧
        (cols = true → whole → pieces ((r.cols + p - 1) / p) fun i q =>
          q.cols = min p (r.cols - i * p) ∧ q.rows = r.rows ∧ q.base = r.base + i * stride) ∧
        (cols = true → ¬whole → exec (.tsplt n) s = .next ((x 0x109).fail s.consumed clsFMT))) ∧
      (acc = true → r.accForm = true → s.consumed.accOutside f.n r = false → field (s.core f.n).partw.toNat 14 8 ≤ 2 →
        (cols = false → p % 32 = 0 → pieces ((r.mb + p / 32 - 1) / (p / 32)) fun i q =>
          q.mb = min (p / 32) (r.mb - i * (p / 32)) ∧ q.nb = r.nb ∧ q.off = r.off + i * (p / 32) * r.nb * 8192) ∧
        (cols = true ∨ p % 32 ≠ 0 → exec (.tsplt n) s = .next ((x 0x109).fail s.consumed clsFMT))))

/-- R243, R244 and R245 over the blocks of R237: what a row chunk reads as, what a write changes and what it leaves, and the zeroing of a
block, one to a unit. -/
def Obligations.AccumulatorTilesAreReadAndWritten : Prop :=
  ∀ (n : Node) (s : State) (f : Firing),
    let x (o : Nat) := s.fireOf o n f
    let r := Ref.ofTok ((x 0).port 0)
    let good : Prop := r.accForm = true ∧ r.fmt = n.fmt ∧ s.consumed.accOutside f.n r = false
    -- ACCRD: an operation whose unit is a block; the last block of a block row gives that row's tokens, row by row and chunk by chunk,
    -- a marked row error tokens unless `.raw`
    (Loaded 0x106 n s f → good → im n ≤ r.jet → Starts (.accrd n) 0x106 n s f fun o => o.kind = .matrix ∧ o.st = .active ∧ o.book = 0 ∧ o.vals = []) ∧
    (∀ o bi ch, s.findOp o.id = some o → o.kind = .matrix → o.opc = 0x106 → o.fir = f → o.instr = n → s.opRuns o = true →
      o.book = bi * r.nb + ch → ch < r.nb → o.vals.length = 1056 * ch →
      let b := s.accBlock f.n (r.block (im n) bi ch)
      -- what it keeps of a chunk of a row: the cause of its mark, or 0, and its elements
      let kept (c i : Nat) : List Nat := if c < ch then (o.vals.drop (33 * (32 * c + i))).take 33
        else (if b.marks.getLsbD i then b.cause.toNat else 0) :: (List.range 32).map fun k => b.at i k
      (ch + 1 < r.nb → ∃ vs, exec (.blockPass o.id) s = .next (s.putOp { o with vals := vs, book := o.book + 1, st := .active }) ∧
        vs.length = 1056 * (ch + 1) ∧ ∀ c i, c ≤ ch → i < 32 → (vs.drop (33 * (32 * c + i))).take 33 = kept c i) ∧
      (ch + 1 = r.nb → ∃ (u : State) (ts : List Tok), ts.length = 32 * r.nb ∧ u = { s with ops := u.ops } ∧
        (r.mb * r.nb ≤ o.book + 1 → u = s.dropOp o.id) ∧ (o.book + 1 < r.mb * r.nb → u = s.putOp { o with vals := [], book := o.book + 1, st := .active }) ∧
        exec (.blockPass o.id) s = .next (o.fire.emitAll u (ts.map fun t => { out := 0, tok := t })) ∧
        ∀ i c, i < 32 → c < r.nb → ∃ h : i * r.nb + c < ts.length,
          let t := ts[i * r.nb + c]
          t.tag = f.tag.atIter (f.tag.iter + BitVec.ofNat 16 (32 * ((32 * bi + i) * r.nb + c))) ∧
          ((kept c i).headD 0 ≠ 0 → bitOf (md n) 0 = false → t.fmt = .X ∧ causeIn t.data = (kept c i).headD 0 % 256) ∧
          ((kept c i).headD 0 = 0 ∨ bitOf (md n) 0 = true → t.fmt = n.fmt ∧ t.len = 32 ∧
            ∀ k < 32, payloadElem t 8 32 0 k = (kept c i).getD (k + 1) 0 % 2 ^ 64))) ∧
    -- ACCWR: the elements of its data into one row chunk; a whole chunk clears the row's mark
    (Loaded 0x107 n s f → good →
      let row := field (im n) 6 0
      let ch := field (im n) 8 7
      let plane := field (im n) 11 9
      let d := (x 0x107).port 1
      let place := r.block plane (row / 32) ch
      (row < 32 * r.mb → ch < r.nb → plane ≤ r.jet →
        Acts (.accwr n) 0x107 n s f (one 0 ((x 0x107).refTok 0)) fun u => u = { s.consumed with cores := u.cores } ∧
          (∀ m b, m ≠ f.n ∨ b ≠ place → u.accBlock m b = s.accBlock m b) ∧
          (∀ i c, c < 32 → (u.accBlock f.n place).at i c =
            if i = row % 32 ∧ c < d.len then d.elem 8 0 c else (s.accBlock f.n place).at i c) ∧
          (u.accBlock f.n place).marks =
            if d.len = 32 then (s.accBlock f.n place).marks &&& ~~~ BitVec.ofNat 32 (2 ^ (row % 32)) else (s.accBlock f.n place).marks) ∧
      ((32 * r.mb ≤ row ∨ r.nb ≤ ch ∨ r.jet < plane) → exec (.accwr n) s = .next ((x 0x107).fail s.consumed clsFMT))) ∧
    -- ACCZ: an operation whose unit is a block
    (Loaded 0x105 n s f → good → Starts (.accz n) 0x105 n s f fun o => o.kind = .matrix ∧ o.st = .active ∧ o.book = 0) ∧
    (∀ o b, s.findOp o.id = some o → o.outs = [] → o.kind = .matrix → o.opc = 0x105 → o.fir = f → o.instr = n → s.opRuns o = true →
      r.blocks[o.book]? = some b → ∃ t, exec (.blockPass o.id) s = .next t ∧
        (∀ i c, (t.accBlock f.n b).at i c = 0) ∧ ((s.accBlock f.n b).state ≠ .draining → (t.accBlock f.n b).marks = 0) ∧
        (∀ m k, m ≠ f.n ∨ k ≠ b → t.accBlock m k = s.accBlock m k) ∧
        (o.book + 1 < r.blocks.length → t = { s with cores := t.cores, ops := t.ops } ∧
          t.findOp o.id = some { o with book := o.book + 1 }) ∧
        (r.blocks.length ≤ o.book + 1 → t.findOp o.id = none))

/-- R83, R226, R228, R236 and R241: the passes begin where the references stand the checks; the cells of a block after one pass, for
integers and for binary64, its operands being those read ahead of it, or else now (the sums of the narrower formats round by groups of R83 and are not stated). The operation's opcode is any of
the array's: other opcodes make none of the claims about cells. -/
def Obligations.MatrixPassesAccumulate : Prop :=
  ∀ (n : Node) (s : State) (f : Firing),
    let x (o : Nat) := s.fireOf o n f
    let isMma (o : Nat) (i : Instr) : Prop :=
      (o, i) ∈ [(0x101, .mma n), (0x102, .mmai n), (0x103, .mmag n), (0x104, .mmaj n), (0x10B, .mmat n)]
    -- the references are good: the passes begin; they break their form or their bounds: the outcomes of R226
    (∀ o i, isMma o i → Loaded o n s f →
      (o = 0x104 → (x o).cap.cap ≠ 0 ∨ ((x o).port 0).jet = 0 ∧ ((x o).port 1).jet = 0) →
      ((x o).matrixCheck s.consumed = .good → Starts i o n s f fun p => p.kind = .matrix ∧ p.st = .active ∧ p.book = 0) ∧
      ((x o).matrixCheck s.consumed = .form → exec i s = .next ((x o).fail s.consumed clsFMT)) ∧
      ∀ a, (x o).matrixCheck s.consumed = .bounds a → exec i s = .next ((x o).fail s.consumed clsPROT a)) ∧
    (Loaded 0x10A n s f →
      let a := Ref.ofTok ((x 0x10A).port 0)
      let b := Ref.ofTok ((x 0x10A).port 1)
      let src := f.n - f.n % 4 + field (md n) 1 0
      a.accForm = true → b.accForm = true → a.fmt = n.fmt → b.fmt = n.fmt → a.mb = b.mb → a.nb = b.nb → a.jet = b.jet →
      (s.core src).owner = some f.tag.ctx → s.consumed.accOutside f.n a = false → s.consumed.accOutside src b = false →
      Starts (.accps n) 0x10A n s f fun p => p.kind = .matrix ∧ p.st = .active ∧ p.book = 0) ∧
    (Loaded 0x108 n s f →
      let r := Ref.ofTok ((x 0x108).port 0)
      let d := (x 0x108).pool s.consumed (im n) 16
      let w0 := wordAt d 0
      r.accForm = true → r.fmt = n.fmt → s.consumed.accOutside f.n r = false →
      field w0 56 54 ≤ r.jet → field w0 51 44 ≤ 32 * r.mb → field w0 43 36 ≤ 32 * r.nb →
      Starts (.tdrn n) 0x108 n s f fun p => p.kind = .drain ∧ p.desc = d) ∧
    -- one pass of a firing on one core
    (∀ (o : Op) (j i step blk : Nat), s.findOp o.id = some o → o.kind = .matrix → o.fir = f → o.instr = n → s.opRuns o = true →
      isQuad n = false → (s.elem f.n 84).halted = none → o.nums.getD 0 0 = o.book → (matrixUnits o)[o.book]? = some (j, i, step, blk) → ∃ t, exec (.blockPass o.id) s = .next t ∧
      let a := Ref.ofTok ((x o.opc).port 0)
      let b := Ref.ofTok ((x o.opc).port 1)
      let c := Ref.ofTok ((x o.opc).port 2)
      let cell (u : State) (r cc : Nat) : Nat := (u.accBlock f.n (c.block j (blk / c.nb) (blk % c.nb))).at r cc
      let old (r cc : Nat) : Nat := if bitOf (md n) 0 = true ∧ i = 0 then 0 else cell s r cc
      let nowA (r k : Nat) := s.opd f.n a (operandElems o.opc n false) (bitOf (md n) 3) i (32 * (blk / c.nb) + r) k
      let nowB (cc k : Nat) := if o.opc = 0x10B then s.opd f.n b (operandElems o.opc n true) false (j - i) k (32 * (blk % c.nb) + cc)
        else s.opd f.n b (operandElems o.opc n true) (bitOf (md n) 4) (j - i) (32 * (blk % c.nb) + cc) k
      let u := (j, i, step, blk)
      let opA (r k : Nat) : Opd := ((o.passOpds s 0 u r)[k]?).getD (nowA r k)
      let opB (cc k : Nat) : Opd := ((o.passOpds s 0 u (32 + cc))[k]?).getD (nowB cc k)
      -- operands that the pass has not read ahead are as it reads them now
      (o.accs = [] → ∀ r k, r < 32 → opA r k = nowA r k ∧ opB r k = nowB r k) ∧
      -- integers: the sum modulo 2^64
      (o.opc = 0x102 → ∀ r cc, r < 32 → cc < 32 → cell t r cc = ofInt 64 (toSigned 64 (old r cc) +
        ((List.range a.cols).map fun k => (opA r k).int * (opB cc k).int).sum)) ∧
      -- binary64: one rounding for each product, in ascending order
      (n.fmt = .D → o.opc = 0x101 ∨ o.opc = 0x10B ∨ o.opc = 0x104 → ∀ r cc, r < 32 → cc < 32 → ∃ h d : Nat → Nat, h 0 = old r cc ∧
        (∀ k < a.cols, h (k + 1) = (roundP .D o.cap.rm (d k) (addP o.cap.rm (opnd .D (h k)) (opdProd false (opA r k) (opB cc k)))).1) ∧
        cell t r cc = h a.cols % 2 ^ 64))

/-- R252, R254 and R268 to R271: the address of each element is its port's plus the displacement or the stride, modulo 2^64; a
scratchpad offset does not wrap, and one whose operand has bits above its low 23 set stands as it is, outside every scratchpad; a
jet is stored at its own order, its coefficients side by side; a gathering moves in words of eight bytes. The accesses are performed
by MEMORY_RESPONSE. -/
def Obligations.LoadsAndStoresIssueTheirAccesses : Prop :=
  ∀ (n : Node) (s : State) (f : Firing),
    let x (o : Nat) := s.fireOf o n f
    let size := if n.fmt = .I then 2 ^ field (md n) 4 3 else if n.fmt = .G then gSize (field (md n) 4 3) else n.fmt.size
    let unit := if n.fmt = .G then 8 else size
    let disp := toSigned 32 (im n)
    let step := toSigned 24 (field (im n) 31 8)
    let top := if n.lane = .jet then (x 0).cap.cap.toNat else 0
    let base (e : Nat) : Int := (((x 0).port 0).elem 8 0 e : Nat)
    -- a scratchpad offset with bits above its low 23 set names no byte, whatever the displacement (R252)
    let offset (v : Nat) (d : Int) : Nat := if 2 ^ 23 ≤ v then v else ofInt 64 (v + d)
    let spmBase (e : Nat) : Nat := offset (((x 0).port 0).elem 4 0 e) disp
    -- the accesses of `len` elements of `planes` coefficients from the addresses `a`, with the bytes `d` gives each coefficient
    let covers (p : Op) (spm : Bool) (len planes : Nat) (kind : AccKind) (a : Nat → Nat) (d : Nat → Nat → List Byte) : Prop :=
      p.kind = .mem ∧ p.st = .active ∧
      p.accs.map (fun y => (y.e, y.va, y.data)) = (List.range len).flatMap (fun e => (List.range planes).flatMap fun j =>
        (List.range (size / unit)).map fun k =>
          let va := a e + (j * size + k * unit)
          (e, if spm then va else va % 2 ^ 64, ((d e j).drop (k * unit)).take unit)) ∧
      ∀ y ∈ p.accs, y.spm = spm ∧ y.size = unit ∧ y.kind = kind ∧ y.st = .pending ∧ y.since = s.cycle
    let none_ (_ _ : Nat) : List Byte := []
    -- the data of a store, jets with all their coefficients, or where K is 0 the first
    let u (o : Nat) : Tok := (s.storing o n f).port 1
    let data (o e j : Nat) : List Byte := leBytes size ((u o).elem size j e)
    (Loaded 0x120 n s f → Starts (.ld n) 0x120 n s f fun p => covers p false f.len (top + 1) .read (fun e => ofInt 64 (base e + disp)) none_) ∧
    (Loaded 0x135 n s f → Starts (.lds n) 0x135 n s f fun p => covers p true f.len (top + 1) .read spmBase none_) ∧
    (Loaded 0x121 n s f → Moves 0x121 n s f → StartsStore (.st n) 0x121 n s f fun p =>
      covers p false f.len (u 0x121).planes .write (fun e => ofInt 64 (base e + disp)) (data 0x121)) ∧
    (Loaded 0x136 n s f → Moves 0x136 n s f → StartsStore (.sts n) 0x136 n s f fun p =>
      covers p true f.len (u 0x136).planes .write spmBase (data 0x136)) ∧
    (Loaded 0x123 n s f → Moves 0x123 n s f → StartsStore (.stx n) 0x123 n s f fun p =>
      covers p false (u 0x123).len (u 0x123).planes .write (fun e => ofInt 64 (base 0 + e * step)) (data 0x123)) ∧
    -- where a jet meets a K of 0 and FMT ends the firing, nothing is issued
    (∀ o i, (o, i) ∈ [(0x121, Instr.st n), (0x136, .sts n), (0x123, .stx n)] → Loaded o n s f → ¬Moves o n s f →
      exec i s = .next ((x o).finish s.consumed [] (flag clsFMT 0))) ∧
    -- a run where one address is due raises FMT, and under TOKEN and HALT nothing is issued
    (Loaded 0x122 n s f →
      let P (p : Op) : Prop := covers p false (field (im n) 4 0 + 1) (top + 1) .read (fun e => ofInt 64 (base 0 + e * step)) none_
      let bad := ((x 0).port 0).run ≠ 0
      let v := verdict (x 0).cap (flag clsFMT 0)
      (¬bad → Starts (.ldx n) 0x122 n s f P) ∧
      (bad → v ≠ .go → exec (.ldx n) s = .next ((x 0x122).fail s.consumed clsFMT)) ∧
      (bad → v = .go → ∃ u p, exec (.ldx n) s = .next u ∧ u.mem = s.mem ∧ u.ops = s.ops ++ [p] ∧ P p)) ∧
    -- atomics: one read-modify-write for each element; CAS compares with port 1 and stores port 2
    (∀ o i, (o, i) ∈ [(0x124, Instr.atom n), (0x125, Instr.atomr n), (0x126, Instr.cas n)] → Loaded o n s f →
      Starts i o n s f fun p => p.kind = .mem ∧
        p.accs.map (fun y => (y.e, y.va, y.data, y.cmp)) = (List.range f.len).map (fun e =>
          (e, if bitOf (im n) 5 then offset (((x 0).port 0).elem 8 0 e) step else ofInt 64 (base e + step),
            leBytes size (((x 0).port (if o = 0x126 then 2 else 1)).elem size 0 e),
            if o = 0x126 ∨ field (im n) 3 0 = 9 then leBytes size (((x 0).port 1).elem size 0 e) else [])) ∧
        ∀ y ∈ p.accs, y.spm = bitOf (im n) 5 ∧ y.size = size ∧ y.st = .pending ∧
          y.kind = .rmw (if o = 0x126 then 9 else field (im n) 3 0))

/-- R284 to R287 for one access at a place of memory: what it returns, where it enters the coherence order, and that every byte apart
from it reads as before for every observer on every path. (A write becomes visible later, by events of its own, log 5; the writes that
a read-modify-write has read are visible to its issuer, and earlier ones of the companion processor with them, R297.) -/
def Obligations.AccessesTouchOnlyTheirBytes : Prop :=
  ∀ (s : State) (r : Req) (k : Nat), s.poisoned k r.size = false →
    let apart (w : Write) (a len : Nat) : Prop := w.addr + w.data.length ≤ a ∨ a + len ≤ w.addr
    let same (a b : List Write) : Prop := a.map (fun v => (v.id, v.addr, v.data)) = b.map (fun v => (v.id, v.addr, v.data))
    -- a read returns what its observer sees, and no observer sees a difference; one of an operation that is one step with respect to
    -- others like it returns the latest bytes, which its observer then sees
    (r.kind = .read → r.solo = true → ∃ t, s.perform r k = (.ok (s.under (s.pend.filter (·.overlaps k r.size)) k r.size), t) ∧
      t = { s with pend := t.pend } ∧ same t.pend s.pend ∧
      ∀ iss p a len, (∀ v ∈ s.pend, ¬apart v k r.size ∨ v.issuer = .host → apart v a len) → t.seen iss p a len = s.seen iss p a len) ∧
    (r.kind = .read → r.solo = false → ∃ t, s.perform r k = (.ok (s.seen r.iss r.path k r.size), t) ∧ t = { s with pend := t.pend } ∧
      ∀ iss p a len, t.seen iss p a len = s.seen iss p a len) ∧
    -- a write enters the coherence order after every write of its bytes that its issuer sees or a read has returned; memory
    -- itself stays, and bytes apart from it look the same to every observer
    (r.kind = .write → r.data.length = r.size → ∃ t pre post w, s.perform r k = (.ok [], t) ∧ t.mem = s.mem ∧ s.pend = pre ++ post ∧ t.pend = pre ++ w :: post ∧
      w.addr = k ∧ w.data = r.data ∧ w.own = r.own ∧ w.issuer = r.iss ∧ w.path = r.path ∧ w.rmw = false ∧
      (∀ v ∈ post, ¬apart v k r.size → v.seenBy r.iss r.path = false ∧ v.read = false) ∧
      ∀ iss p a len, a + len ≤ k ∨ k + r.size ≤ a → t.seen iss p a len = s.seen iss p a len) ∧
    -- a read-modify-write reads the write just before its own, and no write comes between
    (∀ op, r.kind = .rmw op → ∃ t pre pre' post post' old, s.perform r k = (.ok old, t) ∧ t.mem = s.mem ∧ s.pend = pre ++ post ∧
      old = s.under (pre.filter (·.overlaps k r.size)) k r.size ∧ same pre' pre ∧ same post' post ∧
      (r.modify op old = none → t.pend = pre' ++ post') ∧
      (∀ new, r.modify op old = some new → ∃ w, t.pend = pre' ++ w :: post' ∧ w.addr = k ∧ w.data = new ∧ w.own = r.own ∧ w.rmw = true) ∧
      (∀ v ∈ post, ¬apart v k r.size → v.seenBy r.iss r.path = false ∧ v.read = false) ∧
      ∀ iss p a len, a + len ≤ k ∨ k + r.size ≤ a → (∀ v ∈ pre, ¬apart v k r.size → apart v a len) →
        (∀ v ∈ s.pend, v.issuer = .host → apart v a len) → t.seen iss p a len = s.seen iss p a len)

/-- The frame of memory for every instruction and event at once: a byte that no performed write covers keeps its value through any
step, but for what booting does in the report area (R451). Writes enter memory only once everyone sees them (R285). -/
def Obligations.MemoryChangesOnlyByPerformedWrites : Prop :=
  ∀ (s t : State) (a : Nat), step s = .next t →
    (6 ≤ s.plat.stage ∧ s.plat.up = true ∨ s.plat.failed = true ∨ a < s.plat.report ∨ s.plat.report + 65536 ≤ a) →
    (∀ w ∈ s.pend, w.covers a = false) → Assoc.get unlisted t.mem a = Assoc.get unlisted s.mem a

/-- R252, R253, R259 and R387 for accesses of a firing to the scratchpad (to global memory they go by way of translation): one
response performs one access; the last one ends the firing; one that breaks alignment or bounds touches no memory. R356: the
watchdog. -/
def Obligations.ResponsesPerformTheirAccess : Prop :=
  ∀ (s : State) (o : Op) (k : Nat) (a : Access), s.findOp o.id = some o → o.kind = .mem → o.accs[k]? = some a → a.spm = true →
    let key := spmKey o.fir.n a.va
    let req : Req := { ctx := o.fir.tag.ctx, n := o.fir.n, iss := .core o.fir.n, path := 0, spm := true, va := a.va, size := a.size,
                       kind := a.kind, fmt := o.instr.fmt, data := a.data, cmp := a.cmp, own := o.id }
    let limit := field (s.core o.fir.n).partw.toNat 22 16 * 65536
    let answered (i : Instr) : Prop :=
      (0 < a.size → a.va % a.size = 0 → a.va + a.size ≤ limit → s.poisoned key a.size = false →
        ∃ old u, s.perform req key = (.ok old, u) ∧
          let o' := { o with accs := setAt o.accs k { a with st := .done, res := old } }
          -- other accesses are still without response: only this one is noted
          ((∃ y ∈ o'.accs, y.st = .pending ∨ y.st = .stalled) → exec i s = .next (u.putOp o')) ∧
          -- it was the last, and none failed: the firing completes with its loaded token or its count
          ((∀ y ∈ o'.accs, y.st = .done) → exec i s = .next ((u.putOp o').complete o'
            ((if o.opc = 0x121 ∨ o.opc = 0x123 ∨ o.opc = 0x124 ∨ o.opc = 0x136
              then o'.fire.completion 0 [(o'.accs.foldl (fun m y => max m y.e) 0) + 1] else plainOut o'.loaded) :: o'.fire.ordOuts 0))))
    let refused (i : Instr) : Prop :=
      (0 < a.size → a.va % a.size ≠ 0 ∨ limit < a.va + a.size →
        ∃ t, exec i s = .next t ∧ t.mem = s.mem ∧ t.pend = s.pend)
    (a.st = .pending → answered (.memoryResponse o.id k) ∧ refused (.memoryResponse o.id k)) ∧
    (a.st ≠ .pending → exec (.memoryResponse o.id k) s = .next s) ∧
    (a.st = .stalled → s.opRuns o = true → answered (.stalledWriteRetry o.id k) ∧ refused (.stalledWriteRetry o.id k)) ∧
    -- the token of a load over one coefficient: the bytes read, element by element
    (∀ p : Op, p.instr.fmt ≠ .G → 0 < p.accs.length → p.accs.length ≤ 32 →
      (∀ (i : Nat) (y : Access), p.accs[i]? = some y → y.e = i ∧ y.j = 0 ∧ y.res.length = y.size) →
      (p.loaded).data = p.accs.flatMap (·.res) ∧ (p.loaded).len = p.accs.length ∧ (p.loaded).fmt = p.instr.fmt ∧
      (p.loaded).tag = p.fir.tag) ∧
    -- the watchdog: not before 2^26 cycles from the issue of an access; then the firing ends with cause 0x0009 and no output
    (a.st = .pending →
      ((∀ y ∈ o.accs, y.st = .pending → s.cycle - y.since < 2 ^ 26) → exec (.watchdog o.id) s = .next s) ∧
      (2 ^ 26 ≤ s.cycle - a.since → ∃ t r, exec (.watchdog o.id) s = .next t ∧ t.findOp o.id = none ∧
        t.mem = s.mem ∧ t.faults = s.faults ++ [r] ∧ r.recd.cause = 0x0009 ∧ r.recd.async = true))

/-- R272, R273, R289, R292, R294 and R396: an ordering output waits until every write that it certifies has reached the scope on every path
of the mask, and is then emitted once with its dependences, a TFENCE's with RUN 0 (R394). (A FENCE that also waits for die-copy entries, R273, waits for more.) -/
def Obligations.OutputsWaitForCertification : Prop :=
  ∀ (n : Node) (s : State) (f : Firing),
    let x (o : Nat) := s.fireOf o n f
    -- ORDN, ORDJ, ORDF: an ordering token over the matched range, without payload
    (∀ o i, (o, i) ∈ [(0x127, Instr.ordn n), (0x128, Instr.ordj n), (0x129, Instr.ordf n)] → Loaded o n s f →
      ∃ t, Ends i o n s f (one 0 t) 0 ∧ Shape f t .I 0 f.len 1 ∧ t.deps = (x o).deps) ∧
    -- FENCE and TFENCE wait as an operation with one ordering output
    (Loaded 0x12A n s f → StartsThen State.settleOps (.fence n) 0x12A n s f fun p => p.kind = .fence ∧ p.st = .complete ∧
      p.nums = [field (im n) 6 0] ∧ p.flags = 0 ∧ ∃ q, p.outs = [q] ∧ q.out = 0 ∧ q.paths = field (im n) 14 8 ∧ q.scope = md n ∧
        Shape f q.tok .I 0 f.len 1) ∧
    (Loaded 0x12B n s f → StartsThen State.settleOps (.tfence n) 0x12B n s f fun p => p.kind = .fence ∧ p.st = .complete ∧
      p.nums = [127] ∧ p.flags = 1 ∧ ∃ q, p.outs = [q] ∧ q.out = 0 ∧ q.paths = 32 ∧ q.scope = min (md n) 3 ∧ Shape f q.tok .I 0 1 1) ∧
    -- what an output waits for, and what is emitted then
    (∀ (u : State) (p : Op) (q : PendOut), p.outs = [q] →
      let wrote (w : Write) : Prop := if p.kind = .fence then (∃ d ∈ p.deps, w.of d = true) ∧ bitOf (p.nums.getD 0 0) w.path = true
        else w.of p.id = true ∧ w.path < 7
      (p.kind = .fence → bitOf (p.nums.getD 0 0) 4 = false) →
      ((∃ w ∈ u.pend, wrote w ∧ w.reached q.paths q.scope = false) → u.settleOp p = u) ∧
      ((∀ w ∈ u.pend, wrote w → w.reached q.paths q.scope = true) → ∃ v,
        let os := one q.out { q.tok with deps := joinDeps q.tok.deps [p.id] }
        let t := p.fire.emitAll v os
        v = { u with ops := v.ops, tlb := v.tlb, pend := v.pend, ctxs := v.ctxs } ∧
        ((p.kind = .fence ∨ p.kind = .page) ∧ bitOf p.flags 0 = true ∨ v.tlb = u.tlb ∧ v.pend = u.pend) ∧
        v.pend.map (fun w => { w with fenced := [] }) = u.pend.map (fun w => { w with fenced := [] }) ∧
        (∀ y ∈ u.ops, y.id ≠ p.id → y ∈ v.ops) ∧
        -- with its last output a finished operation ends, and its exceptions are visible from that output on
        (p.st = .complete → u.settleOp p = (if p.kind = .fence ∧ bitOf p.flags 0 = true ∨ p.kind = .page ∧ bitOf p.flags 0 = true then
            u.dropStale p.fir.tag.ctx p.fir.n q.scope u.fresh else u).lastEmit t p.fir p.hold ∧
          v.ctxs = (u.showExcs p).ctxs ∧ ∀ y ∈ v.ops, y.id ≠ p.id) ∧
        (p.st ≠ .complete → v.ctxs = u.ctxs ∧
          (p.fire.emitsAll v os = true → u.settleOp p = t ∧ (u.findOp p.id ≠ none → v.findOp p.id = some { p with outs := [] })) ∧
          (p.fire.emitsAll v os = false → u.settleOp p = t.dropOp p.id)))) ∧
    -- the scopes of R257 that a write has reached, on every path asked for
    (∀ (w : Write) paths scope, w.addr < 2 ^ 64 → (w.reached paths scope = true ↔
      ∀ p < 7, bitOf paths p = true → min (scope + 1) 4 ≤ w.levels.getD p 0 ∧ (scope = 4 → bitOf w.pod p = true) ∧
        (scope = 5 → bitOf w.sys p = true))) ∧
    -- PREF: nothing but the count of dropped prefetches
    (Loaded 0x12C n s f → ∃ t, exec (.pref n) s = .next t ∧ t = { s.consumed with elems := t.elems } ∧
      (∀ m e, e < 128 → m ≠ f.n ∨ e ≠ f.elem → f.elem < 128 → t.elem m e = s.elem m e) ∧
      ∃ a b, t.elem f.n f.elem = { s.elem f.n f.elem with ctr0 := a, ctr1 := b })

/-- R263, R265, R266, R267 and R275: one unit of a copy is a row of its source shape; each element goes to the place that the destination's
shape gives its index tuple, and no other byte is written. R280 and R281: the numbers of die copies. R279: the token of a REORD. (Copies
to and from global memory go by way of translation.) -/
def Obligations.TransfersCopyUnitByUnit : Prop :=
  (∀ (n : Node) (s : State) (f : Firing),
    let x (o : Nat) := s.fireOf o n f
    -- CPY, CPYW, GATH, SCAT take one address for each port; MCST takes a run as its payload
    (∀ o i bytes, (o, i, bytes) ∈ [(0x12D, Instr.cpy n, 192), (0x12E, .cpyw n, 200), (0x12F, .gath n, 32), (0x130, .scat n, 32),
        (0x134, .mcst n, 16)] → Loaded o n s f →
      let P (p : Op) : Prop := p.kind = .xfer ∧ p.desc = (x o).pool s.consumed (im n) bytes ∧ p.book = 0 ∧ p.mask = []
      (f.len = 1 ∨ o = 0x134 → Starts i o n s f P) ∧
      (1 < f.len → o ≠ 0x134 → verdict (x o).cap (flag clsFMT 0) ≠ .go → exec i s = .next ((x o).fail s.consumed clsFMT)) ∧
      (1 < f.len → o ≠ 0x134 → verdict (x o).cap (flag clsFMT 0) = .go →
        ∃ u p, exec i s = .next u ∧ u.mem = s.mem ∧ u.ops = s.ops ++ [p] ∧ P p)) ∧
    -- DQPUT and DQFLG enter their queue: the next number, or a wait where 64 entries are unperformed
    (let d := s.consumed.dieq (dqOf (x 0))
     let full := 64 ≤ (s.consumed.unperformed d).length
     let entered (u : State) : Prop := u.mem = s.mem ∧ u.pend = s.pend ∧ u.elems = s.elems ∧
       (full → ∃ p ∈ u.ops, p.id = s.fresh ∧ p.kind = .dq ∧ p.st = .issued) ∧
       (¬full → (u.dieq (dqOf (x 0))).next = d.next + 1 ∧
         ∃ p ∈ u.ops, p.id = s.fresh ∧ p.kind = .dq ∧ p.st = .active ∧ p.nums = [d.next % 2 ^ 32])
     (∀ k ∈ d.ops, k ≠ s.fresh) →
      (Loaded 0x132 n s f → Moves 0x132 n s f → full → ∃ u, exec (.dqput n) s = .next u ∧ entered u) ∧
      (Loaded 0x132 n s f → Moves 0x132 n s f → ¬full → ∃ t u, Elements f t .I 4 1 (fun _ => d.next) ∧
        exec (.dqput n) s = .next (s.movedTo 0x132 n f ((s.storing 0x132 n f).emitAll u (one 0 t))) ∧ entered u) ∧
      (Loaded 0x132 n s f → ¬Moves 0x132 n s f → exec (.dqput n) s = .next ((x 0x132).finish s.consumed [] (flag clsFMT 0))) ∧
      (Loaded 0x133 n s f → ∃ u, exec (.dqflg n) s = .next u ∧ entered u)) ∧
    -- REORD: the matched elements as one token, in output order
    (Loaded 0x131 n s f → 0 < f.inputs.length → f.inputs.length ≤ 32 →
      let w := if n.fmt = .I then 2 ^ field (md n) 4 3 else n.fmt.size
      ∃ t, Ends (.reord n) 0x131 n s f (one 0 t) 0 ∧
        Elements f t n.fmt w f.inputs.length fun k => ((f.inputs[k]?).map fun (u : Tok) => u.elem w 0 0).getD 0)) ∧
  -- one unit of a CPY or CPYW between places of the scratchpad
  ∀ (s : State) (o : Op), s.findOp o.id = some o → o.kind = .xfer → o.opc = 0x12D ∨ o.opc = 0x12E → s.opRuns o = true →
    o.mask = [] → o.bad = [] → o.accs = [] → o.fail = none → o.miss = none → s.poison = [] → bitOf (md o.instr) 3 = false →
    let a := o.desc.take 96
    let b := (o.desc.drop 96).take 96
    let size := shapeSize a
    let src (i : Nat) := shapeAddr a (o.fire.i64 0 0) (tuple a o.book i)
    let dst (i : Nat) := shapeAddr b (o.fire.i64 1 0) (tuple a o.book i)
    let fits (va : Nat) : Prop := va % size = 0 ∧ va + size ≤ field (s.core o.fir.n).partw.toNat 22 16 * 65536
    o.book < shapeRows a → shapeFmt a ≠ .G → 0 < size → shapeRemote a = false → shapeRemote b = false →
    bitOf (wordAt a 0) 53 = true → bitOf (wordAt b 0) 53 = true →
    o.fire.i64 0 0 < 2 ^ 23 → o.fire.i64 1 0 < 2 ^ 23 →
    (∀ i < dimCount a 0, clipped a (tuple a o.book i) = false → fits (src i)) →
    (∀ i < dimCount a 0, clipped b (tuple a o.book i) = false → fits (dst i)) →
    -- the unit starts, with none of its accesses; the next event of the engine performs all of them
    (o.vals = [] → ∃ t p, exec (.transferUnit o.id) s = .next t ∧ t.mem = s.mem ∧ t.pend = s.pend ∧
      t.findOp o.id = some p ∧ p = { o with vals := p.vals, st := .active, since := s.cycle } ∧ p.vals ≠ []) ∧
    (o.vals ≠ [] → ∃ t, exec (.transferUnit o.id) s = .next t ∧ t.mem = s.mem ∧
      -- every element that is not clipped is written, a clipped source as zeros
      (∀ i < dimCount a 0, clipped b (tuple a o.book i) = false → ∃ w ∈ t.pend, w.own = o.id ∧ w.path = 1 ∧
        w.addr = spmKey o.fir.n (dst i) ∧ w.data = if clipped a (tuple a o.book i) then List.replicate size 0
          else s.seen (.core o.fir.n) 1 (spmKey o.fir.n (src i)) size) ∧
      -- and nothing else is written
      (∀ w ∈ t.pend, (∃ v ∈ s.pend, v.id = w.id ∧ v.addr = w.addr ∧ v.data = w.data) ∨
        w.own = o.id ∧ w.data.length = size ∧
          ∃ i < dimCount a 0, clipped b (tuple a o.book i) = false ∧ w.addr = spmKey o.fir.n (dst i)) ∧
      (o.book + 1 < shapeRows a → ∃ p, t.findOp o.id = some p ∧ p.book = o.book + 1 ∧ p.mask = []))

/-- R301, R303, R306 and R313. QPUT reserves a place and stages its token with it; QGET takes the head of its instance's queue, at the
iteration that counts what came before; who finds no room, no entry, or others before it in line waits in its slot. A pipe that has seen
EOS makes a QPUT the halting fault TAGSPACE, and one that is UNBOUND takes nothing of it (R306). What a started NQGET does is stated
with the operations. -/
def Obligations.PipeInstructionsKeepTheirPlaces : Prop :=
  ∀ (n : Node) (s : State) (f : Firing) (fr : Frame), s.frame f.tag = some fr →
    let x (o : Nat) := s.fireOf o n f
    let pn := field (im n) 11 0
    let root := { f.tag with frame := BitVec.ofNat 14 (coreIn f.n * 512 + fr.root) }
    -- the activation of the frame has not ended
    let live : Prop := s.alive f.tag fr = true
    -- the firing's instance and the pipe it names
    (∀ g k i p, (x 0).own s.consumed = some (g, k, i) → s.group g.serial = some g → g.pipes[pn]? = some p →
      let held := (p.staged.filter fun y => y.kernel == i.kernel && y.replica == i.replica && y.frame == fr.root).length
      let y := (x 0x160).capped
      let ended : Prop := p.state = .eosSeen ∨ p.state = .closed
      let behind : Prop := ∃ w ws, p.waits = w :: ws ∧ w ≠ f.id
      (Fires s f → Moves 0x160 n s f →
        (¬live → exec (.qput n) s = .next (s.movedTo 0x160 n f (y.stranded (y.unwait s.consumed)))) ∧
        (live → p.state = .unbound → ∃ t, Elements f t .I 4 1 (fun _ => 1) ∧ exec (.qput n) s = .next (s.movedTo 0x160 n f (y.emitAll s.consumed (one 0 t)))) ∧
        (live → ended → exec (.qput n) s = .next (s.movedTo 0x160 n f (y.fault (y.unwait s.consumed) 0x0006))) ∧
        (live → p.state ≠ .unbound → ¬ended →
          (p.cap ≤ held → exec (.qput n) s = .next (s.movedTo 0x160 n f (y.fault (y.unwait s.consumed) 0x0007))) ∧
          -- it waits in its slot, in line at its pipe
          (held < p.cap → p.state = .full ∨ behind → ∃ u g' p', exec (.qput n) s = .next u ∧
            u = { s.consumed with groups := u.groups, elems := u.elems } ∧ (∀ m e, e < 128 → f.elem < 128 → m ≠ f.n ∨ e ≠ f.elem → u.elem m e = s.elem m e) ∧
            u.elem f.n f.elem = { s.elem f.n f.elem with ready := (s.elem f.n f.elem).ready ++ [f] } ∧
            u.group g.serial = some g' ∧ g'.pipes[pn]? = some p' ∧
            p' = { p with waits := if f.id ∈ p.waits then p.waits else p.waits ++ [f.id] }) ∧
          -- it takes a place and stages its token
          (held < p.cap → p.state ≠ .full → ¬behind → ∃ t u g' p' z, Elements f t .I 4 1 (fun _ => 1) ∧
            exec (.qput n) s = .next (s.movedTo 0x160 n f (y.emitAll u (one 0 t))) ∧ u = { s.consumed with groups := u.groups, fresh := s.fresh + 1 } ∧
            u.group g.serial = some g' ∧ g'.pipes[pn]? = some p' ∧ p'.staged = p.staged ++ [z] ∧ p'.entries = p.entries ∧
            z.kernel = i.kernel ∧ z.replica = i.replica ∧ z.frame = fr.root ∧
            z.tok = { y.port 0 with eos := false, port := 0, deps := y.deps }))) ∧
      (Loaded 0x161 n s f → ¬live → exec (.qget n) s = .next ((x 0x161).stranded ((x 0x161).unwait s.consumed))) ∧
      (Loaded 0x161 n s f → live → ∀ r, (k.inputs.findIdx? fun q => q.pipe == pn) = some r →
        let at_ := match s.frame root with | some h => Assoc.get 0 h.counts r | none => 0
        let first : Prop := ∀ w, p.takes.find? (·.1 == i.replica) = some w → w.2 = f.id
        ((g.queue i pn = [] ∧ p.ended = false) ∨ ¬first → ∃ u g' p', exec (.qget n) s = .next u ∧
          u = { s.consumed with groups := u.groups, elems := u.elems } ∧
          (∀ m e, e < 128 → f.elem < 128 → m ≠ f.n ∨ e ≠ f.elem → u.elem m e = s.elem m e) ∧
          u.elem f.n f.elem = { s.elem f.n f.elem with ready := (s.elem f.n f.elem).ready ++ [f] } ∧
          u.group g.serial = some g' ∧ g'.pipes[pn]? = some p' ∧
          p' = { p with takes := if ∃ w ∈ p.takes, w.2 = f.id then p.takes else p.takes ++ [(i.replica, f.id)] }) ∧
        -- the bare EOS of a pipe that is CLOSED, or EOS_SEEN without entries
        (first → g.queue i pn = [] → p.ended = true → ∃ t, t.eos = true ∧ t.fmt = .I ∧ t.run = 0 ∧ t.data = [0, 0, 0, 0] ∧
          t.tag = f.tag.atIter (BitVec.ofNat 16 at_) ∧ Acts (.qget n) 0x161 n s f (one 0 t) fun u => u.mem = s.mem ∧ u.elems = s.elems) ∧
        -- the head of the queue: 0 numbers a bare EOS, any other number a data entry
        (first → ∀ seq e rest, g.queue i pn = (seq, e) :: rest → ∃ t, t.tag = f.tag.atIter (BitVec.ofNat 16 at_) ∧ t.fmt = e.fmt ∧
          t.run = e.run ∧ t.jet = e.jet ∧ t.data = e.data ∧ t.eos = (seq == 0) ∧
          Acts (.qget n) 0x161 n s f (one 0 t) fun u => u.mem = s.mem ∧ u.elems = s.elems ∧
            (seq ≠ 0 → ∃ g' p', u.group g.serial = some g' ∧ g'.pipes[pn]? = some p' ∧ p'.staged = p.staged ∧
              p'.entries = p.entries.filter (·.seq != seq)) ∧
            ∀ h, s.frame root = some h → ∃ h', u.frame root = some h' ∧ Assoc.get 0 h'.counts r = at_ + e.len ∧
              ∀ c, c ≠ r → Assoc.get 0 h'.counts c = Assoc.get 0 h.counts c)) ∧
      (Loaded 0x163 n s f → ∃ t, Emits (.qstat n) 0x163 n s f (one 0 t) ∧ Elements f t .I 8 1 fun _ =>
        ([PState.unbound, .open, .full, .empty, .eosSeen, .closed].idxOf p.state) * 2 ^ 56 +
        min p.prod 255 * 2 ^ 48 + p.cap * 2 ^ 32 + p.entries.length * 2 ^ 16 + s.rsv g pn)) ∧
    (Loaded 0x162 n s f →
      let t : Tok := { (x 0x162).port 0 with eos := (x 0x162).eos, deps := (x 0x162).deps, port := 0 }
      (∀ h, s.frame root = some h → Acts (.qeos n) 0x162 n s f (one 0 t) fun u =>
        FrameOnly s.consumed u root { h with ends := insertNat pn h.ends }) ∧
      (s.frame root = none → Acts (.qeos n) 0x162 n s f (one 0 t) fun u => u.mem = s.mem ∧ u.elems = s.elems ∧ u.groups = s.groups)) ∧
    (Loaded 0x164 n s f →
      ((s.ctx f.tag.ctx).csrs.nqbase = 0 → exec (.nqget n) s = .next ((x 0x164).fail s.consumed clsPROT)) ∧
      ((s.ctx f.tag.ctx).csrs.nqbase ≠ 0 → Starts (.nqget n) 0x164 n s f fun p => p.kind = .nqget))

/-- R302, R304, R306, R319 and R320 over the entries of pipes; R327 to R329 over groups. That a mark waits
for its group's earlier commits is the model's reading (log 31); what a node outside every group reads is its choice of 0 (log 51). What a started LAUNCH does is no part of this statement. -/
def Obligations.GroupsAndPipesAreScheduled : Prop :=
  -- PUBLISH: the staged tokens of a commit become entries, pipe by pipe in the order of their reservations
  (∀ (s : State) (c : Commit) (g : Group), s.commits.find? (·.id == c.id) = some c → s.group c.serial = some g →
    (s.halted g.ctx = true → exec (.publish c.id) s = .next s) ∧
    let ended (y : Pipe) : Prop := y.state = .eosSeen ∨ y.state = .closed
    (s.halted g.ctx = false →
      ∃ t g', exec (.publish c.id) s = .next t ∧ t.commits = s.commits.filter (·.id != c.id) ∧ t.mem = s.mem ∧
        t.group c.serial = some g' ∧ (∀ (k : Nat) (y : Pipe), g.pipes[k]? = some y → ∃ y', g'.pipes[k]? = some y' ∧
          y'.staged = y.staged ∧ (¬ended y → y.state ≠ .unbound → y'.entries.map (·.tok) = y.entries.map (·.tok) ++
            (c.items.filter (·.1 == k)).map fun q => { q.2.tok with deps := joinDeps q.2.tok.deps c.deps }) ∧
          (ended y ∨ y.state = .unbound → y'.entries = y.entries)) ∧
        -- each token at a pipe that has seen EOS is discarded with the fault TAGSPACE; an armed frame faults at the end
        t.faults.map (·.recd.cause) = s.faults.map (·.recd.cause) ++
          (c.items.filter fun q => (g.pipes[q.1]?).any fun y => y.state == .eosSeen || y.state == .closed).map (fun _ => 0x0006) ++
          (c.armed.map (·.1.cause)).toList)) ∧
  -- END_MARK: PROD falls by one; the last mark closes a pipe without entries, a FULL one and one with entries has then seen EOS
  -- (R306); a mark more faults. A mark waits for its group's commits before it (log 31)
  (∀ (s : State) (m : Mark) (g : Group) (y : Pipe), s.marks.find? (·.id == m.id) = some m → s.group m.serial = some g →
    g.pipes[m.pipe]? = some y →
    (s.markWaits m = true → exec (.endMark m.id) s = .next s) ∧
    (s.markWaits m = false → ∃ t g' y', exec (.endMark m.id) s = .next t ∧
      t.group m.serial = some g' ∧ g'.pipes[m.pipe]? = some y' ∧ y'.entries = y.entries ∧ y'.staged = y.staged ∧
      (y.state = .unbound → y' = y ∧ t.faults = s.faults) ∧
      (y.state = .empty ∨ y.state = .open ∨ y.state = .full → t.faults = s.faults ∧ y'.prod = y.prod - 1 ∧
        y'.state = if 1 < y.prod then y.state else if y.entries = [] ∧ y.state ≠ .full then .closed else .eosSeen) ∧
      (y.state = .eosSeen ∨ y.state = .closed → y' = y ∧ ∃ r, t.faults = s.faults ++ [r] ∧ r.ctx = g.ctx ∧ r.recd.cause = 0x0006))) ∧
  -- STEAL: an idle replica takes the oldest entries of its die that have stood AGE cycles, up to RATE
  (∀ (s : State) (id : InstId) (g : Group) (i : KInst) (k : Kernel), s.group id.serial = some g →
    (g.insts.find? fun j => j.kernel == id.kernel && j.replica == id.replica) = some i → g.kernels[id.kernel]? = some k →
    let turn : Prop := g.thief k i = true ∧ s.halted g.ctx = false ∧
      ∀ j ∈ g.insts, j.kernel = i.kernel → dieOf j.n = dieOf i.n → g.thief k j = true → i.replica ≤ j.replica
    (¬turn → exec (.steal id) s = .next s) ∧
    (turn → ∃ t g', exec (.steal id) s = .next t ∧ t = { s with groups := t.groups } ∧ t.group id.serial = some g' ∧
      ∀ (p : PortRec) (y : Pipe), k.inputs.filter (·.pipe == p.pipe) = [p] → g.pipes[p.pipe]? = some y →
        let aged := y.entries.filter fun e => e.replica != i.replica && dieOf (g.coreOf i.kernel e.replica) == dieOf i.n &&
          g.age ≤ s.cycle - e.since
        ∃ (y' : Pipe) (old : List PEntry), g'.pipes[p.pipe]? = some y' ∧ old.length = min p.rate aged.length ∧ (∀ e ∈ old, e ∈ aged) ∧
          -- the oldest of them, the lower replica index first among equals
          (∀ e ∈ old, ∀ d ∈ aged, d ∉ old → e.since < d.since ∨ (e.since = d.since ∧ e.replica ≤ d.replica)) ∧
          y'.entries = y.entries.map fun e => if e ∈ old then { e with replica := i.replica, since := s.cycle } else e)) ∧
  -- REPLICA_EVALUATION: the lowest disabled replica is enabled, or the highest enabled one disabled, by HIWAT and LOWAT
  (∀ (s : State) (serial kernel : Nat) (g : Group) (k : Kernel) (p : PortRec) (ps : List PortRec) (y : Pipe),
    s.group serial = some g → g.kernels[kernel]? = some k → k.inputs = p :: ps → g.pipes[p.pipe]? = some y →
    let due : Prop := k.hiwat ≠ 0 ∧ k.dirty = true ∧ (∀ t, k.evalAt = some t → 256 ≤ s.cycle - t) ∧
      (g.state = .running ∨ g.state = .parked ∨ g.state = .draining)
    let full := ∃ o ∈ k.outputs, ∃ z, g.pipes[o.pipe]? = some z ∧ z.state = .full
    let off := (List.range k.repl).filter fun r => !k.enabled.contains r
    let raise : Prop := k.hiwat ≤ y.entries.length ∧ ¬full ∧ off ≠ []
    (¬due → exec (.replicaEvaluation serial kernel) s = .next s) ∧
    (due → ∃ (t : State) (g' : Group) (k' : Kernel) (y' : Pipe), exec (.replicaEvaluation serial kernel) s = .next t ∧ t = { s with groups := t.groups } ∧
      t.group serial = some g' ∧ g'.kernels[kernel]? = some k' ∧ k'.evalAt = some s.cycle ∧ k'.dirty = false ∧
      g'.pipes[p.pipe]? = some y' ∧
      (raise → k'.enabled = insertNat (off.headD 0) k.enabled ∧ y' = y) ∧
      (¬raise → k.lowat < y.entries.length ∨ k.enabled.length ≤ 1 → k'.enabled = k.enabled ∧ y' = y) ∧
      (¬raise → y.entries.length ≤ k.lowat → 1 < k.enabled.length →
        let last := k.enabled.getLastD 0
        k'.enabled = k.enabled.filter (· != last) ∧
        -- the entries of its list, in their places, go to other replicas
        ((y.entries.map (·.seq)).Nodup → k.inputs.filter (·.pipe == p.pipe) = [p] →
          y'.entries.map (fun e => (e.seq, e.tok)) = y.entries.map (fun e => (e.seq, e.tok)) ∧
          (∀ (j : Nat) (e e' : PEntry), y.entries[j]? = some e → y'.entries[j]? = some e' →
            if e.replica = last then e'.since = (if e'.replica = last then e.since else s.cycle) else e' = e) ∧
          (k'.enabled ≠ [] → ∀ e ∈ y'.entries, e.replica ≠ last))))) ∧
  -- GPRI, GINFO and LAUNCH
  ∀ (n : Node) (s : State) (f : Firing),
    let x (o : Nat) := s.fireOf o n f
    ((x 0).own s.consumed = none →
      (Loaded 0x165 n s f → ∃ t, Emits (.gpri n) 0x165 n s f (one 0 t) ∧ Elements f t .I 4 1 fun _ => 0) ∧
      (Loaded 0x166 n s f → ∃ t, Emits (.ginfo n) 0x166 n s f (one 0 t) ∧ Elements f t .I 8 1 fun _ => 0)) ∧
    (∀ (g : Group) (k : Kernel) (i : KInst), (x 0).own s.consumed = some (g, k, i) → s.group g.serial = some g →
      (Loaded 0x165 n s f →
        let c := (x 0x165).argI32 1 0
        (0 ≤ c → c ≤ 3 → ∃ t, Elements f t .I 4 1 (fun _ => max c.toNat g.base.toNat) ∧ Acts (.gpri n) 0x165 n s f (one 0 t) fun u =>
          u = { s.consumed with groups := u.groups } ∧ u.group g.serial = some { g with cls := BitVec.ofNat 2 (max c.toNat g.base.toNat) }) ∧
        (c < 0 ∨ 3 < c → ∃ t, Ends (.gpri n) 0x165 n s f (one 0 t) (flag clsIV 0) ∧ Elements f t .I 4 1 fun _ => g.cls.toNat)) ∧
      (Loaded 0x166 n s f → ∃ t, Emits (.ginfo n) 0x166 n s f (one 0 t) ∧ Elements f t .I 8 1 fun _ =>
        if im n = 0 then groupIdOf g.words * 2 ^ 32 + ([GState.declared, .placing, .resident, .running, .parked, .draining, .drained, .shelved].idxOf g.state) * 2 ^ 24 + i.kernel
        else if im n = 1 then i.replica * 2 ^ 32 + k.repl * 2 ^ 24 + k.enabled.length * 2 ^ 16
        else if im n = 2 then g.base.toNat * 64 + g.cls.toNat * 16 + max g.cls.toNat k.cls.toNat * 4 + s.effClass (some (g, k, i))
        else (g.words.getD 11 0).toNat)) ∧
    (Loaded 0x16B n s f → Starts (.launch n) 0x16B n s f fun p => p.kind = .launch ∧ p.st = .active ∧ p.book = 0)

/-- R330 to R339: the name of a barrier instance, the numbering of arrivals, the mismatch of N (R332), certification before release, the
circle of tickets, and the value that a BART distributes. -/
def Obligations.BarriersCountTheirGenerations : Prop :=
  -- BARA and BART send an arrival; their operation waits for the root
  (∀ (n : Node) (s : State) (f : Firing) (o : Nat) (i : Instr), (o, i) ∈ [(0x167, Instr.bara n), (0x169, .bart n)] → Fires s f →
    let inst := match field (md n) 2 0 with | 0 => f.n | 1 => f.n / 4 | 2 => f.n / 20 | _ => 0
    let v := (s.fireOf o n f).port 0
    ∃ t p a, exec i s = .next t ∧
      t = { s.consumed with ops := s.ops ++ [p], arrivals := s.arrivals ++ [a], fresh := s.fresh + 2, groups := t.groups } ∧
      p.id = s.fresh ∧ p.kind = .barArrive ∧ p.fir = f ∧ p.instr = n ∧ p.opc = o ∧ a.op = s.fresh ∧ a.gen = none ∧
      a.bar = { coll := false, ctx := f.tag.ctx.toNat, scope := field (md n) 2 0, inst := inst, ident := field (im n) 3 0 } ∧
      a.party = field (im n) 31 8 + 1 ∧ a.p5 = bitOf (md n) 3 ∧ a.deps = s.live (s.fireOf o n f).deps ∧
      a.value = if o = 0x169 ∧ bitOf (md n) 4 then some (if v.isErr then v else v.slice 0 1) else none) ∧
  -- BARW: the ticket goes on once its generation is released, on the circle of R338
  (∀ (n : Node) (s : State) (f : Firing), Loaded 0x168 n s f →
    let x := s.fireOf 0x168 n f
    let g := (x.port 0).elem 4 0 0
    let d := ((s.bar x.bar).released + 2 ^ 32 - g % 2 ^ 32) % 2 ^ 32
    (1 ≤ d → d ≤ 2 ^ 31 → s.halted f.tag.ctx = false → ∃ t, Emits (.barw n) 0x168 n s f (one 0 t) ∧ Elements f t .I 4 1 fun _ => g) ∧
    (d = 0 ∨ 2 ^ 31 < d ∨ s.halted f.tag.ctx = true → Starts (.barw n) 0x168 n s f fun p => p.kind = .barWait ∧ p.nums = [g])) ∧
  -- ARRIVE at the root: the generation being formed takes it, or a new one opens; one with another N raises FMT
  (∀ (s : State) (a : Arrival) (o : Op), s.arrivals.find? (fun y => y.id == a.id && y.gen.isNone) = some a → a.bar.coll = false →
    s.findOp a.op = some o →
    let b := s.bar a.bar
    let v := verdict o.cap (flag clsFMT 0)
    -- arrivals of one cycle are numbered by ascending core
    let turn : Prop := ∀ m, b.last = some (s.cycle, m) → m ≤ a.n
    (¬turn → exec (.arrive a.id) s = .next s) ∧
    (turn → ∀ g, b.gens.getLast? = some g → g.count < g.party → g.party = a.party ∨ (∀ c, v ≠ .halt c) →
      ∃ t g', exec (.arrive a.id) s = .next t ∧ t.mem = s.mem ∧ t.elems = s.elems ∧ (t.bar a.bar).released = b.released ∧
        (t.bar a.bar).gens = b.gens.dropLast ++ [g'] ∧ g'.gen = g.gen ∧ g'.party = g.party ∧ g'.count = g.count + 1 ∧
        g'.ops = g.ops ++ [a.op] ∧ (o.opc ≠ 0x167 → ∀ y ∈ t.arrivals, y.id ≠ a.id) ∧
        (∀ p, t.findOp o.id = some p → p.flags = if g.party = a.party then 0 else flag clsFMT 0) ∧
        (o.opc = 0x167 → ∀ y ∈ t.arrivals, y.id = a.id → y.gen = some g.gen)) ∧
    (turn → ∀ g c, b.gens.getLast? = some g → g.count < g.party → g.party ≠ a.party → v = .halt c →
      ∃ t, exec (.arrive a.id) s = .next t ∧ t.bar a.bar = s.bar a.bar ∧ t.findOp o.id = none) ∧
    (turn → (b.gens = [] ∨ ∃ g, b.gens.getLast? = some g ∧ g.party ≤ g.count) →
      ∃ t g', exec (.arrive a.id) s = .next t ∧ t.mem = s.mem ∧ t.elems = s.elems ∧ (t.bar a.bar).released = b.released ∧
        (t.bar a.bar).gens = b.gens ++ [g'] ∧ g'.gen = b.released + b.gens.length ∧ g'.party = a.party ∧ g'.count = 1 ∧
        g'.ops = [a.op])) ∧
  -- TICKET_RETURN: BARA emits its generation
  (∀ (s : State) (a : Arrival) (o : Op) (g : Nat), s.arrivals.find? (fun y => y.id == a.id && y.gen.isSome) = some a → a.gen = some g →
    s.findOp a.op = some o →
    (s.halted (BitVec.ofNat 6 a.bar.ctx) = true → exec (.ticketReturn a.id) s = .next s) ∧
    (s.halted (BitVec.ofNat 6 a.bar.ctx) = false → (∀ u ∈ o.fir.inputs, u.isErr = false) → ∃ t, Elements o.fir t .I 4 1 (fun _ => g) ∧
      exec (.ticketReturn a.id) s = .next (State.closeOp { s with arrivals := s.arrivals.filter (·.id != a.id) } o o.flags fun u =>
        o.fire.ends u (one 0 t) o.flags))) ∧
  -- DELIVERED: the oldest generation, complete and certified, wakes its BARTs and the BARWs that its release satisfies
  (∀ (s : State) (id : BarId) (g : Gen) (rest : List Gen), (s.bar id).gens = g :: rest →
    let go : Prop := g.count = g.party ∧ s.certifies g.deps false id.scope = true ∧ s.certifies g.p5 true id.scope = true ∧ s.halted (BitVec.ofNat 6 id.ctx) = false
    (¬go → exec (.delivered id) s = .next s) ∧
    (go → ∃ t, exec (.delivered id) s = .next t ∧ t.mem = s.mem ∧ (t.bar id).released = (s.bar id).released + 1 ∧ (t.bar id).gens = rest ∧
      (∀ k ∈ g.ops, ∀ o, s.findOp k = some o → o.opc = 0x169 → t.findOp k = none) ∧
      (t.halted (BitVec.ofNat 6 id.ctx) = false → ∀ o ∈ s.ops, o.kind = .barWait → o.fire.bar = id → ticketDone ((s.bar id).released + 1) (o.nums.getD 0 0) = true → t.findOp o.id = none))) ∧
  -- what a BART emits: the one value of its generation, to every party
  ∀ (s : State) (g : Gen) (o : Op),
    (∀ v, g.values = [v] → (∀ u ∈ o.fir.inputs, u.isErr = false) → ∃ t,
      s.bartOut g o = (s.closeOp o o.flags fun u => o.fire.ends u (one 0 t) o.flags) ∧ t.tag = o.fir.tag ∧ t.run = 0 ∧ t.data = v.data ∧
      t.fmt = if v.isErr then .X else o.instr.fmt) ∧
    (g.values = [] ∨ 2 ≤ g.values.length →
      s.bartOut g o = s.closeOp o (o.flags ||| flag clsFMT 0) fun u => o.fire.failEnds u clsFMT 0)

/-- R340 to R344: a use collects the ranks of its descriptor, is told of what comes twice or out of range, runs when all are there, ends
once its writes are visible, and expires with error tokens of cause 0x0B and the mask of who came. -/
def Obligations.CollectivesGatherTheirRanks : Prop :=
  (∀ (n : Node) (s : State) (f : Firing), Fires s f →
    let desc := (s.fireOf 0x16A n f).pool s.consumed (im n) 8
    let inst := match md n with | 0 => f.n | 1 => f.n / 4 | 2 => f.n / 20 | _ => 0
    ∃ t p a, exec (.coll n) s = .next t ∧
      t = { s.consumed with ops := s.ops ++ [p], arrivals := s.arrivals ++ [a], fresh := s.fresh + 2, groups := t.groups } ∧
      p.id = s.fresh ∧ p.kind = .coll ∧ p.fir = f ∧ p.instr = n ∧ p.desc = desc ∧ a.op = s.fresh ∧ a.gen = none ∧
      a.bar = { coll := true, ctx := f.tag.ctx.toNat, scope := md n, inst := inst, ident := field (leNat desc) 45 42 }) ∧
  -- a contribution reaches the engine
  (∀ (s : State) (a : Arrival) (o : Op), s.arrivals.find? (fun y => y.id == a.id && y.gen.isNone) = some a → a.bar.coll = true →
    a.op ≠ 0 → s.findOp a.op = some o → (o.fire.port 2).isErr = false → (s.bar a.bar).later = [] →
    let d := leNat o.desc
    let parts := field d 51 46 + 1
    let r := (o.fire.port 2).elem 4 0 0
    let b := s.bar a.bar
    let s' : State := { s with arrivals := s.arrivals.filter (·.id != a.id) }
    -- it joins the use that forms, or the next one where all ranks of that are there
    let full := collFull b.contribs = true
    let cur := if collFull b.contribs then [] else b.contribs
    -- refused: a rank out of range or named twice, or a descriptor other than rank 0's
    let bad : Prop := parts ≤ r ∨ ∃ c ∈ cur, c.rank = r ∨ (c.rank = 0 ∧ c.desc ≠ d)
    (bad → exec (.arrive a.id) s = .next (s'.failClose o clsFMT)) ∧
    (¬bad → (∀ c ∈ cur, c.desc = d) → ∃ t c, exec (.arrive a.id) s = .next t ∧ t = { s' with bars := t.bars } ∧ c.rank = r ∧ c.op = o.id ∧ c.desc = d ∧
      let b' := t.bar a.bar
      (¬full → b.running ≠ [] ∨ b.expired ≠ [] ∨ collFull (b.contribs ++ [c]) = false → b'.contribs = b.contribs ++ [c] ∧ b'.running = b.running ∧ b'.later = [] ∧
        b'.first = if b.contribs = [] then s.cycle else b.first) ∧
      (¬full → b.running = [] → b.expired = [] → collFull (b.contribs ++ [c]) = true → b'.contribs = [] ∧ b'.running = b.contribs ++ [c]) ∧
      (full → b.running ≠ [] ∨ b.expired ≠ [] → b'.contribs = b.contribs ∧ b'.running = b.running ∧ b'.later = [([c], s.cycle)]))) ∧
  -- all ranks are there once the contribution that governs the use is, of rank 0, and as many as its descriptor names
  (∀ (cs : List Contrib) (c : Contrib), cs.find? (·.rank == 0) = some c → (collFull cs = true ↔ field c.desc 51 46 + 1 ≤ cs.length)) ∧
  -- EXPIRE: not before the timeout since the first contribution, nor with a timeout of 0, nor while a use runs; then the use that
  -- forms is over, and its instance RELEASED (R335)
  (∀ (s : State) (id : BarId) (d : Nat), collDesc (s.bar id).contribs = some d →
    let b := s.bar id
    let due : Prop := field d 41 32 ≠ 0 ∧ field d 41 32 * 65536 ≤ s.cycle - b.first ∧ b.running = [] ∧ b.expired = [] ∧ collFull b.contribs = false
    (¬due → exec (.expire id) s = .next s) ∧
    (due → ∃ t, exec (.expire id) s = .next t ∧ t = { s with bars := t.bars } ∧ (t.bar id).contribs = (b.later.map (·.1)).headD [] ∧
      (t.bar id).running = [] ∧ (t.bar id).expired = [b.contribs] ∧ (t.bar id).state = .released)) ∧
  -- COLLECTIVE_END of a use that has expired: every contributor is told, unless the context is halted
  (∀ (s : State) (id : BarId) (cs : List Contrib) (rest : List (List Contrib)), (s.bar id).expired = cs :: rest →
    let u := s.putBar { s.bar id with expired := rest }
    (s.halted (BitVec.ofNat 6 id.ctx) = true → exec (.collectiveEnd id) s = .next s) ∧
    (s.halted (BitVec.ofNat 6 id.ctx) = false → ∃ t, exec (.collectiveEnd id) s = .next t ∧ t.mem = s.mem ∧ (t.bar id).expired = rest ∧
      (∀ c ∈ cs, t.findOp c.op = none) ∧
      ∀ c p, cs = [c] → s.findOp c.op = some p → (∀ h, verdict p.cap (flag clsPOISON 0) ≠ .halt h) → p.fir.len = 1 → ∃ e m,
        t = (u.closeOp p (flag clsPOISON 0) fun w => p.fire.emitAll w [{ out := 0, tok := e }, { out := 1, tok := m }]).startColl id ∧
        e.fmt = .X ∧ causeIn e.data = 0x0B ∧ Elements p.fir m .I 8 1 fun _ => if c.rank < 64 then 2 ^ c.rank else 0)) ∧
  -- COLLECTIVE_END: not before the use has ended and its writes are visible; then every party's outputs
  ∀ (s : State) (id : BarId) (l : Contrib) (ls : List Contrib) (o : Op), (s.bar id).expired = [] → (s.bar id).running = l :: ls → l.rank = 0 → l.op ≠ 0 →
    s.findOp l.op = some o →
    let b := s.bar id
    let d := leNat o.desc
    let ended : Prop := o.st = .complete ∧ s.halted (BitVec.ofNat 6 id.ctx) = false ∧ ∀ c ∈ b.running, s.reached c.op 127 95 id.scope = true
    (¬ended → exec (.collectiveEnd id) s = .next s) ∧
    (ended → ∃ t, exec (.collectiveEnd id) s = .next t ∧ t.mem = s.mem ∧ (∀ c ∈ b.running, t.findOp c.op = none) ∧
      (t.bar id).running = (if collFull b.contribs then b.contribs else []) ∧
      (ls = [] → l.err = none → o.fail = none → field d 63 61 ≠ 4 → o.fir.len = 1 → verdict o.cap o.flags = .go → ∃ v m,
        t = ((s.putBar { b with running := [] }).closeOp o o.flags fun u =>
          o.fire.emitAll u [{ out := 0, tok := v }, { out := 1, tok := m }]).startColl id ∧
        Elements o.fir m .I 8 1 (fun _ => 1) ∧ Elements o.fir v .I 4 1 fun _ =>
          let c := field d 24 0 + 1
          let q := field d 51 46 + 1
          if field d 63 61 = 2 then q * c else if field d 63 61 = 3 then c / q else c))

/-- R54 and R372, register by register: what a read gives, which values are legal, what a write makes of the register (FFLAGS and JFLAGS
are cleared by ones), that a supervisor register is protected, and that no other register of any context changes. A run of several elements writes the first and raises FMT (log 25). -/
def Obligations.ContextRegistersReadAndWrite : Prop :=
  ∀ (n : Node) (s : State) (f : Firing),
    let x (o : Nat) := s.fireOf o n f
    let c := s.ctx f.tag.ctx
    let base := (x 0).classb s.consumed
    let values : List (Nat × Nat) := [(0x000, f.tag.ctx.toNat), (0x001, c.csrs.partw.toNat), (0x002, base), (0x010, c.csrs.rmode.toNat),
      (0x011, c.csrs.excmode.toNat), (0x012, c.csrs.fflags.toNat), (0x013, c.csrs.jord.toNat), (0x014, c.csrs.jflags.toNat),
      (0x015, c.csrs.jtrap.toNat), (0x016, c.csrs.rngkey.toNat), (0x020, c.csrs.cntthr.toNat), (0x021, c.csrs.nqbase.toNat),
      (0x030, s.cycle % 2 ^ 64), (0x031, Config.capBase), (0x040, c.frec.count.toNat * 2 ^ 16 + c.frec.cause.toNat),
      (0x050, c.csrs.dumpdesc.toNat), (0x051, c.csrs.savedesc.toNat)]
    -- only the context of the firing changes, and becomes `c'`
    let only (u : State) (c' : Context) : Prop := u = { s.consumed with ctxs := u.ctxs } ∧ u.ctx f.tag.ctx = c' ∧
      ∀ d, d ≠ f.tag.ctx → u.ctx d = s.ctx d
    (Loaded 0x182 n s f → ∀ p ∈ values, im n = p.1 → ∃ t, Emits (.csrr n) 0x182 n s f (one 0 t) ∧ Elements f t .I 8 1 fun _ => p.2) ∧
    -- VIOLOG: a read takes the oldest entry out
    (Loaded 0x182 n s f → c.violog = [] → ∃ t, Emits (.csrrViolog n) 0x182 n s f (one 0 t) ∧ Elements f t .I 8 1 fun _ => 0) ∧
    (Loaded 0x182 n s f → ∀ spm addr rest, c.violog = (spm, addr) :: rest → ∃ t, Elements f t .I 8 1 (fun _ =>
        2 ^ 63 + (if spm then 2 ^ 62 else 0) + rest.length * 2 ^ 56 + addr % 2 ^ 56) ∧
      Acts (.csrrViolog n) 0x182 n s f (one 0 t) fun u => only u { c with violog := rest }) ∧
    -- CSRW reads the first element of its run; a longer run raises FMT beside what the write does
    let run := if 1 < f.len then flag clsFMT 0 else 0
    (Loaded 0x183 n s f → ∃ t u, Elements f t .I 8 1 (fun _ => c.violog.length) ∧ only u { c with violog := [] } ∧
      exec (.csrwViolog n) s = .next ((x 0x183).finish u (one 0 t) run)) ∧
    -- the writable registers: a legal value, what it makes of the registers; each emits the old value
    (∀ i ∈ [Instr.csrw n, .csrwFflags n, .csrwJflags n], Loaded 0x183 n s f →
      let v := ((x 0x183).port 0).elem 8 0 0
      let r := c.csrs
      let writes : List (Nat × Bool × Csrs) := [(0x010, 1 ≤ v && v ≤ 6, { r with rmode := BitVec.ofNat 3 v }),
        (0x011, decide (v < 2 ^ 16), { r with excmode := BitVec.ofNat 16 v }),
        (0x012, decide (v < 2 ^ 8), { r with fflags := r.fflags &&& ~~~ BitVec.ofNat 8 v }),
        (0x013, decide (v < 8), { r with jord := BitVec.ofNat 3 v }),
        (0x014, decide (v < 2 ^ 40), { r with jflags := r.jflags &&& ~~~ BitVec.ofNat 40 v }),
        (0x015, decide (v < 2 ^ 40), { r with jtrap := BitVec.ofNat 40 v }), (0x016, true, { r with rngkey := BitVec.ofNat 64 v }),
        (0x020, 1 ≤ v && v ≤ 65535, { r with cntthr := BitVec.ofNat 16 v }), (0x021, v % 64 == 0, { r with nqbase := BitVec.ofNat 64 v }),
        (0x050, true, { r with dumpdesc := BitVec.ofNat 64 v }), (0x051, true, { r with savedesc := BitVec.ofNat 64 v })]
      ∀ w ∈ values, im n = w.1 → ∃ t, Elements f t .I 8 1 (fun _ => w.2) ∧
        let supervised : Prop := w.1 ∈ [0x001, 0x002, 0x020, 0x050, 0x051] ∧ c.sup = false
        (supervised → exec i s = .next ((x 0x183).fail s.consumed clsPROT)) ∧
        (¬supervised → ∀ r', (w.1, true, r') ∈ writes → ∃ u, only u { c with csrs := r' } ∧
          exec i s = .next ((x 0x183).finish u (one 0 t) run)) ∧
        -- an illegal value, or any value of a register that is not writable
        (¬supervised → (∀ r', (w.1, true, r') ∉ writes) →
          exec i s = .next ((x 0x183).finish s.consumed (one 0 t) (flag clsIV 0 ||| run))))

/-- R371, R373, R374 and R415: the halting fault of a TRAP and what it changes; an armed frame; the snapshots and their layouts. (The
capability list has the model's values where the manual leaves one open, log 2.) -/
def Obligations.TrapsAndSnapshots : Prop :=
  ∀ (n : Node) (s : State) (f : Firing),
    (Loaded 0x180 n s f → f.placed → ∃ t r, exec (.trap n) s = .next t ∧ t.faults = s.faults ++ [r] ∧ r.ctx = f.tag.ctx ∧ r.level = 0 ∧
      r.recd.cause = 0x000A ∧ r.recd.code.toNat = field (im n) 15 0 ∧ r.recd.tag = f.tag ∧ r.recd.node = f.img.nodeid ∧
      r.recd.async = false ∧ t.mem = s.mem ∧ t.pend = s.pend ∧
      ((s.ctx f.tag.ctx).state = .running → (t.ctx f.tag.ctx).state = .halting ∧ (t.ctx f.tag.ctx).halt = some s.cycle ∧
        (t.ctx f.tag.ctx).byFault = true ∧ (t.ctx f.tag.ctx).csrs = (s.ctx f.tag.ctx).csrs) ∧
      (∀ m e, (t.elem m e).out = (s.elem m e).out) ∧ ((s.elem f.n f.elem).cause = 0 → (t.elem f.n f.elem).cause = 0x000A)) ∧
    (Loaded 0x181 n s f → ∀ fr, s.frame f.tag = some fr →
      let x := s.fireOf 0x181 n f
      Acts (.bkpt n) 0x181 n s f (one 0 { x.port 0 with eos := x.eos, deps := x.deps, port := 0 }) fun u =>
        FrameOnly s.consumed u f.tag { fr with armed := some (BitVec.ofNat 16 (im n)) }) ∧
    (Loaded 0x184 n s f →
      let shown (o : Op) : Prop := o.kind.progress = true ∧ (o.st = .issued ∨ o.st = .active ∨ o.st = .stopped) ∧
        o.fir.img.nodeid.toNat = im n ∧ o.fir.tag.sameFrame f.tag = true
      ((∀ o ∈ s.ops, ¬shown o) → ∃ t, Emits (.progi n) 0x184 n s f (one 0 t) ∧ Elements f t .I 8 1 fun _ => 0) ∧
      (∀ pre o post, s.ops = pre ++ o :: post → (∀ p ∈ pre, ¬shown p) → shown o →
        ∃ t, Emits (.progi n) 0x184 n s f (one 0 t) ∧ Elements f t .I 8 1 fun _ => 2 ^ 63 + o.mark % 2 ^ 32)) ∧
    -- CAPS: CAPBASE, a header word (identifier, version, length, offset of the next, FEAT), or 0
    (Loaded 0x185 n s f →
      (im n = 0 → ∃ t, Emits (.caps n) 0x185 n s f (one 0 t) ∧ Elements f t .I 8 1 fun _ => Config.capBase) ∧
      (15 ≤ im n → ∃ t, Emits (.caps n) 0x185 n s f (one 0 t) ∧ Elements f t .I 8 1 fun _ => 0) ∧
      (∀ k, 1 ≤ k → k ≤ 14 → im n = k → ∃ t feat, Emits (.caps n) 0x185 n s f (one 0 t) ∧ feat < 2 ^ 16 ∧ Elements f t .I 8 1 fun _ =>
        k * 2 ^ 48 + 2 ^ 40 + 2 ^ 32 + (if k = 14 then 0 else 2 * k) * 2 ^ 16 + feat)) ∧
    (Loaded 0x186 n s f → ∃ t, Emits (.clock n) 0x186 n s f (one 0 t) ∧ Elements f t .I 8 1 fun _ => s.cycle) ∧
    (Loaded 0x18C n s f → field (im n) 5 0 < 50 →
      let l := s.link (field (im n) 5 0)
      let k := field (im n) 5 0
      let width := if l.state = .up ∨ l.state = .degraded then (if l.half then 1 else 2) else 0
      ∃ t, Emits (.lnkst n) 0x18C n s f (one 0 t) ∧ Elements f t .I 8 1 fun _ =>
        [LState.down, .training, .up, .degraded, .recovering, .failed].idxOf l.state * 2 ^ 61 + l.far * 2 ^ 50 + width * 2 ^ 48 +
        min l.replays 65535 * 2 ^ 32 + (if k < 32 then min l.drains 65535 else 0) * 2 ^ 16 +
        (if k < 32 then 1000 else if k < 48 then 200 else 512) * width / 2)

/-- R350, R351, R375 and R376: where an operation on a context goes and what its firing emits at once; R443 and R448: the packets of a
count; R446: the sampled record. -/
def Obligations.ContextOperationsAndCounters : Prop :=
  (∀ (n : Node) (s : State) (f : Firing),
    let x (o : Nat) := s.fireOf o n f
    let t := ((x 0).port 0).elem 4 0 0
    let c := BitVec.ofNat 6 t
    let rows : List (Nat × Instr × COp) := [(0x18D, .svctxHalt n, .halt), (0x18D, .svctxSave n, .save), (0x18D, .svctxResume n, .resume),
      (0x18D, .svctxAbandon n, .abandon), (0x18D, .svctxDestroy n, .destroy), (0x18D, .svctxQuery n, .query), (0x18E, .rsctx n, .restore),
      (0x18F, .dump n, .dump)]
    ∀ r ∈ rows, Loaded r.1 n s f →
      -- no such context: status RANGE; the own context, but for HALT and QUERY: status SELF
      (64 ≤ t → ∃ u, Emits r.2.1 r.1 n s f (one 0 u) ∧ Elements f u .I 8 1 fun _ => 6 * 2 ^ 56) ∧
      (t < 64 → c = f.tag.ctx → r.2.2 ≠ .halt → r.2.2 ≠ .query → ∃ u, Emits r.2.1 r.1 n s f (one 0 u) ∧ Elements f u .I 8 1 fun _ =>
        2 * 2 ^ 56 + [CState.free, .binding, .running, .halting, .halted, .saving, .saved, .savefail, .restoring, .dumping,
          .destroyed].idxOf (s.ctx c).state * 2 ^ 48) ∧
      -- else the operation joins its target's queue, and the firing waits for its end
      (t < 64 → c ≠ f.tag.ctx ∨ r.2.2 = .halt ∨ r.2.2 = .query → ∃ u p q, exec r.2.1 s = .next u ∧
        u = { s.consumed with ops := s.ops ++ [p], fresh := s.fresh + 1, groups := u.groups, ctxs := u.ctxs } ∧
        p.id = s.fresh ∧ p.kind = .ctxOp ∧ p.fir = f ∧ p.instr = n ∧ u.ctx c = { s.ctx c with queue := (s.ctx c).queue ++ [q] } ∧
        (∀ d, d ≠ c → u.ctx d = s.ctx d) ∧ q.op = r.2.2 ∧ q.waiter = some s.fresh ∧ q.source = some f.tag.ctx ∧
        (r.1 = 0x18E → q.arg.toNat = ((x 0).port 1).elem 8 0 0 ∧ q.run = bitOf (md n) 0))) ∧
  -- CTRIG starts an operation on its counter record
  (∀ (n : Node) (s : State) (f : Firing) (i : Instr), i ∈ [Instr.ctrigStart n, .ctrigStop n] → Loaded 0x190 n s f →
    Starts i 0x190 n s f fun p => p.kind = .counter ∧ p.st = .active) ∧
  -- a start packet clears the element's counters and arms it
  (∀ (s : State) (m e : Nat), e < 128 →
    ((∀ r ∈ s.counts, elemKey m e ∉ r.starts) → exec (.startPacket m e) s = .next s) ∧
    (∀ r, (s.counts.find? fun r => r.starts.contains (elemKey m e)) = some r → ∃ t r', exec (.startPacket m e) s = .next t ∧
      t = { s with elems := t.elems, counts := t.counts } ∧ r' ∈ t.counts ∧ r' = { r with starts := r.starts.filter (· != elemKey m e),
                                                                                          reached := r.reached + 1 } ∧
      t.elem m e = { s.elem m e with ctr0 := 0, ctr1 := 0, armed := some (r.va, r.ev0, r.ev1, r.own) } ∧
      ∀ k j, j < 128 → k ≠ m ∨ j ≠ e → t.elem k j = s.elem k j)) ∧
  -- a stop packet, once the element's trace records are away, adds its counts into the record, saturating, and disarms it; counts of
  -- an earlier start of the record are lost
  (∀ (s : State) (m e : Nat) (r : Count), e < 128 →
    (s.counts.find? fun r => r.stops.contains (elemKey m e) && !r.starts.contains (elemKey m e)) = some r →
    (∀ q ∈ s.counts, q.ctx = r.ctx → q.va = r.va → q = r) →
    ((s.elem m e).traced.any (·.1 == r.va) = true → exec (.stopPacket m e) s = .next s) ∧
    ∀ ev0 ev1 start, (s.elem m e).armed = some (r.va, ev0, ev1, start) → (s.elem m e).traced.any (·.1 == r.va) = false →
      (s.core m).owner = some r.ctx → let add (sum : Nat) (c : BitVec 48) := if start = r.own then min (sum + c.toNat) (2 ^ 64 - 1) else sum
      ∃ t r', exec (.stopPacket m e) s = .next t ∧
      t.mem = s.mem ∧ r' ∈ t.counts ∧ r'.ctx = r.ctx ∧ r'.va = r.va ∧ r'.stops = r.stops.filter (· != elemKey m e) ∧
      r'.sum0 = add r.sum0 (s.elem m e).ctr0 ∧ r'.sum1 = add r.sum1 (s.elem m e).ctr1 ∧
      (t.elem m e).armed = none ∧ (t.elem m e).ctr0 = 0 ∧ (t.elem m e).ctr1 = 0) ∧
  -- each sampled cycle in which an armed element fires makes one trace record
  (∀ (s : State) (m e k : Nat) (c : BitVec 6) (va ev0 ev1 at_ : Nat) (w0 w1 : Word) (r : Count), e < 128 →
    (s.core m).owner = some c → s.findCount c va = some r → (s.elem m e).armed = some (va, ev0, ev1, r.own) →
    (s.elem m e).firedAt = some (at_, w0, w1) → r.per ≠ 0 → r.ring ≠ 0 → s.halted c = false →
    ∃ l, ((s.sample m e k).elem m e).traced = (s.elem m e).traced ++ l ∧ ∀ x, x ∈ l ↔ ∃ t, s.cycle ≤ t ∧ t < s.cycle + k ∧
      t % 2 ^ (r.per + 8) = 0 ∧ s.firesAt m e t = true ∧
      x = (va, w0 + BitVec.ofNat 64 ((s.cycleClass m e t).1 * 2 ^ 31), w1, BitVec.ofNat 64 t)) ∧
  -- the oldest record of an element is written, or counted as dropped when the ring is full
  ∀ (s : State) (m e : Nat) (c : BitVec 6), e < 128 → (s.core m).owner = some c →
    ((s.elem m e).traced = [] → exec (.traceSample m e) s = .next s) ∧
    ∀ va w0 w1 w2 rest r, (s.elem m e).traced = (va, w0, w1, w2) :: rest → s.findCount c va = some r →
      ∃ t, exec (.traceSample m e) s = .next t ∧ t.mem = s.mem ∧
        (2 ^ r.log ≤ r.written → t.pend = s.pend ∧ (t.elem m e).traced = rest ∧ { r with drops := min (r.drops + 1) (2 ^ 32 - 1) } ∈ t.counts) ∧
        (r.written < 2 ^ r.log → (t.elem m e).traced = (s.elem m e).traced ∧ t.counts = s.counts ∨
          (t.elem m e).traced = rest ∧ { r with written := r.written + 1 } ∈ t.counts)

/-- R393, R395, R397 and R398: page instructions act as operations; a leaf's count is read and cleared by one read-modify-write; the
statuses of R395 for a target or a page that is not there. -/
def Obligations.PageInstructionsAct : Prop :=
  (∀ (n : Node) (s : State) (f : Firing) (o : Nat) (i : Instr) (k : OpKind),
    (o, i, k) ∈ [(0x187, Instr.pmig n, OpKind.pmig), (0x188, .pcnt n, .page), (0x189, .pwbSet n, .pwb), (0x189, .pwbClr n, .pwb),
      (0x18A, .phashHash n, .page), (0x18A, .phashShare n, .page), (0x18A, .phashDrop n, .page), (0x18B, .bmap n, .page)] →
    Loaded o n s f →
    let x := s.fireOf o n f
    let P (p : Op) : Prop := p.kind = k ∧ p.st = .active ∧ p.book = 0 ∧ (k = .pmig ∨ k = .pwb → p.nums.head? = some 0)
    let bad : Prop := o = 0x18A ∧ (x.port 1).run ≠ 5
    (¬bad → Starts i o n s f P) ∧
    (bad → verdict x.cap (flag clsFMT 0) ≠ .go → exec i s = .next (x.fail s.consumed clsFMT)) ∧
    (bad → verdict x.cap (flag clsFMT 0) = .go → ∃ u p, exec i s = .next u ∧ u.mem = s.mem ∧ u.ops = s.ops ++ [p] ∧ P p)) ∧
  -- an operation of a page instruction at its first step
  ∀ (s : State) (o : Op), s.findOp o.id = some o → s.opRuns o = true →
    let va := o.fire.i64 0 0
    let clr := bitOf (md o.instr) 0
    let gives (i : Instr) (g : State → State) (v : Nat) : Prop := ∃ (u : State) (t : Tok), exec i s = .next (g (u.complete o [plainOut t])) ∧
      u.mem = s.mem ∧ Elements o.fir t .I 8 1 fun _ => v
    -- what the event notes of an operation that is still there: that its access has been answered, or the cycle
    let noted (u : State) : State := u.answered o
    let timed (u : State) : State := u.modOp o.id fun p => { p with since := s.cycle }
    -- PCNT: no leaf gives V 0; a leaf is read by one RMW, which under `.clr` sets COUNT to 0
    (o.kind = .page → o.opc = 0x188 → va < 2 ^ 56 → ∀ u,
      (s.walk o.fir.tag.ctx o.fir.n va o.id = (.miss, u) → gives (.memoryResponse o.id 0) noted 0) ∧
      (∀ e, s.walk o.fir.tag.ctx o.fir.n va o.id = (.leaf e, u) →
        let r := u.rmw o.id (.core o.fir.n) 0 e.addr 8 fun b =>
          if clr then some (leBytes 8 (leNat b - leNat b % 65536)) else none
        let y := leNat r.1
        ∃ t, exec (.memoryResponse o.id 0) s = .next (noted (r.2.complete o [plainOut t])) ∧ Elements o.fir t .I 8 1 fun _ =>
          (if bitOf y 63 then 2 ^ 63 else 0) + (if bitOf y 58 then 2 ^ 62 else 0) + y % 65536)) ∧
    -- PWB and PMIG name a context that exists and is bound, else status CTX
    (o.kind = .pwb → o.nums.getD 0 0 = 0 → s.pageTarget ((o.fire.port 1).elem 4 0 0) = false →
      gives (.memoryResponse o.id 0) noted (8 * 2 ^ 56)) ∧
    (o.kind = .pmig → o.nums.getD 0 0 = 0 → s.pageTarget ((o.fire.port 2).elem 4 0 0) = false →
      gives (.transferUnit o.id) timed (8 * 2 ^ 56)) ∧
    -- a page without a leaf: status NOLEAF
    (o.kind = .pwb → o.nums.getD 0 0 = 0 → s.pageTarget ((o.fire.port 1).elem 4 0 0) = true → va < 2 ^ 56 → ∀ u,
      s.walk (BitVec.ofNat 6 ((o.fire.port 1).elem 4 0 0)) o.fir.n va = (.miss, u) → gives (.memoryResponse o.id 0) noted (2 * 2 ^ 56)) ∧
    -- the order of R393 in which a leaf refuses write-blocking
    ∀ y, wbRefused y = if bitOf y 63 = false then some 2 else if bitOf y 57 then some 4 else if bitOf y 59 then some 1
      else if bitOf y 52 then some 3 else none

/-- R163: the selected elements, in a token of a granted iteration or in frame slots; R155 to R160: the rows of a selection, the cases of
a temperature and the order of what TOPK keeps. -/
def Obligations.CompressionAndRowSelections : Prop :=
  ∀ (n : Node) (s : State) (f : Firing),
    let x (o : Nat) := s.fireOf o n f
    let sel := ((List.range f.len).filter fun k => ((x 0).port 1).elem 4 0 k ≠ 0).map fun k => ((x 0).port 0).elem (nodeSize n) 0 k
    let c := sel.length
    -- token mode: a count of 0 alone, or a grant of c iterations
    (Loaded 0x1A0 n s f → bitOf (md n) 0 = false →
      (c = 0 → ∃ t, Emits (.cmpr n) 0x1A0 n s f (one 1 t) ∧ Elements f t .I 4 1 fun _ => 0) ∧
      (∀ fr i, c ≠ 0 → s.frame f.tag = some fr → fr.designate f.tag.space.toNat f.tag.iter.toNat (field (im n) 7 0) = some i →
        (i.window < c ∨ i.state = .closing ∨ i.state = .closed → exec (.cmpr n) s = .next ((x 0x1A0).fault s.consumed 0x0006)) ∧
        (c ≤ i.window → i.state = .open ∨ i.state = .full → i.waits = [] → i.grants? c = true → s.halted f.tag.ctx = false →
          fr.inst i.num = some i → ∃ a b, a.tag = { f.tag with space := BitVec.ofNat 8 i.num, iter := i.next } ∧ a.fmt = n.fmt ∧
            a.len = c ∧ a.data = sel.flatMap (leBytes (nodeSize n)) ∧ Elements f b .I 4 1 (fun _ => c) ∧
            Acts (.cmpr n) 0x1A0 n s f [{ out := 0, tok := a }, { out := 1, tok := b }] fun u => ∃ j,
              (u.frame f.tag).bind (·.inst i.num) = some j ∧ j.grants = i.grants + c ∧ j.next = i.next + BitVec.ofNat 16 c) ∧
        (c ≤ i.window → i.state = .open ∨ i.state = .full → i.waits ≠ [] ∨ i.grants? c = false ∨ s.halted f.tag.ctx = true →
          ∃ u, exec (.cmpr n) s = .next u ∧ u.elems = s.elems ∧
            ∃ p ∈ u.ops, p.id = s.fresh ∧ p.kind = .grant ∧ p.nums = [c, i.num]))) ∧
    -- slot mode: the selected elements, then +0, in f.len slots, and the count
    (Loaded 0x1A0 n s f → bitOf (md n) 0 = true → ∀ fr, s.frame f.tag = some fr →
      let free : Prop := ∀ k < f.len, im n + k < fr.size ∧ Assoc.get none fr.slots (im n + k) = none
      (free → ∃ t, Elements f t .I 4 1 (fun _ => c) ∧ Acts (.cmpr n) 0x1A0 n s f (one 1 t) fun u => ∃ sl,
        FrameOnly s.consumed u f.tag { fr with slots := sl } ∧
        (∀ k < f.len, Assoc.get none sl (im n + k) = some (BitVec.ofNat 64 (sel.getD k 0))) ∧
        ∀ k, k < im n ∨ im n + f.len ≤ k → Assoc.get none sl k = Assoc.get none fr.slots k) ∧
      (¬free → exec (.cmpr n) s = .next ((x 0x1A0).fault s.consumed 0x0006))) ∧
    -- TOPK and SAMPLE start on their rows; a SAMPLE whose one temperature is bad gives TEMP without reading
    (Loaded 0x1A2 n s f → Starts (.topk n) 0x1A2 n s f fun p => p.kind = .select ∧ p.st = .active ∧ p.book = 0 ∧ p.vals = [] ∧
      p.desc = (x 0x1A2).pool s.consumed (im n) 8) ∧
    (Loaded 0x1A3 n s f → f.len = 1 →
      let t := ((x 0x1A3).port 1).elem (nodeSize n) 0 0
      (tempBad n.fmt t = none → ∃ u p, exec (.sample n) s = .next u ∧ u.mem = s.mem ∧ u.elems = s.elems ∧ p ∈ u.ops ∧ p.id = s.fresh ∧
        p.kind = .select ∧ p.st = .active ∧ p.book = if tempOf n.fmt t = .infinite then 2 ^ 23 else 0) ∧
      (∀ iv, tempBad n.fmt t = some iv → (∀ h, verdict (x 0x1A3).cap (if iv then flag clsIV 0 else 0) ≠ .halt h) →
        ∃ (u : State) (p : Op) (e : Tok), exec (.sample n) s = .next (u.complete p (plainOut e :: p.fire.ordOuts 0)) ∧ p.fir = f ∧ e.fmt = .X ∧
          causeIn e.data = 0x0A ∧ u.mem = s.mem)) ∧
    -- the order of R157 on one pair inserted: it goes before the first pair that it precedes
    ∀ (p : Nat × Nat) (l : List (Nat × Nat)), ∃ a b, l = a ++ b ∧ insertPair .D p l = a ++ p :: b ∧
      (∀ q ∈ a, precedes .D p q = false) ∧ ∀ q r, b = q :: r → precedes .D p q = true

/-- R44, R49 to R53, R215, R362 and R407 on the stream from one bindery to one core: what each command word does to its region, to the selected core
and, at COMMIT, to the elements. -/
def Obligations.CommandWordsActInTheirRegion : Prop :=
  ∀ (s : State) (b k : Nat), s.stream = some (b, k) → k < 160 →
    let x := s.feed b k
    let s0 : State := { s with stream := none }
    -- only the stream from bindery `b` to core `k` changes, and becomes `y`
    let binds (t : State) (y : Feed) : Prop := t.feed b k = y ∧ ∀ d m, m < 160 → d ≠ b ∨ m ≠ k → t.feed d m = s.feed d m
    let only (t : State) (y : Feed) : Prop := t = { s0 with feeds := t.feeds } ∧ binds t y
    -- nothing changes but that the core `m`, where it belongs to a context, raises ILLEGAL_OP
    let refused (t : State) (m : Option Nat) : Prop := t.cores = s.cores ∧ t.elems = s.elems ∧ t.feeds = s.feeds ∧
      ((∀ m', m = some m' → (s.core m').owner = none) → t = s0) ∧
      (∀ m' o, m = some m' → (s.core m').owner = some o → ∃ r, t.faults = s.faults ++ [r] ∧ r.ctx = o ∧ r.recd.cause = 1 ∧
        r.recd.die = BitVec.ofNat 4 (m' / 20) ∧ r.recd.core = BitVec.ofNat 5 (m' % 20))
    let selected (d : BitVec 4) (c : BitVec 5) : Option Nat := if d.toNat < 8 ∧ c.toNat < 20 then some (20 * d.toNat + c.toNat) else none
    let target : Option Nat := match x.sel with
      | some (d, c) => if d < 8 ∧ c < 20 then some (20 * d + c) else none
      | none => none
    -- outside a region: SELECT, EXTEND and WRITE are discarded
    (x.region = none →
      (∀ d c, ∃ t, exec (.configSelect d c) s = .next t ∧ refused t (selected d c)) ∧
      (∀ h, ∃ t, exec (.extend h) s = .next t ∧ refused t target) ∧
      (∀ e f v, ∃ t, exec (.configWrite e f v) s = .next t ∧ refused t target) ∧
      exec .configCommit s = .next s0 ∧
      (∀ c, ∃ t, exec (.regionBegin c) s = .next t ∧ only t { x with region := some c, touched := [], odd := false, ext := 0, extSet := false })) ∧
    (∀ c, x.region = some c →
      -- BEGIN inside a region aborts it: what its cores staged is gone, and they raise ILLEGAL_OP
      (∀ c', ∃ t, exec (.regionBegin c') s = .next t ∧ binds t { x with region := some c', touched := [], odd := false, ext := 0, extSet := false } ∧
        ∀ m ∈ x.touched, (t.core m).staged = [] ∧ ∀ o, (s.core m).owner = some o → ∃ r ∈ t.faults, r.ctx = o ∧ r.recd.cause = 1) ∧
      (∀ d e, ∃ t, exec (.configSelect d e) s = .next t ∧ only t { x with sel := some (d.toNat, e.toNat), touched := (t.feed b k).touched } ∧
        (∀ m, selected d e = some m → (t.feed b k).touched = insertNat m x.touched) ∧
        (selected d e = none → (t.feed b k).touched = x.touched)) ∧
      (∀ h, ∃ t, exec (.extend h) s = .next t ∧ only t { x with ext := h, extSet := true }) ∧
      -- WRITE: staged on the selected core, or noted as illegal for COMMIT
      (∀ (e f : BitVec 7) (v : BitVec 16), ∃ t, exec (.configWrite e f v) s = .next t ∧
        t = { s0 with feeds := t.feeds, cores := t.cores } ∧ (t.feed b k).ext = 0 ∧
        (target = none → t.cores = s.cores) ∧
        ∀ m, target = some m → binds t { x with ext := 0, extSet := false, touched := insertNat m x.touched } ∧
          (∀ m', m' ≠ m → t.core m' = s.core m') ∧
          let wide : Prop := f.toNat ∈ [0x09, 0x0A, 0x0B, 0x0C, 0x0D, 0x11, 0x12, 0x13, 0x18]
          let legal : Prop := e.toNat < 90 ∧ (f.toNat ≤ 0x0D ∨ 0x10 ≤ f.toNat ∧ f.toNat ≤ 0x18) ∧ (x.ext ≠ 0 → wide) ∧
            (f.toNat = 0x08 → v.toNat % 32 < slotCount e.toNat)
          (legal → t.core m = { s.core m with staged := (s.core m).staged ++ [(e.toNat, f.toNat, x.ext.toNat, v.toNat)] }) ∧
          (¬legal → t.core m = { s.core m with bad := insertNat e.toNat (s.core m).bad })) ∧
      -- COMMIT of the last core of a region, which no running context owns and whose counters are at rest
      (∀ m, x.touched = [m] → (∀ o, (s.core m).owner = some o → s.halted o = true) → (∀ g ∈ s.groups, g.state ≠ .placing) →
        (∀ e, e < 90 → (s.elem m e).armed = none ∧ (s.elem m e).ctr0 = 0 ∧ (s.elem m e).ctr1 = 0) → (∀ w ∈ (s.core m).staged, w.1 < 90) →
        let y (e : Nat) : Elem := ((s.core m).staged.filter fun w => w.1 == e).foldl (fun y w => y.put w.2.1 w.2.2.1 w.2.2.2) (s.elem m e)
        -- an element with an illegal WRITE, or one of whose written slots now holds a reserved opcode
        let wrong (e : Nat) : Prop := e ∈ (s.core m).bad ∨ ((∃ w ∈ (s.core m).staged, w.1 = e) ∧
          ∃ j ∈ slotsWritten e (s.elem m e).slotsel.toNat (s.core m).staged, rowOf (field ((y e).slot j).iw.toNat 63 55) = none)
        ∃ t, exec .configCommit s = .next t ∧ binds t { x with touched := [], region := none, odd := false, ext := 0, extSet := false } ∧
          t.core m = { s.core m with staged := [], bad := [], applied := some s.cycle } ∧
          (∀ e, e < 90 → ¬wrong e → t.elem m e = y e) ∧
          (∀ e, e < 90 → wrong e → ∃ c p a, t.elem m e = { y e with cause := c, culprit := p, async := a } ∧
            ∀ o, (s.core m).owner = some o → ∃ r ∈ t.faults, r.ctx = o ∧ r.recd.cause = 1 ∧ r.recd.elem.toNat = e) ∧
          (∀ m' e, m' ≠ m → e < 128 → t.elem m' e = s.elem m' e) ∧
          -- a reserved command of the region, or a WRITE to no element, is the core's
          (x.odd = true ∨ (∃ e ∈ (s.core m).bad, 90 ≤ e) → ∀ o, (s.core m).owner = some o → ∃ r ∈ t.faults, r.ctx = o ∧ r.recd.cause = 1))) ∧
    -- ABORT
    (∃ t, exec .regionAbort s = .next t ∧ t = { s0 with feeds := t.feeds, cores := t.cores } ∧
      binds t { x with region := none, touched := [], odd := false, ext := 0, extSet := false } ∧
      (∀ m ∈ x.touched, t.core m = { s.core m with staged := [], bad := [] }) ∧ ∀ m, m ∉ x.touched → t.core m = s.core m) ∧
    -- QUOTA, at once
    (∀ (e : BitVec 7) (q : BitVec 9), ∃ t, exec (.quota e q) s = .next t ∧ ((target = none ∨ 90 ≤ e.toNat) → t = s0) ∧
      ∀ m, target = some m → e.toNat < 90 → (t.elem m e.toNat).equota = q ∧ ∀ e', e' < 128 → e' ≠ e.toNat → t.elem m e' = s.elem m e') ∧
    -- the overlays, and DRAINREQ
    (∀ (cmd : BitVec 6 → Instr) (was : CState) (way : Nat), (cmd, was, way) ∈ [(Instr.saveovl, .saving, 1), (.restoreovl, .restoring, 2)] →
      ∀ c, (s.core k).owner = some c → (s.ctx c).state = was → ∃ t, exec (cmd c) s = .next t ∧ t = { s0 with cores := t.cores } ∧
        t.core k = { s.core k with shift := way } ∧ ∀ m, m ≠ k → t.core m = s.core m) ∧
    (∀ c, ∃ (t u : State), exec (.drainreq c) s = .next t ∧ t = u.settleGroups ∧ u = { s0 with groups := u.groups } ∧ u.groups.length = s.groups.length ∧
      ∀ (j : Nat) (g : Group), s.groups[j]? = some g → ∃ g' : Group, u.groups[j]? = some g' ∧ g' = { g with insts := g'.insts } ∧
        g'.insts.length = g.insts.length ∧ ∀ (m : Nat) (i : KInst), g.insts[m]? = some i → ∃ i' : KInst, g'.insts[m]? = some i' ∧
          let cut : Prop := g.ctx = c ∧ i.n = k ∧ i.cut = false ∧ i.state ∈ [KState.resident, .parked, .firing]
          (¬cut → i' = i) ∧ (cut → i' = { i with cut := true, state := .draining, fires := i'.fires, lastCut := i'.lastCut } ∧
            (i.state = .firing → i'.fires = i.fires) ∧
            ∀ kern, g.kernels[i.kernel]? = some kern → ∀ q ∈ kern.inputs, ∀ e, (g.queue i q.pipe).getLast? = some e → (q.pipe, e.1) ∈ i'.lastCut)) ∧
    -- a report of an applied command moves the window of its core on by one
    (∀ d m, m < 160 → ((s.feed d m).unsaid = 0 → exec (.commandAppliedReport d m) s = .next s) ∧
      ((s.feed d m).unsaid ≠ 0 → ∃ t, exec (.commandAppliedReport d m) s = .next t ∧ t = { s with feeds := t.feeds } ∧
        t.feed d m = { s.feed d m with unsaid := (s.feed d m).unsaid - 1 } ∧
        ∀ d' m', m' < 160 → d' ≠ d ∨ m' ≠ m → t.feed d' m' = s.feed d' m')) ∧
    -- of a core's words at most 256 are not reported; each has its number, and the core applies them in that order
    (∀ d n w rest, (s.bind d).stream = (n, w) :: rest →
      (256 ≤ (s.feed d n).flight.length + (s.feed d n).unsaid → s.sendWord d = s) ∧
      (s.maySend d = true → ((s.sendWord d).bind d).stream = rest ∧ ((s.sendWord d).feed d n).next = (s.feed d n).next + 1 ∧
        ((s.sendWord d).feed d n).flight = (s.feed d n).flight ++ [((s.feed d n).next, w, false)])) ∧
    (∀ d n w t, s.takeWord d n = some (w, t) → ((s.feed d n).due, w, true) ∈ (s.feed d n).flight ∧ t.stream = some (d, n)) ∧
    -- what one staged write makes of an element: SLOTSEL, an instruction or literal halfword, a 32-bit field, EQUOTA
    (∀ (y : Elem) (h v : Nat), v < 2 ^ 16 → h < 2 ^ 16 →
      (y.put 0x08 h v) = { y with slotsel := BitVec.ofNat 5 v } ∧ (y.put 0x15 h v) = { y with equota := BitVec.ofNat 9 v } ∧
      (y.put 0x18 h v) = { y with sshare := BitVec.ofNat 32 (h * 2 ^ 16 + v) } ∧
      (∀ f, f ≤ 0x07 ∨ 0x09 ≤ f ∧ f ≤ 0x0D ∨ 0x10 ≤ f ∧ f ≤ 0x13 → (y.put f h v).slotsel = y.slotsel ∧
        ∀ j, j ≠ y.slotsel.toNat → (y.put f h v).slot j = y.slot j) ∧
      let now (f : Nat) : Slot := (y.put f h v).slot y.slotsel.toNat
      (∀ f, f < 4 → ∀ i, i < 64 → (now f).iw.getLsbD i = if i / 16 = f then v.testBit (i % 16) else (y.slot y.slotsel.toNat).iw.getLsbD i) ∧
      (∀ f, f < 4 → ∀ i, i < 64 → (now (f + 4)).lw.getLsbD i = if i / 16 = f then v.testBit (i % 16) else (y.slot y.slotsel.toNat).lw.getLsbD i) ∧
      (now 0x09).dest0.toNat = h * 2 ^ 16 + v ∧ (now 0x0A).dest1.toNat = h * 2 ^ 16 + v ∧ (now 0x0B).dest2.toNat = h * 2 ^ 16 + v ∧
      (now 0x10).sfmt.toNat = v % 256 ∧ (now 0x11).conv0.toNat = h * 2 ^ 16 + v ∧ (now 0x13).conv2.toNat = h * 2 ^ 16 + v)

/-- R308, R314 to R316, R325, R329 and R346: how a bindery reads its queues and what becomes of a launch record. That the queue's next entry is
kept beside HEAD, and that the event names the serving bindery, are log 14. -/
def Obligations.LaunchesAreReadCheckedAndBound : Prop :=
  ∀ (s : State) (die : Nat),
    let b := s.bind die
    let waits (c : BitVec 6) : Prop := (s.ctx c).state ∈ [CState.binding, .saving, .saved, .savefail, .restoring]
    -- LAUNCH_RECORD takes the first record whose context is not being bound, saved or restored
    ((∀ l ∈ b.launches, waits l.ctx) → exec (.launchRecord die) s = .next s) ∧
    (s.plat.up = true → ∀ (pre post : List Launch) (l : Launch), b.launches = pre ++ l :: post → (∀ p ∈ pre, waits p.ctx) → ¬waits l.ctx →
      let w (i : Nat) : Nat := (l.words.getD i 0).toNat
      let s1 (t : State) : State := { s with binderies := t.binderies, pend := t.pend }
      -- what reading a record's tables and its folio changes: which pending writes have been returned
      let read (t : State) : Prop := t.pend.map (fun u => { u with read := true }) = s.pend.map fun u => { u with read := true }
      -- one record at COMPL: STATUS 2, the error, GROUP, the node and CYCLE
      let refused (t : State) (err node : Nat) : Prop := ∃ o : Op, t = { s1 t with ops := s.ops ++ [o], fresh := s.fresh + 1 } ∧ o.kind = .record ∧
        o.nums.head? = some (w 10) ∧ o.desc = leBytes 8 (2 * 2 ^ 48 + err * 2 ^ 32 + w 0 / 2 ^ 16 % 2 ^ 16) ++ leBytes 8 node ++ leBytes 8 s.cycle ++
          List.replicate 40 0
      let taken (t : State) : Prop := (t.bind die).launches = b.launches.filter (fun k => k.serial != l.serial) ∧ ∀ d, d ≠ die → t.bind d = s.bind d
      -- a record without its COMPL, or one that breaks R314
      (l.words.length ≠ 16 ∨ w 10 % 64 ≠ 0 → ∃ t, exec (.launchRecord die) s = .next t ∧ taken t ∧ t = { s with binderies := t.binderies }) ∧
      (l.words.length = 16 → w 10 % 64 = 0 → (w 0 / 2 ^ 56 ≠ 1 ∨ w 1 % 64 ≠ 0 ∨ 256 < w 0 / 2 ^ 32 % 2 ^ 9 ∨ w 12 ≠ 0 ∨ w 15 ≠ 0) →
        ∃ t, exec (.launchRecord die) s = .next t ∧ taken t ∧ refused t 0x12 0x3FFFF ∧ t.pend = s.pend) ∧
      -- a record at physical addresses is refused with some load error, or its group is PLACING
      (l.words.length = 16 → w 10 % 64 = 0 → bitOf (w 0) 41 = false → ∃ t, exec (.launchRecord die) s = .next t ∧ taken t ∧ read t ∧
        ((∃ err node, 1 ≤ err ∧ err ≤ 0x17 ∧ refused t err node) ∨
          (∃ g : Group, t.groups = s.groups ++ [g] ∧ g.state = .placing ∧ g.serial = l.serial ∧ g.ctx = l.ctx ∧ g.words = l.words ∧
            g.source = l.source ∧ g.base.toNat = w 0 / 2 ^ 48 % 4 ∧ g.compl.toNat = w 10 ∧
            -- its pipes are bound when it is configured
            (∀ p ∈ g.pipes, p.state = .unbound ∧ p.entries = []) ∧
            -- the cores where it is placed join the partition, those of a quad it spans included, and no others
            (∀ i ∈ g.insts, i.n ∈ maskCores l.words ∧ i.n ∈ g.cores) ∧ (∀ n ∈ g.cores, (t.core n).owner = some l.ctx) ∧
            ∀ n, n ∉ g.cores → t.core n = s.core n) ∧
          (t.ctx l.ctx).csrs = { (s.ctx l.ctx).csrs with partw := BitVec.ofNat 32 (w 5) } ∧ (∀ c, c ≠ l.ctx → t.ctx c = s.ctx c) ∧
          b.stream <+: (t.bind die).stream ∧ t.feeds = s.feeds ∧ t.ops = s.ops ∧ t.elems = s.elems ∧ t.mem = s.mem))) ∧
    -- SUBMISSION_TAIL: a queue at address `addr` that bindery `die` serves
    (∀ addr k, die < 8 → addr % 64 = 0 → fieldKey addr 64 = some k → s.poison = [] →
      let e := .submissionTail (addr + die)
      let w (i : Nat) : Nat := leNat ((s.seen (.core (20 * die)) 6 k 64).drop (8 * i) |>.take 8)
      -- the object once read
      let s1 : State := (s.rd (.core (20 * die)) 6 k 64).2
      -- HEAD is the object's, or the bindery's own number while its write of HEAD is not yet visible to it
      let mine : Bool := s1.pend.any fun u => u.issuer == .core (20 * die) && u.overlaps (k + 16) 8 && !u.seenBy (.core (20 * die)) 6
      let head := match mine, Assoc.get none b.queues (addr + die) with
        | true, some h => h
        | _, _ => w 2 % 2 ^ 32
      let hears : Prop := s.plat.up = true ∧ s.tether = true ∧ b.launches.length < 16
      let writes (t : State) (off v : Nat) : Prop := ∃ x ∈ t.pend, x.addr = k + off ∧ x.data = leBytes 8 v
      (¬hears → exec e s = .next s) ∧
      -- STOP: no entry is read, and HEAD counts anew
      (hears → bitOf (w 4) 2 = true → ∃ t, exec e s = .next t ∧ t = { s1 with binderies := t.binderies } ∧
        t.bind die = { b with queues := (t.bind die).queues } ∧ Assoc.get none (t.bind die).queues (addr + die) = none) ∧
      -- a malformed object: ERR and STOP
      (hears → bitOf (w 4) 2 = false → sqBad ((List.range 8).map w) head = true → ∃ t, exec e s = .next t ∧ t.mem = s.mem ∧
        writes t 32 (w 4 ||| 5) ∧ (t.bind die).launches = b.launches) ∧
      (hears → bitOf (w 4) 2 = false → sqBad ((List.range 8).map w) head = false → w 3 % 2 ^ 32 = head → exec e s = .next s1) ∧
      -- the next entry: HEAD moves on, and the record is accepted with its serial number, or the command taken
      (hears → bitOf (w 4) 2 = false → sqBad ((List.range 8).map w) head = false → w 3 % 2 ^ 32 ≠ head → 2 ≤ w 1 % 2 ^ 8 →
        ∀ j, fieldKey (sqBase (w 0) + head % 2 ^ (w 1 / 2 ^ 8 % 2 ^ 5) * 64 * (w 1 % 2 ^ 8)) 128 = some j →
          let ws := wordsOf (s1.seen (.core (20 * die)) 6 j 128)
          let w0 := (ws.getD 0 0).toNat
          ∃ t, exec e s = .next t ∧ t.mem = s.mem ∧ writes t 16 ((head + 1) % 2 ^ 32) ∧
            Assoc.get none (t.bind die).queues (addr + die) = some ((head + 1) % 2 ^ 32) ∧
            (w0 / 2 ^ 56 ≠ 0x80 → (t.bind die).serial = b.serial + 1 ∧ ∃ l : Launch, (t.bind die).launches = b.launches ++ [l] ∧
              l.number = b.serial ∧ l.ctx = BitVec.ofNat 6 (w0 / 2 ^ 50) ∧ l.words = ws ∧ l.source = none) ∧
            (w0 / 2 ^ 56 = 0x80 → (t.bind die).launches = b.launches ∧
              -- HALT, of code 0, on context c
              (w0 % 2 ^ 50 = 0 → (∀ i, 1 ≤ i → i < 8 → i ≠ 2 → ws.getD i 0 = 0) → ∀ c : BitVec 6, c.toNat = w0 / 2 ^ 50 % 64 →
                t.ctx c = { s.ctx c with queue := (s.ctx c).queue ++ [{ op := .halt, arg := 0, run := false, compl := some (ws.getD 2 0) }] }))))

/-- R264: what another package may do here, and R297: what the companion processor may do, each access being performed as a write in coherence
order that is visible to no one else yet. (A read that no leaf has to be updated for only notes what it returned.) -/
def Obligations.OutsideAccessesAreCheckedAndPerformed : Prop :=
  -- REMOTE_ACCESS: refused without effect, or it joins the accesses of its unit
  (∀ (s : State) (r : RemoteReq),
    let c := BitVec.ofNat 6 r.rctx
    let x := s.ctx c
    let size := if r.write then r.data.length else r.size
    let admitted : Prop := r.via < 16 ∧ (s.link (32 + r.via)).state ∈ [LState.up, .degraded] ∧ r.pkg < 2048 ∧ r.rctx < 64 ∧ x.state ≠ .free ∧
      x.state ≠ .destroyed ∧ x.pod = true ∧ r.pod = true ∧ x.job.toNat = r.job ∧ size ∈ [1, 2, 4, 8]
    let kind : AccKind := if r.write then (if r.add.isSome then .rmw 0 else .write) else .read
    let a : Access := { e := 0, j := 0, spm := false, va := r.va, size := size, kind := kind, data := r.data, since := s.cycle }
    let unit (o : Op) : Prop := o.kind = .remote ∧ o.nums = [r.pkg, r.unit, r.rctx]
    (¬admitted → exec (.remoteAccess r) s = .next s) ∧
    (admitted → s.ops.Pairwise (fun p q => p.id ≠ q.id) → (∀ o ∈ s.ops, o.id < s.fresh) →
      (∀ pre o post, s.ops = pre ++ o :: post → (∀ p ∈ pre, ¬unit p) → unit o → exec (.remoteAccess r) s = .next { s with
        ops := pre ++ { o with accs := o.accs ++ [a], vals := if r.last then [1] else o.vals } :: post }) ∧
      ((∀ o ∈ s.ops, ¬unit o) → ∃ o, exec (.remoteAccess r) s = .next { s with ops := s.ops ++ [o], fresh := s.fresh + 1 } ∧
        o.id = s.fresh ∧ unit o ∧ o.st = .active ∧ o.fir.tag.ctx = c ∧ o.fir.n = s.masterCore c ∧ o.accs = [a] ∧ (o.vals ≠ [] ↔ r.last = true) ∧
        ∀ φ, r.add = some φ → o.instr.fmt = φ))) ∧
  -- and its performance: under a translation of its context, on P1, issued by that package and counted
  (∀ (s : State) (o : Op) (i : Nat) (a : Access), s.findOp o.id = some o → o.kind = .remote → o.st = .active → o.fir.elem = 90 → o.accs[i]? = some a → a.spm = false →
    let go := exec (.memoryResponse o.id i) s
    let r : Req := { ctx := o.fir.tag.ctx, n := o.fir.n, iss := .remote (o.nums.getD 0 0), path := 1, va := a.va, size := a.size, kind := a.kind,
                     fmt := o.instr.fmt, data := a.data, own := o.id, count := true }
    let left := o.accs.eraseIdx i
    -- the access is over: the unit is, once the last of its last access is
    let ends (u : State) (p : Op) : State := if left = [] ∧ o.vals ≠ [] then { u with ops := u.ops.filter (·.id != o.id) } else u.putOp { p with accs := left }
    -- one that write-blocking stalls stays, and is tried again
    ((s.access r (o.leaves, o.pins)).1 = .stall → ∃ p, go = .next ((s.access r (o.leaves, o.pins)).2.2.putOp p) ∧ p.id = o.id ∧
      p.accs.length = o.accs.length ∧ p.accs[i]? = some { a with st := .stalled } ∧
      exec (.stalledWriteRetry o.id i) s = go) ∧
    (a.size ∈ [1, 2, 4, 8] → a.va % a.size ≠ 0 ∨ 2 ^ 56 ≤ a.va → go = .next (ends s o)) ∧
    -- a write under a leaf that permits it, counts nothing and has its bits A and D already
    (a.size ∈ [1, 2, 4, 8] → a.va % a.size = 0 → a.va < 2 ^ 56 → (Config.capBase + 2 ^ 16 ≤ a.va ∨ a.va + a.size ≤ Config.capBase) → s.poison = [] →
      o.pins = [] → ∀ e s', s.walk o.fir.tag.ctx o.fir.n a.va o.id = (.leaf e, s') →
        let p := e.pte.toNat
        (a.kind ≠ .read → bitOf p 57 = true ∨ bitOf p 61 = false ∨ bitOf p 52 = true → go = .next (ends s' o)) ∧
        (a.kind ≠ .read → bitOf p 57 = false → bitOf p 61 = true → bitOf p 52 = false → bitOf p 59 = true →
          ∃ q, go = .next (s'.putOp q) ∧ q.accs[i]? = some { a with st := .stalled }) ∧
        (bitOf p 57 = false → bitOf p 61 = true → bitOf p 52 = false → bitOf p 59 = false → bitOf p 60 = false →
          bitOf p 56 = true → bitOf p 55 = true → bitOf p 58 = false →
          let o' : Op := { o with leaves := insertNat e.addr o.leaves }
          let o' : Op := if o.leaves.contains e.addr then o else o'
          (a.kind = .write → ∃ (t : State) (u : Write), go = .next (ends t o') ∧ t = { s' with pend := t.pend, pick := t.pick, fresh := t.fresh } ∧
            u.addr = e.key a.va ∧ u.data = a.data ∧ u.issuer = .remote (o.nums.getD 0 0) ∧ u.own = o.id ∧
            ∃ y z, s'.pend = y ++ z ∧ t.pend = y ++ u :: z) ∧
          -- the add of another package's copy is one RMW, in the format it names
          (a.kind = .rmw 0 → go = .next (ends (s'.rmw o.id (.remote (o.nums.getD 0 0)) 1 (e.key a.va) a.size fun b =>
            (rmwValue 0 o.instr.fmt (8 * a.size) (leNat b) (leNat a.data) (leNat a.cmp)).map (leBytes a.size)).2 o'))))) ∧
  -- HOST_ACCESS
  ∀ (s : State) (r : HostReq),
    let size := if r.write then r.data.length else r.size
    (fieldKey r.addr size = none ∨ size = 0 ∨ (bitOf r.addr 63 = false ∧ s.tether = false) → exec (.hostAccess r) s = .next s) ∧
    (∀ k, fieldKey r.addr size = some k → size ≠ 0 → (bitOf r.addr 63 = true ∨ s.tether = true) → s.poisoned k size = false →
      -- the bytes of the report area that only the device writes
      let ro (b : Nat) : Bool := 3 ≤ s.plat.stage && s.plat.report ≤ b && reportRo (b - s.plat.report)
      (r.write = false → ∃ t, exec (.hostAccess r) s = .next t ∧ t = { s with pend := t.pend } ∧
        t.pend.map (fun w => { w with read := true }) = s.pend.map fun w => { w with read := true }) ∧
      (r.write = true → (∀ j, j < size → ro (k + j) = false) → ∃ (t : State) (u : Write), exec (.hostAccess r) s = .next t ∧
        t = { s with pend := t.pend, pick := t.pick, fresh := t.fresh } ∧ u.addr = k ∧ u.data = r.data ∧ u.issuer = .host ∧ u.loose = r.loose ∧
        ∃ a z, s.pend = a ++ z ∧ t.pend = a ++ u :: z) ∧
      -- what would write them is lost
      (r.write = true → ∃ t, exec (.hostAccess r) s = .next t ∧ t = { s with pend := t.pend, pick := t.pick, fresh := t.fresh } ∧
        ∀ u ∈ t.pend, u ∈ s.pend ∨ (u.issuer = .host ∧ ∀ j, j < u.data.length → ro (u.addr + j) = false)))

/-- R347 to R351, R360, R361, R364, R365, R368 and R375: when an operation is taken, in which states it is legal, what it leaves, and how its
end is reported. The codes are those of R375: 0 DONE, 1 STATE, 3 NODESC, 4 SHAPE. -/
def Obligations.OperationsFollowTheStateTable : Prop :=
  ∀ (s : State) (c : BitVec 6),
    let x := s.ctx c
    let kinds : List (COp × Instr) := [(.halt, .haltop c), (.save, .saveop c), (.resume, .resumeop c), (.abandon, .abandonop c),
      (.destroy, .destroyop c), (.query, .queryop c), (.restore, .restoreop c), (.dump, .dumpop c), (.bind, .bindop c)]
    -- only the context `c` changes, and becomes `y`
    let only (t : State) (y : Context) : Prop := t = { s with ctxs := t.ctxs } ∧ t.ctx c = y ∧ ∀ d, d ≠ c → t.ctx d = s.ctx d
    -- one operation at a time, in order: nothing happens where one is present or the head is of another kind
    (∀ k ∈ kinds, (x.holding ≠ none ∨ ∀ o, x.queue.head? = some o → o.op ≠ k.1) → exec k.2 s = .next s) ∧
    (∀ (o : CtxOp) (r : List CtxOp), x.holding = none → x.queue = o :: r →
      let s1 := s.modCtx c fun y => { y with queue := r }
      -- the operation ends at once with a code
      let ends (i : Instr) (code result : Nat) : Prop := exec i s = .next (s1.endOp c o code result)
      -- states in which each kind is legal; elsewhere it ends with STATE
      (∀ p ∈ ([(.halt, [.running]), (.save, [.running, .halted]), (.resume, [.halted, .savefail]), (.abandon, [.savefail]),
          (.destroy, [.running, .binding, .halted, .saved, .savefail]), (.restore, [.free, .saved]), (.dump, [.running, .halted, .savefail]),
          (.bind, [.free])] : List (COp × List CState)),
        o.op = p.1 → x.state ∉ p.2 → ∀ k ∈ kinds, k.1 = p.1 → ends k.2 1 0) ∧
      -- RUNNING: the halt line rises with the operation held; a self-HALT has emitted its element before
      (x.state = .running →
        (∀ k ∈ kinds, k.1 = o.op → o.op ∈ [COp.halt, .save, .destroy, .dump] → (o.op = .halt → o.source ≠ some c) → ∃ (t : State), exec k.2 s = .next t ∧
          only t { x with queue := r, state := .halting, halt := some s.cycle, byFault := false, holding := some o }) ∧
        (o.op = .halt → o.source = some c → exec (.haltop c) s = .next ((s1.endOp c o 0 0).modCtx c fun y =>
          { y with state := .halting, halt := some (s1.endOp c o 0 0).cycle, byFault := false, holding := some { o with waiter := none } }))) ∧
      (o.op = .query → ends (.queryop c) 0 x.frec.st) ∧
      (o.op = .bind → x.state = .free → ∃ (t : State), exec (.bindop c) s = .next t ∧ only t { x with queue := r, state := .binding, holding := some o }) ∧
      -- SAVE of a HALTED context: NODESC, or SAVING with SAVEOVL on its way to every core
      (o.op = .save → x.state = .halted →
        let d := s1.saveDesc (s.masterCore c) x.csrs.savedesc.toNat 6
        (d.1 = none → exec (.saveop c) s = .next (d.2.endOp c o 3 0)) ∧
        (d.1.isSome = true → ∃ (t : State), exec (.saveop c) s = .next t ∧ t.mem = s.mem ∧
          (t.ctx c).state = .saving ∧ (t.ctx c).holding = some o ∧ (t.ctx c).queue = r ∧ (t.ctx c).image.isSome = true ∧
          (∀ n ∈ s.partition c, (n, BitVec.ofNat 32 (2 ^ 31 + 4 * 2 ^ 26 + c.toNat * 2 ^ 20)) ∈ (t.bind (dieOf n)).stream) ∧
          ∃ p ∈ t.ops, p.kind = .image ∧ p.fir.tag.ctx = c)) ∧
      -- RESUME: the halt line falls, and a clock held at its least is let go
      (o.op = .resume → x.state = .halted →
        let t := ({ s1 with plat := { s.plat with held := false } } : State).resume c
        exec (.resumeop c) s = .next (t.endOp c o 0 0) ∧
        (s.ops = [] → s.groups = [] → Assoc.wf {} s.elems = true →
          (∀ n ∈ s.partition c, (s.core n).frames = [] ∧ ∀ e, e < 90 → (s.elem n e).conc = []) →
          (t.ctx c).state = .running ∧ (t.ctx c).halt = none ∧ t.plat.held = false ∧
          ∀ n ∈ s.partition c, ∀ e, e < 90 → (t.elem n e).halted = none ∧ (t.elem n e).stop = none ∧ (t.elem n e).cause = 0 ∧
            (t.elem n e).async = false)) ∧
      -- RESUME of a failed save goes on with it
      (o.op = .resume → x.state = .savefail → ∀ im, x.image = some im →
        let d := s1.saveDesc (s.masterCore c) im.desc.toNat 6
        (d.1 = none → exec (.resumeop c) s = .next (d.2.endOp c o 3 0)) ∧
        (∀ w es, d.1 = some (w, es) → ∃ (t : State) (i : Image), exec (.resumeop c) s = .next t ∧
          (t.ctx c).state = .saving ∧ (t.ctx c).holding = some o ∧ (t.ctx c).image = some i ∧ i.wmark = im.wmark ∧ i.bytes = im.bytes ∧
          i.used = 0 ∧ i.failed = false ∧ (∀ j, i.extent ≤ j → ∀ e, es[j]? = some e → extUsed e = 0) ∧ t.mem = s.mem)) ∧
      -- ABANDON: HALTED, the cores no longer a shift path
      (o.op = .abandon → x.state = .savefail → o.waiter = none → ∀ im, x.image = some im → ∃ (t : State), exec (.abandonop c) s = .next t ∧
        (t.ctx c).state = .halted ∧ (t.ctx c).image = none ∧ (t.ctx c).queue = r ∧ (∀ n ∈ s.partition c, (t.core n).shift = 0) ∧ t.mem = s.mem) ∧
      -- DESTROY: what the context had in the fabric is gone
      (o.op = .destroy → x.state ∈ [CState.binding, .halted, .saved, .savefail] → ∃ (u : State), exec (.destroyop c) s = .next (u.endOp c o 0 0) ∧
        (u.ctx c).state = .destroyed ∧ (u.ctx c).halt = none ∧ (u.ctx c).queue = r ∧ (∀ p ∈ u.net, p.tok.tag.ctx ≠ c) ∧
        (∀ p ∈ u.ops, p.fir.elem < 90 → p.fir.tag.ctx ≠ c) ∧ (∀ t ∈ u.faults, t.ctx ≠ c) ∧ (∀ g ∈ u.groups, g.ctx = c → g.state = .drained) ∧
        u.mem = s.mem) ∧
      -- RESTORE
      (o.op = .restore → x.state = .free ∨ x.state = .saved →
        let d := s1.saveDesc (s.masterCore c) o.arg.toNat 1
        (d.1 = none → exec (.restoreop c) s = .next (d.2.endOp c o 3 0)) ∧
        (∀ w es, d.1 = some (w, es) →
          let b := d.2.readImage (s.masterCore c) es
          (b.1 = none → ∃ (t : State), exec (.restoreop c) s = .next t ∧ t = { b.2 with ctxs := t.ctxs } ∧ (∀ d, d ≠ c → t.ctx d = s.ctx d) ∧
            (t.ctx c).state = .restoring ∧ (t.ctx c).holding = some o ∧ ∃ i, (t.ctx c).image = some i ∧ i.failed = true) ∧
          (∀ bytes, b.1 = some bytes →
            (b.2.shapeOk c bytes = false ∨ shelfOf bytes = none → exec (.restoreop c) s = .next (b.2.endOp c o 4 0)) ∧
            (∀ h, b.2.shapeOk c bytes = true → shelfOf bytes = some h →
              -- the folios of its groups, read under its bindings, have the digests it gives
              let f := (b.2.modCtx c fun y => y.restored ((sectionOf bytes 1).getD [])).foliosMatch c h
              let u : State := f.2.modCtx c fun _ => b.2.ctx c
              let fits : Prop := f.1 = true ∧ (u.placesOf h (numAt bytes 28 4)).isSome = true
              (¬fits → exec (.restoreop c) s = .next (u.endOp c o 4 0)) ∧
              (fits → ∃ (t : State), exec (.restoreop c) s = .next t ∧ (t.ctx c).state = .restoring ∧ (t.ctx c).holding = some o ∧
                (∀ n ∈ imageCores bytes, (t.core n).owner = some c ∧
                  (n, BitVec.ofNat 32 (2 ^ 31 + 5 * 2 ^ 26 + c.toNat * 2 ^ 20)) ∈ (t.bind (dieOf n)).stream) ∧
                t.mem = s.mem ∧ t.elems = s.elems))))) ∧
      -- DUMP of a context at rest waits for the engine of its die
      (o.op = .dump → x.state = .halted ∨ x.state = .savefail →
        let d := s1.dumpDesc (s.masterCore c) x.csrs.dumpdesc.toNat
        (d.1 = none → exec (.dumpop c) s = .next (d.2.endOp c o 3 0)) ∧
        (∀ w, d.1 = some w → ∃ (t : State) (i : Image), exec (.dumpop c) s = .next t ∧
          t = { d.2 with ctxs := t.ctxs, binderies := t.binderies } ∧ (t.ctx c).state = .dumping ∧ (t.ctx c).holding = some o ∧
          (t.ctx c).image = some i ∧ i.prior = x.state ∧ (t.bind (s.masterDie c)).dumps = (s.bind (s.masterDie c)).dumps ++ [c]))) ∧
    -- BOUND: the descriptor's bindings, or NODESC
    (x.state = .binding → ∀ o, x.holding = some o →
      let d := s.devRead (s.masterCore c) o.arg.toNat 64
      let w (b : List Byte) (i : Nat) : Nat := leNat (b.drop (8 * i) |>.take 8)
      let fails (u : State) : State := State.endOp ((u.modCtx c fun y => { y with state := .free }).modCtx c fun y => { y with holding := none }) c o 3 0
      (o.arg.toNat % 64 ≠ 0 → exec (.bound c) s = .next (fails s)) ∧
      (o.arg.toNat % 64 = 0 → d.1 = none → exec (.bound c) s = .next (fails d.2)) ∧
      (∀ b, o.arg.toNat % 64 = 0 → d.1 = some b →
        let good : Prop := w b 0 / 2 ^ 53 = 0 ∧ w b 0 % 2 ^ 12 = 0 ∧ w b 0 % 2 ^ 52 + 4096 ≤ hbmEnd ∧ w b 5 / 2 ^ 17 = 0 ∧
          (bitOf (w b 5) 16 = true → w b 5 % 2 ^ 16 ≠ 0) ∧ w b 6 = 0 ∧ w b 7 = 0
        (¬good → exec (.bound c) s = .next (fails d.2)) ∧
        (good → o.waiter = none → s.groups = [] → ∃ (t : State), exec (.bound c) s = .next t ∧
          let regs : Csrs := { savedesc := BitVec.ofNat 64 (w b 1), dumpdesc := BitVec.ofNat 64 (w b 2), nqbase := BitVec.ofNat 64 (w b 3), rngkey := BitVec.ofNat 64 (w b 4) }
          let binds : Context := { state := .running, sup := bitOf (w b 0) 52, ptroot := BitVec.ofNat 52 (w b 0), pod := bitOf (w b 5) 16, job := BitVec.ofNat 16 (w b 5) }
          t.ctx c = { binds with queue := x.queue, csrs := regs }))) ∧
    (x.state ≠ .binding → exec (.bound c) s = .next s) ∧
    -- how an operation ends: a completion record, or the element of the firing that asked for it
    (∀ (o : CtxOp) (code result : Nat),
      (∀ a, o.waiter = none → o.compl = some a → a.toNat % 64 = 0 → ∃ p : Op, s.endOp c o code result = { s with ops := s.ops ++ [p], fresh := s.fresh + 1 } ∧
        p.kind = .record ∧ p.nums.head? = some a.toNat ∧ p.desc = leBytes 8 ((if code = 0 then 1 else 2) * 2 ^ 48 + code * 2 ^ 40 + x.state.code * 2 ^ 32) ++
          leBytes 8 result ++ leBytes 8 s.cycle ++ List.replicate 40 0) ∧
      (∀ id p, o.waiter = some id → s.ops.filter (·.named id) = [p] → s.halted p.fir.tag.ctx = false →
        let v := code * 2 ^ 56 + x.state.code * 2 ^ 48 + result % 2 ^ 48
        let u : State := { s with told := s.told ++ [(id, v)], ops := s.ops.map fun q => if q.named id then { q with nums := [v] } else q }
        s.endOp c o code result = u.closeOp { p with nums := [v] } 0 fun u => p.fire.emitAll u (one 0 (p.fire.one64 v))))

/-- R350, R353 to R355, R359, R363 to R365, R367, R368, R414 and R456: how a context comes to rest, and how the operations that need it end. (A
stalled write does not hold a stop record back.) The record that a save failure raises is R356's SAVEFAIL. -/
def Obligations.HaltsAndSavesComeToTheirEnds : Prop :=
  (∀ (s : State) (n e : Nat),
    -- HALT_LINE: the line of the core's context is up and the element has not stopped
    ((s.lineUp n = none ∨ 90 ≤ e ∨ (s.elem n e).halted.isSome = true) → exec (.haltLine n e) s = .next s) ∧
    ((s.lineUp n).isSome = true → e < 90 → (s.elem n e).halted = none → (∀ o ∈ s.ops, o.at n e = true → ∀ p, s.findOp o.id = some p → p.st ≠ .active) →
      (∀ o ∈ (s.elem n e).out, o.late = none) →
      ∃ t, exec (.haltLine n e) s = .next t ∧ t = { s with elems := t.elems } ∧ t.elem n e = { s.elem n e with halted := some s.cycle } ∧
        ∀ m d, d < 128 → m ≠ n ∨ d ≠ e → t.elem m d = s.elem m d) ∧
    -- STOP_RECORD: once no issued request of P0 is without its answer, and the outputs of its firing are in their concordances
    (let busy : Prop := (∃ o ∈ s.ops, o.kind = .mem ∧ o.fir.n = n ∧ o.fir.elem = e ∧ (o.st = .complete ∨ ∃ a ∈ o.accs, a.st = .pending)) ∨
       ∃ o ∈ (s.elem n e).out ++ (s.elem n e).emitq, (s.elem n e).requests o.slot = true
     (busy ∨ s.lineUp n = none ∨ (s.elem n e).halted = none ∨ (s.elem n e).stop.isSome = true → exec (.stopRecord n e) s = .next s) ∧
     (¬busy → ∀ c rise at_, s.lineUp n = some (c, rise) → (s.elem n e).halted = some at_ → (s.elem n e).stop = none → e < 90 → n < 160 →
      ∃ (t : State) (r : List Word), exec (.stopRecord n e) s = .next t ∧ t = { s with elems := t.elems } ∧
        t.elem n e = { s.elem n e with stop := some r } ∧ (∀ m d, d < 128 → m ≠ n ∨ d ≠ e → t.elem m d = s.elem m d) ∧ r.length = 8 ∧
        -- die, core, element, cause, and the skid in cycles
        (r.getD 0 0).toNat = n / 20 * 2 ^ 44 + n % 20 * 2 ^ 39 + e * 2 ^ 32 + (s.elem n e).cause % 2 ^ 16 * 2 ^ 16 + min (at_ - rise) 65535 ∧
        -- no operation in progress: no tag, node or operands
        ((s.elem n e).culprit = none → (∀ o ∈ s.ops, o.at n e = true → o.st = .complete) → r.getD 1 0 = 0 ∧ r.getD 3 0 = 0 ∧ r.getD 4 0 = 0 ∧ r.getD 7 0 = 0)))) ∧
  (∀ (s : State) (c : BitVec 6),
    let x := s.ctx c
    let only (t : State) (y : Context) : Prop := t = { s with ctxs := t.ctxs } ∧ t.ctx c = y ∧ ∀ d, d ≠ c → t.ctx d = s.ctx d
    let risen : Context := { x with state := .halting, halt := some s.cycle, byFault := false, holding := some { op := .halt } }
    -- STOPPED: every stop record written, no packet and no fault token of the context left
    (x.state ≠ .halting ∨ s.allStopped c = false → exec (.stopped c) s = .next s) ∧
    (x.state = .halting → s.allStopped c = true →
      (x.holding = none → x.byFault = false → ∃ (t : State) (p : Op), exec (.stopped c) s = .next t ∧ t.ops = s.ops ++ [p] ∧ p.kind = .notify ∧
        p.fir.tag.ctx = c ∧ p.nums.take 2 = [3, 0] ∧ t.ctx c = { x with state := .halted, holding := none } ∧ t.mem = s.mem ∧ t.elems = s.elems) ∧
      (∀ o, x.holding = some o → o.op = .halt → o.waiter = none → ∃ (t : State) (p : Op), exec (.stopped c) s = .next t ∧ p ∈ t.ops ∧ p.kind = .notify ∧
        p.nums.head? = some 3 ∧ t.ctx c = { x with state := .halted, holding := none }) ∧
      (∀ o, x.holding = some o → o.op = .destroy → o.waiter = none → ∃ t, exec (.stopped c) s = .next t ∧ (t.ctx c).state = .destroyed) ∧
      (∀ o, x.holding = some o → o.op = .save → (s.saveDesc (s.masterCore c) x.csrs.savedesc.toNat 6).1.isSome = true →
        ∃ t, exec (.stopped c) s = .next t ∧ (t.ctx c).state = .saving ∧ (t.ctx c).holding = some o) ∧
      (∀ o, x.holding = some o → o.op = .dump → (s.dumpDesc (s.masterCore c) x.csrs.dumpdesc.toNat).1.isSome = true →
        ∃ t, exec (.stopped c) s = .next t ∧ (t.ctx c).state = .dumping ∧ (t.ctx c).holding = some o) ∧
      -- a fault with AUTO set is dumped
      (x.holding = none → x.byFault = true → (s.autoDump c).1 = true → ∃ t, exec (.stopped c) s = .next t ∧ (t.ctx c).state = .dumping ∧
        (t.ctx c).holding = none)) ∧
    -- RECLAIMED: FREE, the registers and the fault record as they were until BIND
    (x.state = .destroyed → s.naming (fun t => t.ctx == c) = false → ∃ t, exec (.reclaimed c) s = .next t ∧
      only t { queue := x.queue, holding := x.holding, csrs := x.csrs, violog := x.violog, frec := x.frec }) ∧
    (x.state ≠ .destroyed ∨ s.naming (fun t => t.ctx == c) = true → exec (.reclaimed c) s = .next s) ∧
    -- a halted member of a pod job halts the others
    (s.strand = true → x.pod = true → x.state = .running → ∃ t, exec (.podHalt c) s = .next t ∧ only t risen) ∧
    (s.strand = false ∨ x.pod = false ∨ x.state ≠ .running → exec (.podHalt c) s = .next s) ∧
    -- SAVEEND: COMPLETE, SAVED, the operation reported
    (x.state = .saving → ∀ im, x.image = some im → im.bytes ≠ [] → im.bytes.length ≤ im.wmark →
      (∀ o, x.holding = some o → o.waiter = none) → ∃ t, exec (.saveend c) s = .next t ∧
        t.ctx c = { x with state := .saved, halt := none, image := none, holding := none } ∧ t.mem = s.mem ∧
        (∀ g ∈ t.groups, g.ctx = c → g.state = .shelved ∨ g.state = .drained) ∧
        (∀ k, fieldKey im.desc.toNat 24 = some k → im.desc.toNat % 64 = 0 → s.tether = true → s.poison = [] →
          ∃ w ∈ t.pend, w.addr = k + 8 ∧ w.data = leBytes 8 im.wmark)) ∧
    ((x.state ≠ .saving ∨ ∀ im, x.image = some im → im.bytes = [] ∨ im.wmark < im.bytes.length) → exec (.saveend c) s = .next s) ∧
    -- SAVESTOP: a failed write
    (x.state = .saving → ∀ im, x.image = some im → im.bytes ≠ [] → im.wmark < im.bytes.length → im.failed = true →
      (∀ o, x.holding = some o → o.waiter = none) → ∃ (t : State) (r : FaultTok), exec (.savestop c) s = .next t ∧ (t.ctx c).state = .savefail ∧
        (t.ctx c).image = some im ∧ (t.ctx c).holding = none ∧ r ∈ t.faults ∧ r.ctx = c ∧ r.recd.cause = 0x000C ∧ t.elems = s.elems ∧ t.mem = s.mem) ∧
    -- RESTOREFAIL, and a RESTOREEND without RUN
    (x.state = .restoring → ∀ im, x.image = some im → (∀ o, x.holding = some o → o.waiter = none) →
      (im.failed = true → ∃ t, exec (.restorefail c) s = .next t ∧ (t.ctx c).state = .destroyed ∧ t.mem = s.mem) ∧
      (im.failed = false → exec (.restorefail c) s = .next s) ∧
      (im.failed = false → s.shifting c 2 = true → ∀ h, shelfOf im.bytes = some h →
        (s.placesOf h (numAt im.bytes 28 4)).isSome = true → im.run = false →
        ∃ t, exec (.restoreend c) s = .next t ∧ t.ctx c = { x with state := .halted, image := none, holding := none } ∧ t.mem = s.mem))) ∧
  -- DUMPEND: the state before, the operation reported, the next dump of the die started
  (∀ (s : State) (d : Nat),
    ((s.bind d).dumps = [] → exec (.dumpend d) s = .next s) ∧
    ∀ (c : BitVec 6) (r : List (BitVec 6)), (s.bind d).dumps = c :: r → (s.ctx c).state = .dumping → ∀ im, (s.ctx c).image = some im →
      (∀ o, (s.ctx c).holding = some o → o.waiter = none) → ∃ t, exec (.dumpend d) s = .next t ∧ (t.bind d).dumps = r ∧
        (t.ctx c).state = im.prior ∧ (t.ctx c).holding = none ∧ t.elems = s.elems ∧ t.mem = s.mem) ∧
  -- FAULT_TOKEN: one level up; at the root the fault record keeps the first and counts
  (∀ (s : State) (k : Nat) (f : FaultTok), s.faults.find? (fun t => t.id == k) = some f →
    let rest := s.faults.filter fun t => t.id != k
    let up : FaultTok := { f with level := f.level + 1, recd := { f.recd with arrived := s.cycle } }
    (f.level < 3 → (∀ t ∈ rest, FaultTok.meets up t = false) → exec (.faultToken k) s = .next { s with faults := rest ++ [up] }) ∧
    (3 ≤ f.level → ∃ t, exec (.faultToken k) s = .next t ∧ t = { s with faults := rest, ctxs := t.ctxs } ∧
      let old := (s.ctx f.ctx).frec
      let new := (t.ctx f.ctx).frec
      t.ctx f.ctx = { s.ctx f.ctx with frec := new } ∧ new.count.toNat = min (old.count.toNat + f.recd.count.toNat) (2 ^ 32 - 1) ∧
      (old.cause = 0 → new.cause = f.recd.cause ∧ new.tag = f.recd.tag ∧ new.node = f.recd.node ∧ new.addr = f.recd.addr) ∧
      (old.cause ≠ 0 → old.arrived ≠ s.cycle → new = { old with count := new.count }))) ∧
  -- critical temperature at the least clock: every RUNNING context halts
  (∀ s : State,
    (s.plat.mayStep = true → exec .criticalTemperature s = .next s) ∧
    (s.plat.mayStep = false → ∃ t, exec .criticalTemperature s = .next t ∧ t = { s with ctxs := t.ctxs, plat := { s.plat with held := true } } ∧
      ∀ c, t.ctx c = if (s.ctx c).state = .running then
        { s.ctx c with state := .halting, halt := some s.cycle, byFault := false, holding := some { op := .halt } } else s.ctx c))

/-- R8, R38, R105, R106, R108, R109, R113, R323, R403 to R406 and R409: what each event of the network does, and when it does nothing. -/
def Obligations.PacketsMoveAndAreRecovered : Prop :=
  ∀ (s : State) (n e : Nat), e < 128 →
    let el := s.elem n e
    -- only the element changes, and becomes `y`
    let only (t : State) (y : Elem) : Prop := t = { s with elems := t.elems } ∧ t.elem n e = y ∧ ∀ m d, d < 128 → m ≠ n ∨ d ≠ e → t.elem m d = s.elem m d
    let runs : Prop := n < 160 ∧ e < 90 ∧ el.halted = none
    let paced : Prop := ∀ t, el.lastC0 = some t → 32 ≤ s.cycle - t
    -- INJECT: one copy, of the class and to the port of its destination, enters the network; its bit stays until it is taken
    (∀ (id d w c : Nat) (o : OutEntry), el.out.find? (fun x => x.id == id) = some o → o.dests.find? (fun x => x.1 == d) = some (d, w, c) →
      -- under the halt line the outputs of P0 firings alone still leave
      let goes : Prop := runs ∨ el.requests o.slot = true
      (¬goes ∨ d ∈ o.sent ∨ c = 0 ∧ ¬paced → exec (.inject n e id d) s = .next s) ∧
      -- what its firing still owes becomes visible with it
      (goes → d ∉ o.sent → (c = 0 → paced) → ∀ l, o.late = some l → exec (.inject n e id d) s = exec (.inject n e id d) (l.apply
        (s.modElem n e fun y => { y with out := updFirst (fun x => x.id == id) (fun x => { x with late := none }) y.out }))) ∧
      (goes → d ∉ o.sent → (c = 0 → paced) → o.late = none →
        (routeOk w = true → o.tok.tag.die.toNat < 8 → ∃ (t : State) (p : Packet), exec (.inject n e id d) s = .next t ∧ t.net = s.net ++ [p] ∧
          p.tok = { o.tok with cls := BitVec.ofNat 2 c, port := BitVec.ofNat 2 (w / 2 ^ 21) } ∧ p.n = 20 * (w / 2 ^ 17 % 16) + w / 2 ^ 12 % 32 ∧
          p.elem = w / 2 ^ 5 % 128 ∧ p.slot = w % 32 ∧ p.src = some (n, e, id, d) ∧ p.since = s.cycle ∧ p.router = n ∧
          p.home = n ∧ p.input = n ∧ p.lane = false ∧ p.headAt = (if s.net.any p.sameInput then none else some s.cycle) ∧
          t = { s with elems := t.elems, net := t.net, fresh := s.fresh + 1 } ∧
          t.elem n e = { el with out := (t.elem n e).out, lastC0 := if c = 0 then some s.cycle else el.lastC0 } ∧
          (t.elem n e).out.map (fun x => (x.id, x.tok, x.dests)) = el.out.map fun x => (x.id, x.tok, x.dests)) ∧
        -- a route or a DIE that names nothing: FMT, and the copy is gone
        (routeOk w = false ∨ 8 ≤ o.tok.tag.die.toNat → ∃ (t : State) (r : FaultTok), exec (.inject n e id d) s = .next t ∧ t.net = s.net ∧
          t.faults = s.faults ++ [r] ∧ r.ctx = o.tok.tag.ctx ∧ r.recd.cause = 0x000D ∧
          ∀ x ∈ (t.elem n e).out, x.id = id → ∀ y ∈ x.dests, y.1 ≠ d))) ∧
    -- a packet moves along a minimal path (R403); over a link between dies that carries traffic alone
    (∀ (id r : Nat) (p : Packet), s.net.find? (fun x => x.id == id) = some p →
      (r ∉ s.nexts p → s.hop id r = s) ∧
      (r ∈ s.nexts p → 160 ≤ p.router → routerDie p.router ≠ dieOf p.n →
        160 ≤ r ∧ ∃ m ∈ modulesOf (p.router - 160) (r - 160), (s.link m).state ∈ [LState.up, .degraded]) ∧
      (r ∈ s.nexts p → p.lane = false → ∃ (t : State) (q : Packet), s.hop id r = t ∧ t = { s with net := t.net } ∧ q ∈ t.net ∧ q.id = id ∧ q.router = r ∧
        q.input = p.router ∧ q.waits = false ∧ q.tok = p.tok ∧ q.n = p.n ∧ q.elem = p.elem ∧ q.slot = p.slot ∧ q.src = p.src ∧ q.since = p.since ∧
        t.net.map (fun x => x.id) = (s.net.filter fun x => x.id != id).map (fun x => x.id) ++ [id])) ∧
    -- ACCEPT: a copy at its core's router leaves the network; one of class 0 past its bound has timed out
    (∀ (id : Nat) (p : Packet), s.net.find? (fun x => x.id == id) = some p →
      (p.router ≠ p.n → exec (.accept id) s = .next s) ∧
      (p.router = p.n → s.overdue p = true → ∃ (t : State) (r : FaultTok), exec (.accept id) s = .next t ∧ r ∈ t.faults ∧ r.ctx = p.tok.tag.ctx ∧
        r.recd.cause = 0x0008) ∧
      (p.router = p.n → s.overdue p = false →
      -- the others stay, one of them perhaps at the head of its input now
      let left (t : State) : Prop := t.net.map (fun x => { x with headAt := none }) = (s.net.filter fun x => x.id != id).map fun x => { x with headAt := none }
      -- the bit of its destination in the output buffer it came from clears, and an entry without bits frees
      let acked (t : State) : Prop := ∀ m d k b, p.src = some (m, d, k, b) → (∀ x ∈ (t.elem m d).out, x.id = k → ∀ y ∈ x.dests, y.1 ≠ b) ∧
        (∀ x ∈ (s.elem m d).out, x.id ≠ k → x.dests ≠ [] → x ∈ (t.elem m d).out)
      -- to a destroyed context, or to a frame that is not live: discarded
      ((s.ctx p.tok.tag.ctx).state = .destroyed ∨ (s.ctx p.tok.tag.ctx).state = .free → ∃ t, exec (.accept id) s = .next t ∧
        left t ∧ t = { s with net := t.net, elems := t.elems } ∧ acked t) ∧
      -- to a slot whose port takes it as it is, with no entry that it overlaps, in a halted context: it waits
      ((s.ctx p.tok.tag.ctx).state = .halting → s.halted p.tok.tag.ctx = true → s.retired p.tok.tag = false → p.n < 160 → p.elem < 90 →
        (∀ m d k b, p.src = some (m, d, k, b) → d < 90 ∧ (m ≠ p.n ∨ d ≠ p.elem)) →
        let y := s.elem p.n p.elem
        ∀ opc r nd kind, (y.slot p.slot).info = some (opc, r, nd) → matchRule opc nd = .pairs → opc ≠ 0x0A3 →
          (tokenPorts r nd).find? (fun q => q.1 == p.tok.port.toNat) = some (p.tok.port.toNat, kind) →
          portTakes (y.slot p.slot) nd kind p.tok = .take p.tok → (∀ x ∈ y.conc, x.slot ≠ p.slot) →
          let z : Elem := { y with conc := y.conc ++ [{ slot := p.slot, spilled := false, seq := s.fresh, tok := p.tok }] }
          (s.setElem p.n p.elem z).fits p.n p.elem (decide (64 < p.tok.data.length)) = true → ∃ t, exec (.accept id) s = .next t ∧
            left t ∧ t = { s with net := t.net, elems := t.elems, fresh := s.fresh + 1 } ∧ t.elem p.n p.elem = z ∧ acked t))) ∧
    -- CLASS0_PACING and EMIT_RESUME
    (paced → ∃ t, exec (.class0Pacing n e) s = .next t ∧ only t { el with lastC0 := none }) ∧
    (¬paced → exec (.class0Pacing n e) s = .next s) ∧
    ((∀ o ∈ el.emitq, o.late = none) → (∀ o ∈ el.out, o.late = none) →
      ∃ t, exec (.emitResume n e) s = .next t ∧ only t { el with out := (t.elem n e).out, emitq := (t.elem n e).emitq } ∧
      el.out <+: (t.elem n e).out ∧ (t.elem n e).emitq.Sublist el.emitq ∧
      (t.elem n e).out.length + (t.elem n e).emitq.length = el.out.length + el.emitq.length ∧
      (∀ o r, el.emitq = o :: r → el.out.length < 14 → o ∈ (t.elem n e).out)) ∧
    -- with the last Emit of a firing what it had held back becomes visible
    (∀ o l, el.emitq = [o] → o.late = some l → el.out.length < 14 → ∃ u, exec (.emitResume n e) s = .next (l.apply u) ∧
      only u { el with out := (el.out ++ [o]).map fun x => if x.id = o.id then { x with late := none } else x, emitq := [] }) ∧
    -- REFILL: the oldest spilled entry returns where one is free, beside those of the firings that have not ended
    ((∀ x ∈ el.conc, x.spilled = false) → exec (.refill n e) s = .next s) ∧
    (∀ x, el.oldestSpilled = some x →
      let back := s.modElem n e fun y => y.refilled x
      let room : Prop := back.occupancy n e ≤ min 256 el.equota.toNat ∧ back.fits n e (decide (64 < x.tok.data.length)) = true
      (¬runs ∨ s.halted x.tok.tag.ctx = true ∨ ¬room → exec (.refill n e) s = .next s) ∧
      (runs → s.halted x.tok.tag.ctx = false → room →
        ∃ u : State, exec (.refill n e) s = .next (u.rematchSlot n e x.slot) ∧ u = { s with elems := u.elems } ∧
          (u.elem n e).conc = el.conc.map fun z => if ∃ m ∈ el.mates x, m.seq = z.seq then { z with spilled := false } else z)) ∧
    -- SPILLED_MATCH: nothing while the element or a context is halted
    (∀ k, ¬runs ∨ (∃ x ∈ el.conc, x.slot = k ∧ s.halted x.tok.tag.ctx = true) → exec (.spilledMatch n e k) s = .next s) ∧
    (∀ k, (el.slot k).info = none → runs → (∀ x ∈ el.conc, x.slot = k → s.halted x.tok.tag.ctx = false) →
      exec (.spilledMatch n e k) s = .next (s.settleAll n e true)) ∧
    (∀ k x opc r nd, (el.slot k).info = some (opc, r, nd) → matchRule opc nd = .each → runs → s.halted x.tok.tag.ctx = false →
      el.conc.filter (fun y => y.slot == k) = [x] → ∃ t : State, exec (.spilledMatch n e k) s = .next (t.settleAll n e true) ∧
        t = { s with elems := t.elems, fresh := s.fresh + 1 } ∧
        (t.elem n e).conc = el.conc.filter (fun y => y.seq != x.seq) ∧
        (t.elem n e).ready = el.ready ++ [{ id := s.fresh, n := n, elem := e, slot := k, tag := x.tok.tag, len := x.tok.len, inputs := [x.tok], ready := s.cycle, part := 0 }]) ∧
    -- FIRING_PROMOTION: after 256 and after 512 cycles
    (∀ id f, el.ready.find? (fun x => x.id == id) = some f →
      let due : Prop := f.promo < 2 ∧ 256 * (f.promo + 1) ≤ s.cycle - f.ready ∧ 2 ≤ s.firingClass { f with promo := 0 }
      (due → ∃ t, exec (.firingPromotion n e id) s = .next t ∧ only t { el with ready := (t.elem n e).ready } ∧
        (t.elem n e).ready.find? (fun x => x.id == id) = some { f with promo := f.promo + 1 }) ∧
      (¬due → exec (.firingPromotion n e id) s = .next s)) ∧
    -- BLOCKED_TIMER: a packet of class 1 to 3 at the head of a router's input waits for the slip
    (∃ t, exec (.blockedTimer n) s = .next t ∧ t = { s with net := t.net } ∧
      (let due (p : Packet) : Prop := p.router = n ∧ p.lane = false ∧ p.waits = false ∧ p.tok.cls ≠ 0 ∧ ∃ h, p.headAt = some h ∧ s.plat.limit ≤ s.cycle - h
       ((∀ p ∈ s.net, ¬due p) → t.net = s.net) ∧
       ∀ pre p post, s.net = pre ++ p :: post → due p → (∀ q ∈ pre, ¬due q) → t.net = pre ++ { p with waits := true, waitsAt := s.cycle } :: post)) ∧
    -- SLIP_CAPTURE: of the packets that wait on a ring, the one that the free slip passes first
    (let k := ringOf n
     let x := s.slip k
     let asks (p : Packet) : Prop := p ∈ s.net ∧ ringOf p.router = k ∧ p.wantsSlip = true
     let at_ (p : Packet) : Nat := x.firstPass k (ringPos p.router) p.waitsAt
     (x.held.isSome = true ∨ x.lost = true ∨ x.gone = true ∨ (∀ p, ¬asks p) → exec (.slipCapture n) s = .next s) ∧
     (x.held = none → x.lost = false → x.gone = false → ∀ p, asks p → (∀ q, asks q → q = p ∨ at_ p < at_ q) →
       (p.router ≠ n ∨ s.cycle < at_ p → exec (.slipCapture n) s = .next s) ∧
       (p.router = n → at_ p ≤ s.cycle → ∃ t, exec (.slipCapture n) s = .next t ∧ t = { s with net := t.net, elems := t.elems, slips := t.slips } ∧
         t.slip k = { x.noted k (at_ p) with pos := ringPos n, since := at_ p, held := some n, carry := p.id } ∧ (∀ j, j ≠ k → t.slip j = s.slip j) ∧
         -- on a die the packet moves into the returns lane
         (n < 160 → { p with lane := true, waits := false, headAt := none } ∈ t.net ∧ ∀ q ∈ t.net, q.id = p.id → q.lane = true) ∧
         (160 ≤ n → t.net = s.net ∧ t.elems = s.elems)))) ∧
    -- SLIP_RELEASE: once its packet has left the returns lane of the ring, to the next position
    (let k := ringOf n
     let onLane : Prop := ∃ p ∈ s.net, p.id = (s.slip k).carry ∧ p.lane = true ∧ ringOf p.router = k
     ((s.slip k).held ≠ some n ∨ onLane → exec (.slipRelease n) s = .next s) ∧
     ((s.slip k).held = some n → ¬onLane → ∃ t, exec (.slipRelease n) s = .next t ∧ t = { s with slips := t.slips } ∧
       t.slip k = { s.slip k with held := none, pos := (ringPos n + 1) % (if k = 8 then 10 else 20), since := s.cycle } ∧ ∀ j, j ≠ k → t.slip j = s.slip j)) ∧
    -- SLIP_WATCHDOG and SLIP_REISSUE, on ring `n`: lost once some router of it, or some die, has not seen it pass
    (let x := s.slip n
     let missed : Prop := ∃ q, q < (if n = 8 then 10 else 20) ∧ 65536 ≤ s.cycle - x.lastPass n q s.cycle
     (x.lost = false → missed → ∃ t, exec (.slipWatchdog n) s = .next t ∧
       (t.slip n).lost = true ∧ (t.slip n).held = none ∧ t.elems = s.elems ∧ t.net = s.net ∧
       ∀ c, (c ∈ (t.slip n).lostBy ↔ if n = 8 then (s.ctx c).state ≠ .free ∧ (s.ctx c).state ≠ .destroyed
           else ∃ q ∈ s.cores, q.2.owner = some c ∧ dieOf q.1 = n) ∧
       (c ∈ (t.slip n).lostBy → ∃ r ∈ t.faults, r.ctx = c ∧ r.recd.cause = 0x0008)) ∧
     (x.lost = true ∨ ¬missed → exec (.slipWatchdog n) s = .next s)) ∧
    ((s.slip n).lost = true → (∀ c ∈ (s.slip n).lostBy, s.halted c = true) → ∃ t, exec (.slipReissue n) s = .next t ∧ t = { s with slips := t.slips } ∧
      t.slip n = { passed := s.cycle, since := s.cycle } ∧ ∀ j, j ≠ n → t.slip j = s.slip j) ∧
    ((s.slip n).lost = false ∨ (∃ c ∈ (s.slip n).lostBy, s.halted c = false ∧ (s.ctx c).state = .running) → exec (.slipReissue n) s = .next s) ∧
    -- CLASS0_TIMEOUT: 256 cycles on a die; 1,024 between dies, from the end of the recovery that every minimal path waited for
    (∀ id p, s.net.find? (fun x => x.id == id) = some p →
      let near : Prop := dieOf p.home = dieOf p.n
      let ready := s.pathReady 8 (dieOf p.home) (dieOf p.n)
      let out : Prop := p.tok.cls = 0 ∧ p.late = false ∧ ((near ∧ 256 < s.cycle - p.since) ∨ (¬near ∧ ∃ r, ready = some r ∧ 1024 < s.cycle - max r p.since))
      (¬out → exec (.class0Timeout id) s = .next s) ∧
      (out → ∃ (t : State) (r : FaultTok), exec (.class0Timeout id) s = .next t ∧
        t.faults = s.faults ++ [r] ∧ r.ctx = p.tok.tag.ctx ∧ r.recd.cause = 0x0008 ∧
        t.net.find? (fun x => x.id == id) = some { p with late := true } ∧ t.elems = s.elems ∧ t.mem = s.mem))

/-- R410 to R412, R451 to R453, R455, R456 and R458, with R384: the link table with both numbers of a module, what is told of it, the stages of
boot, reports, the clock and scrubbing. Whether a stage succeeds is a constant of Config; what an unlisted byte reads as is log 1. -/
def Obligations.LinksBootAndPlatformChange : Prop :=
  (∀ (s : State) (l : BitVec 6),
    let k := s.link l.toNat
    let there : Prop := l.toNat < 50
    -- the link and its other number become `y`, and no other link changes
    let becomes (t : State) (y : Link) : Prop := t.link l.toNat = y ∧ (∀ m, m ∉ linkTwins l.toNat → t.link m = s.link m) ∧
      t.mem = s.mem ∧ t.pend = s.pend ∧ t.elems = s.elems ∧ t.net = s.net
    -- a transition that R412 names, in or out, is notified to every bound context of a Strand or Tether port
    let told (t : State) (new : LState) : Prop := 32 ≤ l.toNat → k.state ≠ new → ∀ c, (s.ctx c).state ∉ [CState.free, .binding, .destroyed] →
      ∃ p ∈ t.ops, p.kind = .notify ∧ p.fir.tag.ctx = c ∧ p.nums.take 2 = [4, 0] ∧
        p.desc.take 4 = [BitVec.ofNat 8 l.toNat, BitVec.ofNat 8 k.state.code, BitVec.ofNat 8 new.code, 0]
    let trains : Prop := k.state = .training ∨ k.state = .recovering
    let works : Prop := k.state = .up ∨ k.state = .degraded
    (¬there ∨ ¬trains → exec (.trainok l) s = .next s ∧ exec (.trainhalf l) s = .next s ∧ exec (.trainfail l) s = .next s) ∧
    -- more than 64 replays within 1 ms; or 8 at least, which may be of one flit
    let burst : Prop := 64 < (k.recent.filter fun t => s.cycle - t ≤ 1000 * s.plat.ceiling * s.plat.clock / 16).length
    (¬there ∨ ¬works → exec (.laneloss l) s = .next s ∧ exec (.errburst l) s = .next s) ∧
    (there → works → ¬burst → k.recent.length < 8 → exec (.errburst l) s = .next s) ∧
    (¬there ∨ k.state ≠ .training → exec (.absent l) s = .next s) ∧
    (¬there ∨ k.state = .down ∨ k.state = .failed → exec (.flitReplay l) s = .next s) ∧
    (there → trains →
      (∃ t, exec (.trainok l) s = .next t ∧ becomes t { k with state := .up, half := false, ready := s.cycle, far := linkFar l.toNat, recent := [] } ∧
        (k.state = .recovering → told t .up)) ∧
      (∃ t, exec (.trainhalf l) s = .next t ∧ becomes t { k with state := .degraded, half := true, ready := s.cycle, far := linkFar l.toNat, recent := [] } ∧ told t .degraded) ∧
      (k.attempts < 3 → ∃ t, exec (.trainfail l) s = .next t ∧ becomes t { k with attempts := k.attempts + 1 } ∧ t = { s with links := t.links }) ∧
      -- the third attempt: FAILED, and a Strand port faults the contexts of the pod with LINK
      (3 ≤ k.attempts → s.bars = [] → ∃ t, exec (.trainfail l) s = .next t ∧ becomes t { k with state := .failed, ready := s.cycle, recent := [] } ∧ told t .failed ∧
        (32 ≤ l.toNat → l.toNat < 48 → ∀ c, (s.ctx c).state ∉ [CState.free, .binding, .destroyed] → (s.ctx c).pod = true →
          ∃ r ∈ t.faults, r.ctx = c ∧ r.recd.cause = 0x0008))) ∧
    (there → k.state = .up → ∃ t, exec (.laneloss l) s = .next t ∧ becomes t { k with state := .degraded, half := true, far := linkFar l.toNat, recent := [] } ∧ told t .degraded) ∧
    (there → k.state = .degraded → ∃ t, exec (.laneloss l) s = .next t ∧ becomes t { k with state := .recovering, attempts := 1, recent := [] } ∧ told t .recovering) ∧
    (there → works → burst ∨ 8 ≤ k.recent.length → ∃ t, exec (.errburst l) s = .next t ∧ becomes t { k with state := .recovering, attempts := 1, recent := [] } ∧ told t .recovering) ∧
    (there → k.state = .training → ∃ t, exec (.absent l) s = .next t ∧ becomes t { k with state := .down, far := 0, recent := [] } ∧ t = { s with links := t.links }) ∧
    -- a replay is counted; where it makes a burst, ERRBURST follows
    (let y : Link := { k with replays := min (k.replays + 1) (2 ^ 32 - 1), recent := (s.cycle :: k.recent).take 65 }
     let bursts : Prop := 64 < (y.recent.filter fun t => s.cycle - t ≤ 1000 * s.plat.ceiling * s.plat.clock / 16).length
     (there → trains ∨ works ∧ ¬bursts → ∃ t, exec (.flitReplay l) s = .next t ∧ t = { s with links := t.links } ∧ becomes t y) ∧
     (there → works → bursts → ∃ t, exec (.flitReplay l) s = .next t ∧ becomes t { y with state := .recovering, attempts := 1, recent := [] } ∧
       told t .recovering))) ∧
  (∀ s : State,
    let p := s.plat
    let at_ (g : Nat) : Prop := p.failed = false ∧ p.stage = g
    -- a stage that fails stops the boot: no bindery runs, and the boot word says which where Tether works
    let fails (g : Nat) : Prop := ∃ t, exec .boot s = .next t ∧ t.plat = { p with failed := true, boot := t.plat.boot } ∧ t.links = s.links ∧ t.ctxs = s.ctxs ∧
      (s.tether = true → t.plat.boot = BitVec.ofNat 16 (g * 256 + 255)) ∧ (s.tether = false → t = { s with plat := { p with failed := true } })
    (p.failed = true ∨ 6 ≤ p.stage ∧ (p.up = true ∨ ∃ j, j < 48 ∧ (s.link j).state = .training) → exec .boot s = .next s) ∧
    (at_ 0 → (Config.stageOk 1 = true → exec .boot s = .next { s with plat := { p with stage := 1 } }) ∧ (Config.stageOk 1 = false → fails 1)) ∧
    -- stage 2: the configuration blob is in bounds and takes effect
    (at_ 1 →
      let b := Config.blob
      let inBounds : Prop := 1000 ≤ b.power ∧ b.power ≤ 4200 ∧ b.ceiling ≤ 1300 ∧ 1024 ≤ b.limit ∧ b.limit ≤ 65536 ∧ b.limit % 256 = 0 ∧
        b.report % 65536 = 0 ∧ b.report + 65536 ≤ hbmEnd
      (Config.stageOk 2 = true → inBounds → exec .boot s = .next { s with plat := { p with
        stage := 2, epoch := b.epoch, defects := b.defects, limit := b.limit, routes := b.routes, power := b.power, ceiling := b.ceiling, ident := b.ident,
        report := b.report, cfgh := b.hash } }) ∧
      (Config.stageOk 2 = false ∨ ¬inBounds → fails 2)) ∧
    -- stage 3: Tether trains, and the report area is zero
    (at_ 2 → ∃ t, exec .boot s = .next t ∧ t.plat = { p with stage := 3 } ∧ t = { s with plat := t.plat, links := t.links, mem := t.mem, pend := t.pend } ∧
      (∀ j, j = 48 ∨ j = 49 → (s.link j).state = .down → t.link j = { s.link j with state := .training, attempts := 1 }) ∧
      (∀ j, j ≠ 48 → j ≠ 49 → t.link j = s.link j) ∧
      (∀ a, p.report ≤ a → a < p.report + 65536 → Assoc.get unlisted t.mem a = unlisted) ∧
      (∀ a, a < p.report ∨ p.report + 65536 ≤ a → Assoc.get unlisted t.mem a = Assoc.get unlisted s.mem a)) ∧
    (at_ 3 → ((s.link 48).state = .training ∨ (s.link 49).state = .training → exec .boot s = .next s) ∧
      ((s.link 48).state ≠ .training → (s.link 49).state ≠ .training →
        (s.tether = true → Config.stageOk 4 = true → exec .boot s = .next { s with plat := { p with stage := 4, fwh := Config.firmwareHash } }) ∧
        (s.tether = true → Config.stageOk 4 = false → fails 4) ∧ (s.tether = false → fails 3))) ∧
    -- stage 5: the key that flash holds wrapped is unwrapped; on a first boot one is made and a certificate request placed
    (at_ 4 →
      (∀ w, Config.flash.wrapped = some w → 
        (Config.stageOk 5 = true → exec .boot s = .next { s with plat := { p with wrapped := w, keyed := true, cert := Config.flash.cert, stage := 5 } }) ∧ (Config.stageOk 5 = false → fails 5)) ∧
      (Config.flash.wrapped = none → ∃ t, exec .boot s = .next t ∧
        t = { s with plat := { p with wrapped := Config.newKey, keyed := true, pending := true, stage := 5 }, mem := t.mem } ∧
        (∀ i b, i < 184 → (Config.certRequest Config.newKey)[i]? = some b → Assoc.get unlisted t.mem (p.report + 328 + i) = b) ∧
        ∀ a, a < p.report + 328 ∨ p.report + 512 ≤ a → Assoc.get unlisted t.mem a = Assoc.get unlisted s.mem a)) ∧
    -- stage 6: every other link trains; once that has ended CYCLE starts, the binderies run, and the boot word says so
    (at_ 5 → ∃ t, exec .boot s = .next t ∧ t = { s with plat := { p with stage := 6 }, links := t.links } ∧
      ∀ j, j < 48 → (s.link j).state = .down → t.link j = { s.link j with state := .training, attempts := 1 }) ∧
    (at_ 6 → p.up = false → (∀ j, j < 48 → (s.link j).state ≠ .training) →
      (Config.stageOk 6 = true → ∃ t, exec .boot s = .next t ∧
        t = { s with plat := { p with up := true, boot := 0x0601 }, cycle := 0, links := t.links, mem := t.mem } ∧ (Assoc.wf {} s.links = true → ∀ j, t.link j = { s.link j with ready := 0, recent := [] }) ∧
        Assoc.get unlisted t.mem (p.report + 2) = 0x01 ∧ Assoc.get unlisted t.mem (p.report + 3) = 0x06) ∧
      (Config.stageOk 6 = false → fails 6)) ∧
    -- the certificate, where a request waits for it and Tether works
    (∀ cert, exec (.identityCertificate cert) s = .next 
      (if p.pending = true ∧ s.tether = true then { s with plat := { p with cert := cert, pending := false } } else s)) ∧
    -- a report: where REQ reads 1 and no request is being served, it is answered with 2, or with 3 where there is no key
    (p.stage < 3 ∨ s.tether = false ∨ s.serves = true → exec .reportRequest s = .next s) ∧
    (3 ≤ p.stage → s.tether = true → s.serves = false →
     let len := 512 + 48 * p.log.length
     let area := s.seen (.core 0) 6 p.report len
     let s1 : State := (s.rd (.core 0) 6 p.report len).2
     (area.head? ≠ some 1 → exec .reportRequest s = .next s1) ∧
     (area.head? = some 1 → ∃ (t : State) (o : Op), exec .reportRequest s = .next t ∧ o.kind = .record ∧ o.nums.head? = some p.report ∧
      t = { s1 with plat := { p with serving := some o.id }, ops := s.ops ++ [o], fresh := s.fresh + 1 } ∧ o.id = s.fresh ∧
      -- the nonce is the one that is visible with REQ
      (p.keyed = true → (o.desc.drop 8).take 48 = (area.drop 8).take 48) ∧
      o.desc.take 8 = leBytes 1 (if p.keyed = true then 2 else 3) ++ leBytes 1 (if p.logFull = true then 1 else 0) ++ leBytes 2 p.boot.toNat ++ List.replicate 4 0 ∧
      (p.keyed = true → o.desc.length = 512 + (p.log.map List.length).sum ∨ o.desc.length = 512 + 48 * p.log.length) ∧
      (p.keyed = true → p.measure.length = 48 → (o.desc.drop 160).take 48 = p.measure ∧ (o.desc.drop 208).take 4 = leBytes 4 p.measured))) ∧
    -- the clock: a step of 1/16 of its ceiling, down to 325 MHz; up unless it is held
    (let may : Prop := 325 * 16 ≤ (p.clock - 1) * p.ceiling
     (may → exec .clockStepDown s = .next { s with plat := { p with clock := p.clock - 1 } }) ∧ (¬may → exec .clockStepDown s = .next s)) ∧
    (let may : Prop := p.held = false ∧ p.clock < 16
     (may → exec .clockStepUp s = .next { s with plat := { p with clock := p.clock + 1 } }) ∧ (¬may → exec .clockStepUp s = .next s)) ∧
    -- scrubbing: an uncorrectable line of memory is poisoned
    (∀ line, exec (.scrub line false) s = .next s ∧
      (line * 64 < hbmEnd ∨ 2 ^ 64 ≤ line * 64 ∧ line * 64 < spmKey 160 0 → ∃ t, exec (.scrub line true) s = .next t ∧ t = { s with poison := t.poison } ∧
        ∀ j, j ∈ t.poison ↔ j = line ∨ j ∈ s.poison) ∧
      (¬(line * 64 < hbmEnd ∨ 2 ^ 64 ≤ line * 64 ∧ line * 64 < spmKey 160 0) → exec (.scrub line true) s = .next s)))
end

