-- ==== Sys2Proof/Laws/Table.lean ====
section
/-! SUPPORT. The sparse tables: reading what was put (in any table), keeping the canonical form, and equality of canonical
tables that read alike. -/

namespace Sys2Proof.Machine.Assoc

variable {α : Type}

/-- Removing the entries of a key leaves what every other key holds. -/
theorem get_filter_ne (d : α) (x y : Nat) (h : y ≠ x) : ∀ m : Assoc α, get d (m.filter fun p => p.1 != x) y = get d m y
  | [] => rfl
  | (k, v) :: r => by
    by_cases hk : k = x
    · subst hk
      rw [List.filter_cons_of_neg (by simp)]
      simp [get, h, get_filter_ne d k y h r]
    · rw [List.filter_cons_of_pos (by simpa using hk)]
      simp only [get, get_filter_ne d x y h r]

/-- A key whose entries were removed reads as unlisted. -/
theorem get_filter_same (d : α) (x : Nat) : ∀ m : Assoc α, get d (m.filter fun p => p.1 != x) x = d
  | [] => rfl
  | (k, v) :: r => by
    by_cases hk : k = x
    · subst hk
      rw [List.filter_cons_of_neg (by simp)]
      exact get_filter_same d k r
    · rw [List.filter_cons_of_pos (by simpa using hk)]
      have : ¬x = k := fun e => hk e.symm
      simp only [get, if_neg this, get_filter_same d x r]

/-- Inserting at a key leaves what every other key holds. -/
theorem get_insert_ne (d : α) (x y : Nat) (v : α) (h : y ≠ x) : ∀ m : Assoc α, get d (Assoc.insert x v m) y = get d m y
  | [] => by simp [Assoc.insert, get, h]
  | (k, w) :: r => by
    unfold Assoc.insert
    split
    · simp [get, h]
    · simp only [get, get_insert_ne d x y v h r]

/-- A key inserted where it was not listed holds the value. -/
theorem get_insert_same (d : α) (x : Nat) (v : α) : ∀ m : Assoc α, (∀ p ∈ m, p.1 ≠ x) → get d (Assoc.insert x v m) x = v
  | [], _ => by simp [Assoc.insert, get]
  | (k, w) :: r, h => by
    have hk : ¬x = k := fun e => h (k, w) (by simp) e.symm
    unfold Assoc.insert
    split
    · simp [get]
    · simp only [get, if_neg hk]
      exact get_insert_same d x v r fun p hp => h p (List.mem_cons_of_mem _ hp)

variable [DecidableEq α] {d : α}

/-- Reading a table into which a value was put. -/
theorem get_set (d : α) (m : Assoc α) (x y : Nat) (v : α) : get d (set d m x v) y = if y = x then v else get d m y := by
  unfold set
  by_cases hy : y = x
  · subst hy
    by_cases hv : v = d
    · simp [hv, get_filter_same]
    · simp only [hv, if_false, if_true]
      exact get_insert_same d y v _ fun p hp => by simpa using (List.mem_filter.mp hp).2
  · by_cases hv : v = d
    · simp [hv, hy, get_filter_ne d x y hy]
    · simp [hv, hy, get_insert_ne d x y v hy, get_filter_ne d x y hy]

@[simp] theorem get_set_same (d : α) (m : Assoc α) (x : Nat) (v : α) : get d (set d m x v) x = v := by simp [get_set]

theorem get_set_other (d : α) (m : Assoc α) (x y : Nat) (v : α) (h : y ≠ x) : get d (set d m x v) y = get d m y := by
  simp [get_set, h]

/-- A bound allows a key. -/
def aboveBound (b : Option Nat) (k : Nat) : Bool := match b with | none => true | some x => x < k

theorem wfAbove_cons (b : Option Nat) (k : Nat) (v : α) (r : Assoc α) :
    wfAbove d b ((k, v) :: r) = true ↔ aboveBound b k = true ∧ v ≠ d ∧ wfAbove d (some k) r = true := by
  cases b <;> simp [wfAbove, aboveBound, and_assoc]

theorem wfAbove_weaken {b b' : Option Nat} (h : ∀ k, aboveBound b k = true → aboveBound b' k = true) :
    ∀ m : Assoc α, wfAbove d b m = true → wfAbove d b' m = true
  | [], _ => by simp [wfAbove]
  | (k, v) :: r, hm => by
    rw [wfAbove_cons] at hm ⊢
    exact ⟨h _ hm.1, hm.2⟩

theorem aboveBound_trans {b : Option Nat} {k j : Nat} (h : aboveBound b k = true) (hj : k < j) : aboveBound b j = true := by
  cases b with
  | none => rfl
  | some x =>
    have : x < k := by simpa [aboveBound] using h
    simp [aboveBound]; omega

/-- A canonical table above a bound holds nothing at or below it. -/
theorem get_below : ∀ (m : Assoc α) (b x : Nat), wfAbove d (some b) m = true → x ≤ b → get d m x = d
  | [], _, _, _, _ => rfl
  | (k, v) :: r, b, x, hm, hx => by
    rw [wfAbove_cons] at hm
    have hk : b < k := by simpa [aboveBound] using hm.1
    have h1 : x ≠ k := by omega
    simp only [get, if_neg h1]
    exact get_below r k x hm.2.2 (by omega)

/-- Removing entries keeps the canonical form. -/
theorem filter_wfAbove (p : Nat × α → Bool) : ∀ (m : Assoc α) (b : Option Nat), wfAbove d b m = true →
    wfAbove d b (m.filter p) = true
  | [], _, _ => by simp [wfAbove]
  | (k, v) :: r, b, hm => by
    have h := (wfAbove_cons b k v r).mp hm
    have ih := filter_wfAbove p r (some k) h.2.2
    by_cases hp : p (k, v)
    · rw [List.filter_cons_of_pos hp, wfAbove_cons]
      exact ⟨h.1, h.2.1, ih⟩
    · rw [List.filter_cons_of_neg hp]
      exact wfAbove_weaken (fun j hj => aboveBound_trans h.1 (by simpa [aboveBound] using hj)) _ ih

theorem filter_wf (p : Nat × α → Bool) (m : Assoc α) (h : wf d m = true) : wf d (m.filter p) = true :=
  filter_wfAbove p m none h

/-- Inserting a new key keeps the canonical form. -/
theorem insert_wfAbove (x : Nat) (v : α) (hv : v ≠ d) : ∀ (m : Assoc α) (b : Option Nat), wfAbove d b m = true →
    (∀ p ∈ m, p.1 ≠ x) → aboveBound b x = true → wfAbove d b (Assoc.insert x v m) = true
  | [], b, _, _, hx => by
    rw [Assoc.insert, wfAbove_cons]
    exact ⟨hx, hv, by simp [wfAbove]⟩
  | (k, w) :: r, b, hm, hn, hx => by
    have h := (wfAbove_cons b k w r).mp hm
    have hk : k ≠ x := hn (k, w) (by simp)
    unfold Assoc.insert
    split
    · rename_i hlt
      rw [wfAbove_cons, wfAbove_cons]
      exact ⟨hx, hv, by simpa [aboveBound] using hlt, h.2⟩
    · rw [wfAbove_cons]
      refine ⟨h.1, h.2.1, insert_wfAbove x v hv r (some k) h.2.2 (fun p hp => hn p (List.mem_cons_of_mem _ hp)) ?_⟩
      simp [aboveBound]; omega

/-- Putting a value keeps the canonical form. -/
theorem set_wf (m : Assoc α) (x : Nat) (v : α) (h : wf d m = true) : wf d (set d m x v) = true := by
  unfold set
  by_cases hv : v = d
  · simpa [hv] using filter_wf (fun p : Nat × α => p.1 != x) m h
  · simp only [hv, if_false]
    exact insert_wfAbove x v hv _ none (filter_wf _ m h) (fun p hp => by simpa using (List.mem_filter.mp hp).2) rfl

/-- Canonical tables that read alike are equal. -/
theorem extAbove : ∀ (m m' : Assoc α) (b b' : Option Nat), wfAbove d b m = true → wfAbove d b' m' = true →
    (∀ k, get d m k = get d m' k) → m = m'
  | [], [], _, _, _, _, _ => rfl
  | [], (k, v) :: r, _, b', _, h', he => by
    have h := (wfAbove_cons b' k v r).mp h'
    exact absurd (by simpa [get] using (he k).symm) h.2.1
  | (k, v) :: r, [], b, _, h, _, he => by
    have h := (wfAbove_cons b k v r).mp h
    exact absurd (by simpa [get] using he k) h.2.1
  | (k, v) :: r, (k', v') :: r', b, b', h, h', he => by
    have h := (wfAbove_cons b k v r).mp h
    have h' := (wfAbove_cons b' k' v' r').mp h'
    have hk : k = k' := by
      rcases Nat.lt_trichotomy k k' with hlt | heq | hgt
      · have := he k
        simp only [get, if_true, if_neg (show ¬k = k' by omega), get_below r' k' k h'.2.2 (by omega)] at this
        exact absurd this h.2.1
      · exact heq
      · have := he k'
        simp only [get, if_true, if_neg (show ¬k' = k by omega), get_below r k k' h.2.2 (by omega)] at this
        exact absurd this.symm h'.2.1
    subst hk
    have hv : v = v' := by simpa [get] using he k
    subst hv
    have hr : r = r' := extAbove r r' (some k) (some k) h.2.2 h'.2.2 (by
      intro y
      by_cases hle : y ≤ k
      · rw [get_below r k y h.2.2 hle, get_below r' k y h'.2.2 hle]
      · have := he y
        simpa only [get, if_neg (show ¬y = k by omega)] using this)
    rw [hr]

theorem ext_wf (m m' : Assoc α) (h : wf d m = true) (h' : wf d m' = true) (he : ∀ k, get d m k = get d m' k) : m = m' :=
  extAbove m m' none none h h' he

end Sys2Proof.Machine.Assoc
end

