-- ==== Sys2Proof/Laws/State.lean ====
section
/-! SUPPORT. What each update of the state leaves as it is, field by field, and what the parts read back. -/

namespace Sys2Proof.Machine

@[simp] theorem State.setElem_cycle (s : State) (n e : Nat) (x : Elem) : (s.setElem n e x).cycle = s.cycle := rfl
@[simp] theorem State.setElem_agenda (s : State) (n e : Nat) (x : Elem) : (s.setElem n e x).agenda = s.agenda := rfl
@[simp] theorem State.setElem_pick (s : State) (n e : Nat) (x : Elem) : (s.setElem n e x).pick = s.pick := rfl
@[simp] theorem State.setElem_fresh (s : State) (n e : Nat) (x : Elem) : (s.setElem n e x).fresh = s.fresh := rfl
@[simp] theorem State.setElem_firing (s : State) (n e : Nat) (x : Elem) : (s.setElem n e x).firing = s.firing := rfl
@[simp] theorem State.setElem_stream (s : State) (n e : Nat) (x : Elem) : (s.setElem n e x).stream = s.stream := rfl
@[simp] theorem State.setElem_cores (s : State) (n e : Nat) (x : Elem) : (s.setElem n e x).cores = s.cores := rfl
@[simp] theorem State.setElem_net (s : State) (n e : Nat) (x : Elem) : (s.setElem n e x).net = s.net := rfl
@[simp] theorem State.setElem_ops (s : State) (n e : Nat) (x : Elem) : (s.setElem n e x).ops = s.ops := rfl
@[simp] theorem State.setElem_ctxs (s : State) (n e : Nat) (x : Elem) : (s.setElem n e x).ctxs = s.ctxs := rfl
@[simp] theorem State.setElem_groups (s : State) (n e : Nat) (x : Elem) : (s.setElem n e x).groups = s.groups := rfl
@[simp] theorem State.setElem_binderies (s : State) (n e : Nat) (x : Elem) : (s.setElem n e x).binderies = s.binderies := rfl
@[simp] theorem State.setElem_feeds (s : State) (n e : Nat) (x : Elem) : (s.setElem n e x).feeds = s.feeds := rfl
@[simp] theorem State.setElem_mem (s : State) (n e : Nat) (x : Elem) : (s.setElem n e x).mem = s.mem := rfl
@[simp] theorem State.setElem_pend (s : State) (n e : Nat) (x : Elem) : (s.setElem n e x).pend = s.pend := rfl
@[simp] theorem State.setElem_poison (s : State) (n e : Nat) (x : Elem) : (s.setElem n e x).poison = s.poison := rfl
@[simp] theorem State.setElem_tlb (s : State) (n e : Nat) (x : Elem) : (s.setElem n e x).tlb = s.tlb := rfl
@[simp] theorem State.setElem_bars (s : State) (n e : Nat) (x : Elem) : (s.setElem n e x).bars = s.bars := rfl
@[simp] theorem State.setElem_arrivals (s : State) (n e : Nat) (x : Elem) : (s.setElem n e x).arrivals = s.arrivals := rfl
@[simp] theorem State.setElem_dieqs (s : State) (n e : Nat) (x : Elem) : (s.setElem n e x).dieqs = s.dieqs := rfl
@[simp] theorem State.setElem_counts (s : State) (n e : Nat) (x : Elem) : (s.setElem n e x).counts = s.counts := rfl
@[simp] theorem State.setElem_faults (s : State) (n e : Nat) (x : Elem) : (s.setElem n e x).faults = s.faults := rfl
@[simp] theorem State.setElem_links (s : State) (n e : Nat) (x : Elem) : (s.setElem n e x).links = s.links := rfl
@[simp] theorem State.setElem_slips (s : State) (n e : Nat) (x : Elem) : (s.setElem n e x).slips = s.slips := rfl
@[simp] theorem State.setElem_told (s : State) (n e : Nat) (x : Elem) : (s.setElem n e x).told = s.told := rfl
@[simp] theorem State.setElem_migs (s : State) (n e : Nat) (x : Elem) : (s.setElem n e x).migs = s.migs := rfl
@[simp] theorem State.setElem_commits (s : State) (n e : Nat) (x : Elem) : (s.setElem n e x).commits = s.commits := rfl
@[simp] theorem State.setElem_marks (s : State) (n e : Nat) (x : Elem) : (s.setElem n e x).marks = s.marks := rfl
@[simp] theorem State.setElem_plat (s : State) (n e : Nat) (x : Elem) : (s.setElem n e x).plat = s.plat := rfl

@[simp] theorem State.modElem_cycle (s : State) (n e : Nat) (f : Elem → Elem) : (s.modElem n e f).cycle = s.cycle := rfl
@[simp] theorem State.modElem_agenda (s : State) (n e : Nat) (f : Elem → Elem) : (s.modElem n e f).agenda = s.agenda := rfl
@[simp] theorem State.modElem_pick (s : State) (n e : Nat) (f : Elem → Elem) : (s.modElem n e f).pick = s.pick := rfl
@[simp] theorem State.modElem_fresh (s : State) (n e : Nat) (f : Elem → Elem) : (s.modElem n e f).fresh = s.fresh := rfl
@[simp] theorem State.modElem_firing (s : State) (n e : Nat) (f : Elem → Elem) : (s.modElem n e f).firing = s.firing := rfl
@[simp] theorem State.modElem_stream (s : State) (n e : Nat) (f : Elem → Elem) : (s.modElem n e f).stream = s.stream := rfl
@[simp] theorem State.modElem_cores (s : State) (n e : Nat) (f : Elem → Elem) : (s.modElem n e f).cores = s.cores := rfl
@[simp] theorem State.modElem_net (s : State) (n e : Nat) (f : Elem → Elem) : (s.modElem n e f).net = s.net := rfl
@[simp] theorem State.modElem_ops (s : State) (n e : Nat) (f : Elem → Elem) : (s.modElem n e f).ops = s.ops := rfl
@[simp] theorem State.modElem_ctxs (s : State) (n e : Nat) (f : Elem → Elem) : (s.modElem n e f).ctxs = s.ctxs := rfl
@[simp] theorem State.modElem_groups (s : State) (n e : Nat) (f : Elem → Elem) : (s.modElem n e f).groups = s.groups := rfl
@[simp] theorem State.modElem_binderies (s : State) (n e : Nat) (f : Elem → Elem) : (s.modElem n e f).binderies = s.binderies := rfl
@[simp] theorem State.modElem_feeds (s : State) (n e : Nat) (f : Elem → Elem) : (s.modElem n e f).feeds = s.feeds := rfl
@[simp] theorem State.modElem_mem (s : State) (n e : Nat) (f : Elem → Elem) : (s.modElem n e f).mem = s.mem := rfl
@[simp] theorem State.modElem_pend (s : State) (n e : Nat) (f : Elem → Elem) : (s.modElem n e f).pend = s.pend := rfl
@[simp] theorem State.modElem_poison (s : State) (n e : Nat) (f : Elem → Elem) : (s.modElem n e f).poison = s.poison := rfl
@[simp] theorem State.modElem_tlb (s : State) (n e : Nat) (f : Elem → Elem) : (s.modElem n e f).tlb = s.tlb := rfl
@[simp] theorem State.modElem_bars (s : State) (n e : Nat) (f : Elem → Elem) : (s.modElem n e f).bars = s.bars := rfl
@[simp] theorem State.modElem_arrivals (s : State) (n e : Nat) (f : Elem → Elem) : (s.modElem n e f).arrivals = s.arrivals := rfl
@[simp] theorem State.modElem_dieqs (s : State) (n e : Nat) (f : Elem → Elem) : (s.modElem n e f).dieqs = s.dieqs := rfl
@[simp] theorem State.modElem_counts (s : State) (n e : Nat) (f : Elem → Elem) : (s.modElem n e f).counts = s.counts := rfl
@[simp] theorem State.modElem_faults (s : State) (n e : Nat) (f : Elem → Elem) : (s.modElem n e f).faults = s.faults := rfl
@[simp] theorem State.modElem_links (s : State) (n e : Nat) (f : Elem → Elem) : (s.modElem n e f).links = s.links := rfl
@[simp] theorem State.modElem_slips (s : State) (n e : Nat) (f : Elem → Elem) : (s.modElem n e f).slips = s.slips := rfl
@[simp] theorem State.modElem_told (s : State) (n e : Nat) (f : Elem → Elem) : (s.modElem n e f).told = s.told := rfl
@[simp] theorem State.modElem_migs (s : State) (n e : Nat) (f : Elem → Elem) : (s.modElem n e f).migs = s.migs := rfl
@[simp] theorem State.modElem_commits (s : State) (n e : Nat) (f : Elem → Elem) : (s.modElem n e f).commits = s.commits := rfl
@[simp] theorem State.modElem_marks (s : State) (n e : Nat) (f : Elem → Elem) : (s.modElem n e f).marks = s.marks := rfl
@[simp] theorem State.modElem_plat (s : State) (n e : Nat) (f : Elem → Elem) : (s.modElem n e f).plat = s.plat := rfl

@[simp] theorem State.modCore_cycle (s : State) (n : Nat) (f : Core → Core) : (s.modCore n f).cycle = s.cycle := rfl
@[simp] theorem State.modCore_agenda (s : State) (n : Nat) (f : Core → Core) : (s.modCore n f).agenda = s.agenda := rfl
@[simp] theorem State.modCore_pick (s : State) (n : Nat) (f : Core → Core) : (s.modCore n f).pick = s.pick := rfl
@[simp] theorem State.modCore_fresh (s : State) (n : Nat) (f : Core → Core) : (s.modCore n f).fresh = s.fresh := rfl
@[simp] theorem State.modCore_firing (s : State) (n : Nat) (f : Core → Core) : (s.modCore n f).firing = s.firing := rfl
@[simp] theorem State.modCore_stream (s : State) (n : Nat) (f : Core → Core) : (s.modCore n f).stream = s.stream := rfl
@[simp] theorem State.modCore_elems (s : State) (n : Nat) (f : Core → Core) : (s.modCore n f).elems = s.elems := rfl
@[simp] theorem State.modCore_net (s : State) (n : Nat) (f : Core → Core) : (s.modCore n f).net = s.net := rfl
@[simp] theorem State.modCore_ops (s : State) (n : Nat) (f : Core → Core) : (s.modCore n f).ops = s.ops := rfl
@[simp] theorem State.modCore_ctxs (s : State) (n : Nat) (f : Core → Core) : (s.modCore n f).ctxs = s.ctxs := rfl
@[simp] theorem State.modCore_groups (s : State) (n : Nat) (f : Core → Core) : (s.modCore n f).groups = s.groups := rfl
@[simp] theorem State.modCore_binderies (s : State) (n : Nat) (f : Core → Core) : (s.modCore n f).binderies = s.binderies := rfl
@[simp] theorem State.modCore_feeds (s : State) (n : Nat) (f : Core → Core) : (s.modCore n f).feeds = s.feeds := rfl
@[simp] theorem State.modCore_mem (s : State) (n : Nat) (f : Core → Core) : (s.modCore n f).mem = s.mem := rfl
@[simp] theorem State.modCore_pend (s : State) (n : Nat) (f : Core → Core) : (s.modCore n f).pend = s.pend := rfl
@[simp] theorem State.modCore_poison (s : State) (n : Nat) (f : Core → Core) : (s.modCore n f).poison = s.poison := rfl
@[simp] theorem State.modCore_tlb (s : State) (n : Nat) (f : Core → Core) : (s.modCore n f).tlb = s.tlb := rfl
@[simp] theorem State.modCore_bars (s : State) (n : Nat) (f : Core → Core) : (s.modCore n f).bars = s.bars := rfl
@[simp] theorem State.modCore_arrivals (s : State) (n : Nat) (f : Core → Core) : (s.modCore n f).arrivals = s.arrivals := rfl
@[simp] theorem State.modCore_dieqs (s : State) (n : Nat) (f : Core → Core) : (s.modCore n f).dieqs = s.dieqs := rfl
@[simp] theorem State.modCore_counts (s : State) (n : Nat) (f : Core → Core) : (s.modCore n f).counts = s.counts := rfl
@[simp] theorem State.modCore_faults (s : State) (n : Nat) (f : Core → Core) : (s.modCore n f).faults = s.faults := rfl
@[simp] theorem State.modCore_links (s : State) (n : Nat) (f : Core → Core) : (s.modCore n f).links = s.links := rfl
@[simp] theorem State.modCore_slips (s : State) (n : Nat) (f : Core → Core) : (s.modCore n f).slips = s.slips := rfl
@[simp] theorem State.modCore_told (s : State) (n : Nat) (f : Core → Core) : (s.modCore n f).told = s.told := rfl
@[simp] theorem State.modCore_migs (s : State) (n : Nat) (f : Core → Core) : (s.modCore n f).migs = s.migs := rfl
@[simp] theorem State.modCore_commits (s : State) (n : Nat) (f : Core → Core) : (s.modCore n f).commits = s.commits := rfl
@[simp] theorem State.modCore_marks (s : State) (n : Nat) (f : Core → Core) : (s.modCore n f).marks = s.marks := rfl
@[simp] theorem State.modCore_plat (s : State) (n : Nat) (f : Core → Core) : (s.modCore n f).plat = s.plat := rfl

@[simp] theorem State.modCtx_cycle (s : State) (c : BitVec 6) (f : Context → Context) : (s.modCtx c f).cycle = s.cycle := rfl
@[simp] theorem State.modCtx_agenda (s : State) (c : BitVec 6) (f : Context → Context) : (s.modCtx c f).agenda = s.agenda := rfl
@[simp] theorem State.modCtx_pick (s : State) (c : BitVec 6) (f : Context → Context) : (s.modCtx c f).pick = s.pick := rfl
@[simp] theorem State.modCtx_fresh (s : State) (c : BitVec 6) (f : Context → Context) : (s.modCtx c f).fresh = s.fresh := rfl
@[simp] theorem State.modCtx_firing (s : State) (c : BitVec 6) (f : Context → Context) : (s.modCtx c f).firing = s.firing := rfl
@[simp] theorem State.modCtx_stream (s : State) (c : BitVec 6) (f : Context → Context) : (s.modCtx c f).stream = s.stream := rfl
@[simp] theorem State.modCtx_elems (s : State) (c : BitVec 6) (f : Context → Context) : (s.modCtx c f).elems = s.elems := rfl
@[simp] theorem State.modCtx_cores (s : State) (c : BitVec 6) (f : Context → Context) : (s.modCtx c f).cores = s.cores := rfl
@[simp] theorem State.modCtx_net (s : State) (c : BitVec 6) (f : Context → Context) : (s.modCtx c f).net = s.net := rfl
@[simp] theorem State.modCtx_ops (s : State) (c : BitVec 6) (f : Context → Context) : (s.modCtx c f).ops = s.ops := rfl
@[simp] theorem State.modCtx_groups (s : State) (c : BitVec 6) (f : Context → Context) : (s.modCtx c f).groups = s.groups := rfl
@[simp] theorem State.modCtx_binderies (s : State) (c : BitVec 6) (f : Context → Context) : (s.modCtx c f).binderies = s.binderies := rfl
@[simp] theorem State.modCtx_feeds (s : State) (c : BitVec 6) (f : Context → Context) : (s.modCtx c f).feeds = s.feeds := rfl
@[simp] theorem State.modCtx_mem (s : State) (c : BitVec 6) (f : Context → Context) : (s.modCtx c f).mem = s.mem := rfl
@[simp] theorem State.modCtx_pend (s : State) (c : BitVec 6) (f : Context → Context) : (s.modCtx c f).pend = s.pend := rfl
@[simp] theorem State.modCtx_poison (s : State) (c : BitVec 6) (f : Context → Context) : (s.modCtx c f).poison = s.poison := rfl
@[simp] theorem State.modCtx_tlb (s : State) (c : BitVec 6) (f : Context → Context) : (s.modCtx c f).tlb = s.tlb := rfl
@[simp] theorem State.modCtx_bars (s : State) (c : BitVec 6) (f : Context → Context) : (s.modCtx c f).bars = s.bars := rfl
@[simp] theorem State.modCtx_arrivals (s : State) (c : BitVec 6) (f : Context → Context) : (s.modCtx c f).arrivals = s.arrivals := rfl
@[simp] theorem State.modCtx_dieqs (s : State) (c : BitVec 6) (f : Context → Context) : (s.modCtx c f).dieqs = s.dieqs := rfl
@[simp] theorem State.modCtx_counts (s : State) (c : BitVec 6) (f : Context → Context) : (s.modCtx c f).counts = s.counts := rfl
@[simp] theorem State.modCtx_faults (s : State) (c : BitVec 6) (f : Context → Context) : (s.modCtx c f).faults = s.faults := rfl
@[simp] theorem State.modCtx_links (s : State) (c : BitVec 6) (f : Context → Context) : (s.modCtx c f).links = s.links := rfl
@[simp] theorem State.modCtx_slips (s : State) (c : BitVec 6) (f : Context → Context) : (s.modCtx c f).slips = s.slips := rfl
@[simp] theorem State.modCtx_told (s : State) (c : BitVec 6) (f : Context → Context) : (s.modCtx c f).told = s.told := rfl
@[simp] theorem State.modCtx_migs (s : State) (c : BitVec 6) (f : Context → Context) : (s.modCtx c f).migs = s.migs := rfl
@[simp] theorem State.modCtx_commits (s : State) (c : BitVec 6) (f : Context → Context) : (s.modCtx c f).commits = s.commits := rfl
@[simp] theorem State.modCtx_marks (s : State) (c : BitVec 6) (f : Context → Context) : (s.modCtx c f).marks = s.marks := rfl
@[simp] theorem State.modCtx_plat (s : State) (c : BitVec 6) (f : Context → Context) : (s.modCtx c f).plat = s.plat := rfl

@[simp] theorem State.modBind_cycle (s : State) (b : Nat) (f : Bindery → Bindery) : (s.modBind b f).cycle = s.cycle := rfl
@[simp] theorem State.modBind_agenda (s : State) (b : Nat) (f : Bindery → Bindery) : (s.modBind b f).agenda = s.agenda := rfl
@[simp] theorem State.modBind_pick (s : State) (b : Nat) (f : Bindery → Bindery) : (s.modBind b f).pick = s.pick := rfl
@[simp] theorem State.modBind_fresh (s : State) (b : Nat) (f : Bindery → Bindery) : (s.modBind b f).fresh = s.fresh := rfl
@[simp] theorem State.modBind_firing (s : State) (b : Nat) (f : Bindery → Bindery) : (s.modBind b f).firing = s.firing := rfl
@[simp] theorem State.modBind_stream (s : State) (b : Nat) (f : Bindery → Bindery) : (s.modBind b f).stream = s.stream := rfl
@[simp] theorem State.modBind_elems (s : State) (b : Nat) (f : Bindery → Bindery) : (s.modBind b f).elems = s.elems := rfl
@[simp] theorem State.modBind_cores (s : State) (b : Nat) (f : Bindery → Bindery) : (s.modBind b f).cores = s.cores := rfl
@[simp] theorem State.modBind_net (s : State) (b : Nat) (f : Bindery → Bindery) : (s.modBind b f).net = s.net := rfl
@[simp] theorem State.modBind_ops (s : State) (b : Nat) (f : Bindery → Bindery) : (s.modBind b f).ops = s.ops := rfl
@[simp] theorem State.modBind_ctxs (s : State) (b : Nat) (f : Bindery → Bindery) : (s.modBind b f).ctxs = s.ctxs := rfl
@[simp] theorem State.modBind_groups (s : State) (b : Nat) (f : Bindery → Bindery) : (s.modBind b f).groups = s.groups := rfl
@[simp] theorem State.modBind_feeds (s : State) (b : Nat) (f : Bindery → Bindery) : (s.modBind b f).feeds = s.feeds := rfl
@[simp] theorem State.modBind_mem (s : State) (b : Nat) (f : Bindery → Bindery) : (s.modBind b f).mem = s.mem := rfl
@[simp] theorem State.modBind_pend (s : State) (b : Nat) (f : Bindery → Bindery) : (s.modBind b f).pend = s.pend := rfl
@[simp] theorem State.modBind_poison (s : State) (b : Nat) (f : Bindery → Bindery) : (s.modBind b f).poison = s.poison := rfl
@[simp] theorem State.modBind_tlb (s : State) (b : Nat) (f : Bindery → Bindery) : (s.modBind b f).tlb = s.tlb := rfl
@[simp] theorem State.modBind_bars (s : State) (b : Nat) (f : Bindery → Bindery) : (s.modBind b f).bars = s.bars := rfl
@[simp] theorem State.modBind_arrivals (s : State) (b : Nat) (f : Bindery → Bindery) : (s.modBind b f).arrivals = s.arrivals := rfl
@[simp] theorem State.modBind_dieqs (s : State) (b : Nat) (f : Bindery → Bindery) : (s.modBind b f).dieqs = s.dieqs := rfl
@[simp] theorem State.modBind_counts (s : State) (b : Nat) (f : Bindery → Bindery) : (s.modBind b f).counts = s.counts := rfl
@[simp] theorem State.modBind_faults (s : State) (b : Nat) (f : Bindery → Bindery) : (s.modBind b f).faults = s.faults := rfl
@[simp] theorem State.modBind_links (s : State) (b : Nat) (f : Bindery → Bindery) : (s.modBind b f).links = s.links := rfl
@[simp] theorem State.modBind_slips (s : State) (b : Nat) (f : Bindery → Bindery) : (s.modBind b f).slips = s.slips := rfl
@[simp] theorem State.modBind_told (s : State) (b : Nat) (f : Bindery → Bindery) : (s.modBind b f).told = s.told := rfl
@[simp] theorem State.modBind_migs (s : State) (b : Nat) (f : Bindery → Bindery) : (s.modBind b f).migs = s.migs := rfl
@[simp] theorem State.modBind_commits (s : State) (b : Nat) (f : Bindery → Bindery) : (s.modBind b f).commits = s.commits := rfl
@[simp] theorem State.modBind_marks (s : State) (b : Nat) (f : Bindery → Bindery) : (s.modBind b f).marks = s.marks := rfl
@[simp] theorem State.modBind_plat (s : State) (b : Nat) (f : Bindery → Bindery) : (s.modBind b f).plat = s.plat := rfl

@[simp] theorem State.modFeed_cycle (s : State) (b n : Nat) (f : Feed → Feed) : (s.modFeed b n f).cycle = s.cycle := rfl
@[simp] theorem State.modFeed_agenda (s : State) (b n : Nat) (f : Feed → Feed) : (s.modFeed b n f).agenda = s.agenda := rfl
@[simp] theorem State.modFeed_pick (s : State) (b n : Nat) (f : Feed → Feed) : (s.modFeed b n f).pick = s.pick := rfl
@[simp] theorem State.modFeed_fresh (s : State) (b n : Nat) (f : Feed → Feed) : (s.modFeed b n f).fresh = s.fresh := rfl
@[simp] theorem State.modFeed_firing (s : State) (b n : Nat) (f : Feed → Feed) : (s.modFeed b n f).firing = s.firing := rfl
@[simp] theorem State.modFeed_stream (s : State) (b n : Nat) (f : Feed → Feed) : (s.modFeed b n f).stream = s.stream := rfl
@[simp] theorem State.modFeed_elems (s : State) (b n : Nat) (f : Feed → Feed) : (s.modFeed b n f).elems = s.elems := rfl
@[simp] theorem State.modFeed_cores (s : State) (b n : Nat) (f : Feed → Feed) : (s.modFeed b n f).cores = s.cores := rfl
@[simp] theorem State.modFeed_net (s : State) (b n : Nat) (f : Feed → Feed) : (s.modFeed b n f).net = s.net := rfl
@[simp] theorem State.modFeed_ops (s : State) (b n : Nat) (f : Feed → Feed) : (s.modFeed b n f).ops = s.ops := rfl
@[simp] theorem State.modFeed_ctxs (s : State) (b n : Nat) (f : Feed → Feed) : (s.modFeed b n f).ctxs = s.ctxs := rfl
@[simp] theorem State.modFeed_groups (s : State) (b n : Nat) (f : Feed → Feed) : (s.modFeed b n f).groups = s.groups := rfl
@[simp] theorem State.modFeed_binderies (s : State) (b n : Nat) (f : Feed → Feed) : (s.modFeed b n f).binderies = s.binderies := rfl
@[simp] theorem State.modFeed_mem (s : State) (b n : Nat) (f : Feed → Feed) : (s.modFeed b n f).mem = s.mem := rfl
@[simp] theorem State.modFeed_pend (s : State) (b n : Nat) (f : Feed → Feed) : (s.modFeed b n f).pend = s.pend := rfl
@[simp] theorem State.modFeed_poison (s : State) (b n : Nat) (f : Feed → Feed) : (s.modFeed b n f).poison = s.poison := rfl
@[simp] theorem State.modFeed_tlb (s : State) (b n : Nat) (f : Feed → Feed) : (s.modFeed b n f).tlb = s.tlb := rfl
@[simp] theorem State.modFeed_bars (s : State) (b n : Nat) (f : Feed → Feed) : (s.modFeed b n f).bars = s.bars := rfl
@[simp] theorem State.modFeed_arrivals (s : State) (b n : Nat) (f : Feed → Feed) : (s.modFeed b n f).arrivals = s.arrivals := rfl
@[simp] theorem State.modFeed_dieqs (s : State) (b n : Nat) (f : Feed → Feed) : (s.modFeed b n f).dieqs = s.dieqs := rfl
@[simp] theorem State.modFeed_counts (s : State) (b n : Nat) (f : Feed → Feed) : (s.modFeed b n f).counts = s.counts := rfl
@[simp] theorem State.modFeed_faults (s : State) (b n : Nat) (f : Feed → Feed) : (s.modFeed b n f).faults = s.faults := rfl
@[simp] theorem State.modFeed_links (s : State) (b n : Nat) (f : Feed → Feed) : (s.modFeed b n f).links = s.links := rfl
@[simp] theorem State.modFeed_slips (s : State) (b n : Nat) (f : Feed → Feed) : (s.modFeed b n f).slips = s.slips := rfl
@[simp] theorem State.modFeed_told (s : State) (b n : Nat) (f : Feed → Feed) : (s.modFeed b n f).told = s.told := rfl
@[simp] theorem State.modFeed_migs (s : State) (b n : Nat) (f : Feed → Feed) : (s.modFeed b n f).migs = s.migs := rfl
@[simp] theorem State.modFeed_commits (s : State) (b n : Nat) (f : Feed → Feed) : (s.modFeed b n f).commits = s.commits := rfl
@[simp] theorem State.modFeed_marks (s : State) (b n : Nat) (f : Feed → Feed) : (s.modFeed b n f).marks = s.marks := rfl
@[simp] theorem State.modFeed_plat (s : State) (b n : Nat) (f : Feed → Feed) : (s.modFeed b n f).plat = s.plat := rfl

@[simp] theorem State.modLink_cycle (s : State) (l : Nat) (f : Link → Link) : (s.modLink l f).cycle = s.cycle := rfl
@[simp] theorem State.modLink_agenda (s : State) (l : Nat) (f : Link → Link) : (s.modLink l f).agenda = s.agenda := rfl
@[simp] theorem State.modLink_pick (s : State) (l : Nat) (f : Link → Link) : (s.modLink l f).pick = s.pick := rfl
@[simp] theorem State.modLink_fresh (s : State) (l : Nat) (f : Link → Link) : (s.modLink l f).fresh = s.fresh := rfl
@[simp] theorem State.modLink_firing (s : State) (l : Nat) (f : Link → Link) : (s.modLink l f).firing = s.firing := rfl
@[simp] theorem State.modLink_stream (s : State) (l : Nat) (f : Link → Link) : (s.modLink l f).stream = s.stream := rfl
@[simp] theorem State.modLink_elems (s : State) (l : Nat) (f : Link → Link) : (s.modLink l f).elems = s.elems := rfl
@[simp] theorem State.modLink_cores (s : State) (l : Nat) (f : Link → Link) : (s.modLink l f).cores = s.cores := rfl
@[simp] theorem State.modLink_net (s : State) (l : Nat) (f : Link → Link) : (s.modLink l f).net = s.net := rfl
@[simp] theorem State.modLink_ops (s : State) (l : Nat) (f : Link → Link) : (s.modLink l f).ops = s.ops := rfl
@[simp] theorem State.modLink_ctxs (s : State) (l : Nat) (f : Link → Link) : (s.modLink l f).ctxs = s.ctxs := rfl
@[simp] theorem State.modLink_groups (s : State) (l : Nat) (f : Link → Link) : (s.modLink l f).groups = s.groups := rfl
@[simp] theorem State.modLink_binderies (s : State) (l : Nat) (f : Link → Link) : (s.modLink l f).binderies = s.binderies := rfl
@[simp] theorem State.modLink_feeds (s : State) (l : Nat) (f : Link → Link) : (s.modLink l f).feeds = s.feeds := rfl
@[simp] theorem State.modLink_mem (s : State) (l : Nat) (f : Link → Link) : (s.modLink l f).mem = s.mem := rfl
@[simp] theorem State.modLink_pend (s : State) (l : Nat) (f : Link → Link) : (s.modLink l f).pend = s.pend := rfl
@[simp] theorem State.modLink_poison (s : State) (l : Nat) (f : Link → Link) : (s.modLink l f).poison = s.poison := rfl
@[simp] theorem State.modLink_tlb (s : State) (l : Nat) (f : Link → Link) : (s.modLink l f).tlb = s.tlb := rfl
@[simp] theorem State.modLink_bars (s : State) (l : Nat) (f : Link → Link) : (s.modLink l f).bars = s.bars := rfl
@[simp] theorem State.modLink_arrivals (s : State) (l : Nat) (f : Link → Link) : (s.modLink l f).arrivals = s.arrivals := rfl
@[simp] theorem State.modLink_dieqs (s : State) (l : Nat) (f : Link → Link) : (s.modLink l f).dieqs = s.dieqs := rfl
@[simp] theorem State.modLink_counts (s : State) (l : Nat) (f : Link → Link) : (s.modLink l f).counts = s.counts := rfl
@[simp] theorem State.modLink_faults (s : State) (l : Nat) (f : Link → Link) : (s.modLink l f).faults = s.faults := rfl
@[simp] theorem State.modLink_slips (s : State) (l : Nat) (f : Link → Link) : (s.modLink l f).slips = s.slips := rfl
@[simp] theorem State.modLink_told (s : State) (l : Nat) (f : Link → Link) : (s.modLink l f).told = s.told := rfl
@[simp] theorem State.modLink_migs (s : State) (l : Nat) (f : Link → Link) : (s.modLink l f).migs = s.migs := rfl
@[simp] theorem State.modLink_commits (s : State) (l : Nat) (f : Link → Link) : (s.modLink l f).commits = s.commits := rfl
@[simp] theorem State.modLink_marks (s : State) (l : Nat) (f : Link → Link) : (s.modLink l f).marks = s.marks := rfl
@[simp] theorem State.modLink_plat (s : State) (l : Nat) (f : Link → Link) : (s.modLink l f).plat = s.plat := rfl

@[simp] theorem State.modOp_cycle (s : State) (id : Nat) (f : Op → Op) : (s.modOp id f).cycle = s.cycle := rfl
@[simp] theorem State.modOp_agenda (s : State) (id : Nat) (f : Op → Op) : (s.modOp id f).agenda = s.agenda := rfl
@[simp] theorem State.modOp_pick (s : State) (id : Nat) (f : Op → Op) : (s.modOp id f).pick = s.pick := rfl
@[simp] theorem State.modOp_fresh (s : State) (id : Nat) (f : Op → Op) : (s.modOp id f).fresh = s.fresh := rfl
@[simp] theorem State.modOp_firing (s : State) (id : Nat) (f : Op → Op) : (s.modOp id f).firing = s.firing := rfl
@[simp] theorem State.modOp_stream (s : State) (id : Nat) (f : Op → Op) : (s.modOp id f).stream = s.stream := rfl
@[simp] theorem State.modOp_elems (s : State) (id : Nat) (f : Op → Op) : (s.modOp id f).elems = s.elems := rfl
@[simp] theorem State.modOp_cores (s : State) (id : Nat) (f : Op → Op) : (s.modOp id f).cores = s.cores := rfl
@[simp] theorem State.modOp_net (s : State) (id : Nat) (f : Op → Op) : (s.modOp id f).net = s.net := rfl
@[simp] theorem State.modOp_ctxs (s : State) (id : Nat) (f : Op → Op) : (s.modOp id f).ctxs = s.ctxs := rfl
@[simp] theorem State.modOp_groups (s : State) (id : Nat) (f : Op → Op) : (s.modOp id f).groups = s.groups := rfl
@[simp] theorem State.modOp_binderies (s : State) (id : Nat) (f : Op → Op) : (s.modOp id f).binderies = s.binderies := rfl
@[simp] theorem State.modOp_feeds (s : State) (id : Nat) (f : Op → Op) : (s.modOp id f).feeds = s.feeds := rfl
@[simp] theorem State.modOp_mem (s : State) (id : Nat) (f : Op → Op) : (s.modOp id f).mem = s.mem := rfl
@[simp] theorem State.modOp_pend (s : State) (id : Nat) (f : Op → Op) : (s.modOp id f).pend = s.pend := rfl
@[simp] theorem State.modOp_poison (s : State) (id : Nat) (f : Op → Op) : (s.modOp id f).poison = s.poison := rfl
@[simp] theorem State.modOp_tlb (s : State) (id : Nat) (f : Op → Op) : (s.modOp id f).tlb = s.tlb := rfl
@[simp] theorem State.modOp_bars (s : State) (id : Nat) (f : Op → Op) : (s.modOp id f).bars = s.bars := rfl
@[simp] theorem State.modOp_arrivals (s : State) (id : Nat) (f : Op → Op) : (s.modOp id f).arrivals = s.arrivals := rfl
@[simp] theorem State.modOp_dieqs (s : State) (id : Nat) (f : Op → Op) : (s.modOp id f).dieqs = s.dieqs := rfl
@[simp] theorem State.modOp_counts (s : State) (id : Nat) (f : Op → Op) : (s.modOp id f).counts = s.counts := rfl
@[simp] theorem State.modOp_faults (s : State) (id : Nat) (f : Op → Op) : (s.modOp id f).faults = s.faults := rfl
@[simp] theorem State.modOp_links (s : State) (id : Nat) (f : Op → Op) : (s.modOp id f).links = s.links := rfl
@[simp] theorem State.modOp_slips (s : State) (id : Nat) (f : Op → Op) : (s.modOp id f).slips = s.slips := rfl
@[simp] theorem State.modOp_told (s : State) (id : Nat) (f : Op → Op) : (s.modOp id f).told = s.told := rfl
@[simp] theorem State.modOp_migs (s : State) (id : Nat) (f : Op → Op) : (s.modOp id f).migs = s.migs := rfl
@[simp] theorem State.modOp_commits (s : State) (id : Nat) (f : Op → Op) : (s.modOp id f).commits = s.commits := rfl
@[simp] theorem State.modOp_marks (s : State) (id : Nat) (f : Op → Op) : (s.modOp id f).marks = s.marks := rfl
@[simp] theorem State.modOp_plat (s : State) (id : Nat) (f : Op → Op) : (s.modOp id f).plat = s.plat := rfl

@[simp] theorem State.dropOp_cycle (s : State) (id : Nat) : (s.dropOp id).cycle = s.cycle := rfl
@[simp] theorem State.dropOp_agenda (s : State) (id : Nat) : (s.dropOp id).agenda = s.agenda := rfl
@[simp] theorem State.dropOp_pick (s : State) (id : Nat) : (s.dropOp id).pick = s.pick := rfl
@[simp] theorem State.dropOp_fresh (s : State) (id : Nat) : (s.dropOp id).fresh = s.fresh := rfl
@[simp] theorem State.dropOp_firing (s : State) (id : Nat) : (s.dropOp id).firing = s.firing := rfl
@[simp] theorem State.dropOp_stream (s : State) (id : Nat) : (s.dropOp id).stream = s.stream := rfl
@[simp] theorem State.dropOp_elems (s : State) (id : Nat) : (s.dropOp id).elems = s.elems := rfl
@[simp] theorem State.dropOp_cores (s : State) (id : Nat) : (s.dropOp id).cores = s.cores := rfl
@[simp] theorem State.dropOp_net (s : State) (id : Nat) : (s.dropOp id).net = s.net := rfl
@[simp] theorem State.dropOp_ctxs (s : State) (id : Nat) : (s.dropOp id).ctxs = s.ctxs := rfl
@[simp] theorem State.dropOp_groups (s : State) (id : Nat) : (s.dropOp id).groups = s.groups := rfl
@[simp] theorem State.dropOp_binderies (s : State) (id : Nat) : (s.dropOp id).binderies = s.binderies := rfl
@[simp] theorem State.dropOp_feeds (s : State) (id : Nat) : (s.dropOp id).feeds = s.feeds := rfl
@[simp] theorem State.dropOp_mem (s : State) (id : Nat) : (s.dropOp id).mem = s.mem := rfl
@[simp] theorem State.dropOp_pend (s : State) (id : Nat) : (s.dropOp id).pend = s.pend := rfl
@[simp] theorem State.dropOp_poison (s : State) (id : Nat) : (s.dropOp id).poison = s.poison := rfl
@[simp] theorem State.dropOp_tlb (s : State) (id : Nat) : (s.dropOp id).tlb = s.tlb := rfl
@[simp] theorem State.dropOp_bars (s : State) (id : Nat) : (s.dropOp id).bars = s.bars := rfl
@[simp] theorem State.dropOp_arrivals (s : State) (id : Nat) : (s.dropOp id).arrivals = s.arrivals := rfl
@[simp] theorem State.dropOp_dieqs (s : State) (id : Nat) : (s.dropOp id).dieqs = s.dieqs := rfl
@[simp] theorem State.dropOp_counts (s : State) (id : Nat) : (s.dropOp id).counts = s.counts := rfl
@[simp] theorem State.dropOp_faults (s : State) (id : Nat) : (s.dropOp id).faults = s.faults := rfl
@[simp] theorem State.dropOp_links (s : State) (id : Nat) : (s.dropOp id).links = s.links := rfl
@[simp] theorem State.dropOp_slips (s : State) (id : Nat) : (s.dropOp id).slips = s.slips := rfl
@[simp] theorem State.dropOp_told (s : State) (id : Nat) : (s.dropOp id).told = s.told := rfl
@[simp] theorem State.dropOp_migs (s : State) (id : Nat) : (s.dropOp id).migs = s.migs := rfl
@[simp] theorem State.dropOp_commits (s : State) (id : Nat) : (s.dropOp id).commits = s.commits := rfl
@[simp] theorem State.dropOp_marks (s : State) (id : Nat) : (s.dropOp id).marks = s.marks := rfl
@[simp] theorem State.dropOp_plat (s : State) (id : Nat) : (s.dropOp id).plat = s.plat := rfl

@[simp] theorem State.putOp_cycle (s : State) (o : Op) : (s.putOp o).cycle = s.cycle := rfl
@[simp] theorem State.putOp_agenda (s : State) (o : Op) : (s.putOp o).agenda = s.agenda := rfl
@[simp] theorem State.putOp_pick (s : State) (o : Op) : (s.putOp o).pick = s.pick := rfl
@[simp] theorem State.putOp_fresh (s : State) (o : Op) : (s.putOp o).fresh = s.fresh := rfl
@[simp] theorem State.putOp_firing (s : State) (o : Op) : (s.putOp o).firing = s.firing := rfl
@[simp] theorem State.putOp_stream (s : State) (o : Op) : (s.putOp o).stream = s.stream := rfl
@[simp] theorem State.putOp_elems (s : State) (o : Op) : (s.putOp o).elems = s.elems := rfl
@[simp] theorem State.putOp_cores (s : State) (o : Op) : (s.putOp o).cores = s.cores := rfl
@[simp] theorem State.putOp_net (s : State) (o : Op) : (s.putOp o).net = s.net := rfl
@[simp] theorem State.putOp_ctxs (s : State) (o : Op) : (s.putOp o).ctxs = s.ctxs := rfl
@[simp] theorem State.putOp_groups (s : State) (o : Op) : (s.putOp o).groups = s.groups := rfl
@[simp] theorem State.putOp_binderies (s : State) (o : Op) : (s.putOp o).binderies = s.binderies := rfl
@[simp] theorem State.putOp_feeds (s : State) (o : Op) : (s.putOp o).feeds = s.feeds := rfl
@[simp] theorem State.putOp_mem (s : State) (o : Op) : (s.putOp o).mem = s.mem := rfl
@[simp] theorem State.putOp_pend (s : State) (o : Op) : (s.putOp o).pend = s.pend := rfl
@[simp] theorem State.putOp_poison (s : State) (o : Op) : (s.putOp o).poison = s.poison := rfl
@[simp] theorem State.putOp_tlb (s : State) (o : Op) : (s.putOp o).tlb = s.tlb := rfl
@[simp] theorem State.putOp_bars (s : State) (o : Op) : (s.putOp o).bars = s.bars := rfl
@[simp] theorem State.putOp_arrivals (s : State) (o : Op) : (s.putOp o).arrivals = s.arrivals := rfl
@[simp] theorem State.putOp_dieqs (s : State) (o : Op) : (s.putOp o).dieqs = s.dieqs := rfl
@[simp] theorem State.putOp_counts (s : State) (o : Op) : (s.putOp o).counts = s.counts := rfl
@[simp] theorem State.putOp_faults (s : State) (o : Op) : (s.putOp o).faults = s.faults := rfl
@[simp] theorem State.putOp_links (s : State) (o : Op) : (s.putOp o).links = s.links := rfl
@[simp] theorem State.putOp_slips (s : State) (o : Op) : (s.putOp o).slips = s.slips := rfl
@[simp] theorem State.putOp_told (s : State) (o : Op) : (s.putOp o).told = s.told := rfl
@[simp] theorem State.putOp_migs (s : State) (o : Op) : (s.putOp o).migs = s.migs := rfl
@[simp] theorem State.putOp_commits (s : State) (o : Op) : (s.putOp o).commits = s.commits := rfl
@[simp] theorem State.putOp_marks (s : State) (o : Op) : (s.putOp o).marks = s.marks := rfl
@[simp] theorem State.putOp_plat (s : State) (o : Op) : (s.putOp o).plat = s.plat := rfl

@[simp] theorem State.modGroup_cycle (s : State) (k : Nat) (f : Group → Group) : (s.modGroup k f).cycle = s.cycle := rfl
@[simp] theorem State.modGroup_agenda (s : State) (k : Nat) (f : Group → Group) : (s.modGroup k f).agenda = s.agenda := rfl
@[simp] theorem State.modGroup_pick (s : State) (k : Nat) (f : Group → Group) : (s.modGroup k f).pick = s.pick := rfl
@[simp] theorem State.modGroup_fresh (s : State) (k : Nat) (f : Group → Group) : (s.modGroup k f).fresh = s.fresh := rfl
@[simp] theorem State.modGroup_firing (s : State) (k : Nat) (f : Group → Group) : (s.modGroup k f).firing = s.firing := rfl
@[simp] theorem State.modGroup_stream (s : State) (k : Nat) (f : Group → Group) : (s.modGroup k f).stream = s.stream := rfl
@[simp] theorem State.modGroup_elems (s : State) (k : Nat) (f : Group → Group) : (s.modGroup k f).elems = s.elems := rfl
@[simp] theorem State.modGroup_cores (s : State) (k : Nat) (f : Group → Group) : (s.modGroup k f).cores = s.cores := rfl
@[simp] theorem State.modGroup_net (s : State) (k : Nat) (f : Group → Group) : (s.modGroup k f).net = s.net := rfl
@[simp] theorem State.modGroup_ops (s : State) (k : Nat) (f : Group → Group) : (s.modGroup k f).ops = s.ops := rfl
@[simp] theorem State.modGroup_ctxs (s : State) (k : Nat) (f : Group → Group) : (s.modGroup k f).ctxs = s.ctxs := rfl
@[simp] theorem State.modGroup_binderies (s : State) (k : Nat) (f : Group → Group) : (s.modGroup k f).binderies = s.binderies := rfl
@[simp] theorem State.modGroup_feeds (s : State) (k : Nat) (f : Group → Group) : (s.modGroup k f).feeds = s.feeds := rfl
@[simp] theorem State.modGroup_mem (s : State) (k : Nat) (f : Group → Group) : (s.modGroup k f).mem = s.mem := rfl
@[simp] theorem State.modGroup_pend (s : State) (k : Nat) (f : Group → Group) : (s.modGroup k f).pend = s.pend := rfl
@[simp] theorem State.modGroup_poison (s : State) (k : Nat) (f : Group → Group) : (s.modGroup k f).poison = s.poison := rfl
@[simp] theorem State.modGroup_tlb (s : State) (k : Nat) (f : Group → Group) : (s.modGroup k f).tlb = s.tlb := rfl
@[simp] theorem State.modGroup_bars (s : State) (k : Nat) (f : Group → Group) : (s.modGroup k f).bars = s.bars := rfl
@[simp] theorem State.modGroup_arrivals (s : State) (k : Nat) (f : Group → Group) : (s.modGroup k f).arrivals = s.arrivals := rfl
@[simp] theorem State.modGroup_dieqs (s : State) (k : Nat) (f : Group → Group) : (s.modGroup k f).dieqs = s.dieqs := rfl
@[simp] theorem State.modGroup_counts (s : State) (k : Nat) (f : Group → Group) : (s.modGroup k f).counts = s.counts := rfl
@[simp] theorem State.modGroup_faults (s : State) (k : Nat) (f : Group → Group) : (s.modGroup k f).faults = s.faults := rfl
@[simp] theorem State.modGroup_links (s : State) (k : Nat) (f : Group → Group) : (s.modGroup k f).links = s.links := rfl
@[simp] theorem State.modGroup_slips (s : State) (k : Nat) (f : Group → Group) : (s.modGroup k f).slips = s.slips := rfl
@[simp] theorem State.modGroup_told (s : State) (k : Nat) (f : Group → Group) : (s.modGroup k f).told = s.told := rfl
@[simp] theorem State.modGroup_migs (s : State) (k : Nat) (f : Group → Group) : (s.modGroup k f).migs = s.migs := rfl
@[simp] theorem State.modGroup_commits (s : State) (k : Nat) (f : Group → Group) : (s.modGroup k f).commits = s.commits := rfl
@[simp] theorem State.modGroup_marks (s : State) (k : Nat) (f : Group → Group) : (s.modGroup k f).marks = s.marks := rfl
@[simp] theorem State.modGroup_plat (s : State) (k : Nat) (f : Group → Group) : (s.modGroup k f).plat = s.plat := rfl

@[simp] theorem State.newId_cycle (s : State) : (s.newId.2).cycle = s.cycle := rfl
@[simp] theorem State.newId_agenda (s : State) : (s.newId.2).agenda = s.agenda := rfl
@[simp] theorem State.newId_pick (s : State) : (s.newId.2).pick = s.pick := rfl
@[simp] theorem State.newId_firing (s : State) : (s.newId.2).firing = s.firing := rfl
@[simp] theorem State.newId_stream (s : State) : (s.newId.2).stream = s.stream := rfl
@[simp] theorem State.newId_elems (s : State) : (s.newId.2).elems = s.elems := rfl
@[simp] theorem State.newId_cores (s : State) : (s.newId.2).cores = s.cores := rfl
@[simp] theorem State.newId_net (s : State) : (s.newId.2).net = s.net := rfl
@[simp] theorem State.newId_ops (s : State) : (s.newId.2).ops = s.ops := rfl
@[simp] theorem State.newId_ctxs (s : State) : (s.newId.2).ctxs = s.ctxs := rfl
@[simp] theorem State.newId_groups (s : State) : (s.newId.2).groups = s.groups := rfl
@[simp] theorem State.newId_binderies (s : State) : (s.newId.2).binderies = s.binderies := rfl
@[simp] theorem State.newId_feeds (s : State) : (s.newId.2).feeds = s.feeds := rfl
@[simp] theorem State.newId_mem (s : State) : (s.newId.2).mem = s.mem := rfl
@[simp] theorem State.newId_pend (s : State) : (s.newId.2).pend = s.pend := rfl
@[simp] theorem State.newId_poison (s : State) : (s.newId.2).poison = s.poison := rfl
@[simp] theorem State.newId_tlb (s : State) : (s.newId.2).tlb = s.tlb := rfl
@[simp] theorem State.newId_bars (s : State) : (s.newId.2).bars = s.bars := rfl
@[simp] theorem State.newId_arrivals (s : State) : (s.newId.2).arrivals = s.arrivals := rfl
@[simp] theorem State.newId_dieqs (s : State) : (s.newId.2).dieqs = s.dieqs := rfl
@[simp] theorem State.newId_counts (s : State) : (s.newId.2).counts = s.counts := rfl
@[simp] theorem State.newId_faults (s : State) : (s.newId.2).faults = s.faults := rfl
@[simp] theorem State.newId_links (s : State) : (s.newId.2).links = s.links := rfl
@[simp] theorem State.newId_slips (s : State) : (s.newId.2).slips = s.slips := rfl
@[simp] theorem State.newId_told (s : State) : (s.newId.2).told = s.told := rfl
@[simp] theorem State.newId_migs (s : State) : (s.newId.2).migs = s.migs := rfl
@[simp] theorem State.newId_commits (s : State) : (s.newId.2).commits = s.commits := rfl
@[simp] theorem State.newId_marks (s : State) : (s.newId.2).marks = s.marks := rfl
@[simp] theorem State.newId_plat (s : State) : (s.newId.2).plat = s.plat := rfl

@[simp] theorem State.choice_cycle (s : State) (n : Nat) : ((s.choice n).2).cycle = s.cycle := rfl
@[simp] theorem State.choice_agenda (s : State) (n : Nat) : ((s.choice n).2).agenda = s.agenda := rfl
@[simp] theorem State.choice_fresh (s : State) (n : Nat) : ((s.choice n).2).fresh = s.fresh := rfl
@[simp] theorem State.choice_firing (s : State) (n : Nat) : ((s.choice n).2).firing = s.firing := rfl
@[simp] theorem State.choice_stream (s : State) (n : Nat) : ((s.choice n).2).stream = s.stream := rfl
@[simp] theorem State.choice_elems (s : State) (n : Nat) : ((s.choice n).2).elems = s.elems := rfl
@[simp] theorem State.choice_cores (s : State) (n : Nat) : ((s.choice n).2).cores = s.cores := rfl
@[simp] theorem State.choice_net (s : State) (n : Nat) : ((s.choice n).2).net = s.net := rfl
@[simp] theorem State.choice_ops (s : State) (n : Nat) : ((s.choice n).2).ops = s.ops := rfl
@[simp] theorem State.choice_ctxs (s : State) (n : Nat) : ((s.choice n).2).ctxs = s.ctxs := rfl
@[simp] theorem State.choice_groups (s : State) (n : Nat) : ((s.choice n).2).groups = s.groups := rfl
@[simp] theorem State.choice_binderies (s : State) (n : Nat) : ((s.choice n).2).binderies = s.binderies := rfl
@[simp] theorem State.choice_feeds (s : State) (n : Nat) : ((s.choice n).2).feeds = s.feeds := rfl
@[simp] theorem State.choice_mem (s : State) (n : Nat) : ((s.choice n).2).mem = s.mem := rfl
@[simp] theorem State.choice_pend (s : State) (n : Nat) : ((s.choice n).2).pend = s.pend := rfl
@[simp] theorem State.choice_poison (s : State) (n : Nat) : ((s.choice n).2).poison = s.poison := rfl
@[simp] theorem State.choice_tlb (s : State) (n : Nat) : ((s.choice n).2).tlb = s.tlb := rfl
@[simp] theorem State.choice_bars (s : State) (n : Nat) : ((s.choice n).2).bars = s.bars := rfl
@[simp] theorem State.choice_arrivals (s : State) (n : Nat) : ((s.choice n).2).arrivals = s.arrivals := rfl
@[simp] theorem State.choice_dieqs (s : State) (n : Nat) : ((s.choice n).2).dieqs = s.dieqs := rfl
@[simp] theorem State.choice_counts (s : State) (n : Nat) : ((s.choice n).2).counts = s.counts := rfl
@[simp] theorem State.choice_faults (s : State) (n : Nat) : ((s.choice n).2).faults = s.faults := rfl
@[simp] theorem State.choice_links (s : State) (n : Nat) : ((s.choice n).2).links = s.links := rfl
@[simp] theorem State.choice_slips (s : State) (n : Nat) : ((s.choice n).2).slips = s.slips := rfl
@[simp] theorem State.choice_told (s : State) (n : Nat) : ((s.choice n).2).told = s.told := rfl
@[simp] theorem State.choice_migs (s : State) (n : Nat) : ((s.choice n).2).migs = s.migs := rfl
@[simp] theorem State.choice_commits (s : State) (n : Nat) : ((s.choice n).2).commits = s.commits := rfl
@[simp] theorem State.choice_marks (s : State) (n : Nat) : ((s.choice n).2).marks = s.marks := rfl
@[simp] theorem State.choice_plat (s : State) (n : Nat) : ((s.choice n).2).plat = s.plat := rfl

@[simp] theorem State.modFrame_cycle (s : State) (t : Tag) (f : Frame → Frame) : (s.modFrame t f).cycle = s.cycle := rfl
@[simp] theorem State.modFrame_agenda (s : State) (t : Tag) (f : Frame → Frame) : (s.modFrame t f).agenda = s.agenda := rfl
@[simp] theorem State.modFrame_pick (s : State) (t : Tag) (f : Frame → Frame) : (s.modFrame t f).pick = s.pick := rfl
@[simp] theorem State.modFrame_fresh (s : State) (t : Tag) (f : Frame → Frame) : (s.modFrame t f).fresh = s.fresh := rfl
@[simp] theorem State.modFrame_firing (s : State) (t : Tag) (f : Frame → Frame) : (s.modFrame t f).firing = s.firing := rfl
@[simp] theorem State.modFrame_stream (s : State) (t : Tag) (f : Frame → Frame) : (s.modFrame t f).stream = s.stream := rfl
@[simp] theorem State.modFrame_elems (s : State) (t : Tag) (f : Frame → Frame) : (s.modFrame t f).elems = s.elems := rfl
@[simp] theorem State.modFrame_net (s : State) (t : Tag) (f : Frame → Frame) : (s.modFrame t f).net = s.net := rfl
@[simp] theorem State.modFrame_ops (s : State) (t : Tag) (f : Frame → Frame) : (s.modFrame t f).ops = s.ops := rfl
@[simp] theorem State.modFrame_ctxs (s : State) (t : Tag) (f : Frame → Frame) : (s.modFrame t f).ctxs = s.ctxs := rfl
@[simp] theorem State.modFrame_groups (s : State) (t : Tag) (f : Frame → Frame) : (s.modFrame t f).groups = s.groups := rfl
@[simp] theorem State.modFrame_binderies (s : State) (t : Tag) (f : Frame → Frame) : (s.modFrame t f).binderies = s.binderies := rfl
@[simp] theorem State.modFrame_feeds (s : State) (t : Tag) (f : Frame → Frame) : (s.modFrame t f).feeds = s.feeds := rfl
@[simp] theorem State.modFrame_mem (s : State) (t : Tag) (f : Frame → Frame) : (s.modFrame t f).mem = s.mem := rfl
@[simp] theorem State.modFrame_pend (s : State) (t : Tag) (f : Frame → Frame) : (s.modFrame t f).pend = s.pend := rfl
@[simp] theorem State.modFrame_poison (s : State) (t : Tag) (f : Frame → Frame) : (s.modFrame t f).poison = s.poison := rfl
@[simp] theorem State.modFrame_tlb (s : State) (t : Tag) (f : Frame → Frame) : (s.modFrame t f).tlb = s.tlb := rfl
@[simp] theorem State.modFrame_bars (s : State) (t : Tag) (f : Frame → Frame) : (s.modFrame t f).bars = s.bars := rfl
@[simp] theorem State.modFrame_arrivals (s : State) (t : Tag) (f : Frame → Frame) : (s.modFrame t f).arrivals = s.arrivals := rfl
@[simp] theorem State.modFrame_dieqs (s : State) (t : Tag) (f : Frame → Frame) : (s.modFrame t f).dieqs = s.dieqs := rfl
@[simp] theorem State.modFrame_counts (s : State) (t : Tag) (f : Frame → Frame) : (s.modFrame t f).counts = s.counts := rfl
@[simp] theorem State.modFrame_faults (s : State) (t : Tag) (f : Frame → Frame) : (s.modFrame t f).faults = s.faults := rfl
@[simp] theorem State.modFrame_links (s : State) (t : Tag) (f : Frame → Frame) : (s.modFrame t f).links = s.links := rfl
@[simp] theorem State.modFrame_slips (s : State) (t : Tag) (f : Frame → Frame) : (s.modFrame t f).slips = s.slips := rfl
@[simp] theorem State.modFrame_told (s : State) (t : Tag) (f : Frame → Frame) : (s.modFrame t f).told = s.told := rfl
@[simp] theorem State.modFrame_migs (s : State) (t : Tag) (f : Frame → Frame) : (s.modFrame t f).migs = s.migs := rfl
@[simp] theorem State.modFrame_commits (s : State) (t : Tag) (f : Frame → Frame) : (s.modFrame t f).commits = s.commits := rfl
@[simp] theorem State.modFrame_marks (s : State) (t : Tag) (f : Frame → Frame) : (s.modFrame t f).marks = s.marks := rfl
@[simp] theorem State.modFrame_plat (s : State) (t : Tag) (f : Frame → Frame) : (s.modFrame t f).plat = s.plat := rfl

@[simp] theorem State.violate_cycle (s : State) (c : BitVec 6) (spm : Bool) (va : Nat) : (s.violate c spm va).cycle = s.cycle := rfl
@[simp] theorem State.violate_agenda (s : State) (c : BitVec 6) (spm : Bool) (va : Nat) : (s.violate c spm va).agenda = s.agenda := rfl
@[simp] theorem State.violate_pick (s : State) (c : BitVec 6) (spm : Bool) (va : Nat) : (s.violate c spm va).pick = s.pick := rfl
@[simp] theorem State.violate_fresh (s : State) (c : BitVec 6) (spm : Bool) (va : Nat) : (s.violate c spm va).fresh = s.fresh := rfl
@[simp] theorem State.violate_firing (s : State) (c : BitVec 6) (spm : Bool) (va : Nat) : (s.violate c spm va).firing = s.firing := rfl
@[simp] theorem State.violate_stream (s : State) (c : BitVec 6) (spm : Bool) (va : Nat) : (s.violate c spm va).stream = s.stream := rfl
@[simp] theorem State.violate_elems (s : State) (c : BitVec 6) (spm : Bool) (va : Nat) : (s.violate c spm va).elems = s.elems := rfl
@[simp] theorem State.violate_cores (s : State) (c : BitVec 6) (spm : Bool) (va : Nat) : (s.violate c spm va).cores = s.cores := rfl
@[simp] theorem State.violate_net (s : State) (c : BitVec 6) (spm : Bool) (va : Nat) : (s.violate c spm va).net = s.net := rfl
@[simp] theorem State.violate_ops (s : State) (c : BitVec 6) (spm : Bool) (va : Nat) : (s.violate c spm va).ops = s.ops := rfl
@[simp] theorem State.violate_groups (s : State) (c : BitVec 6) (spm : Bool) (va : Nat) : (s.violate c spm va).groups = s.groups := rfl
@[simp] theorem State.violate_binderies (s : State) (c : BitVec 6) (spm : Bool) (va : Nat) : (s.violate c spm va).binderies = s.binderies := rfl
@[simp] theorem State.violate_feeds (s : State) (c : BitVec 6) (spm : Bool) (va : Nat) : (s.violate c spm va).feeds = s.feeds := rfl
@[simp] theorem State.violate_mem (s : State) (c : BitVec 6) (spm : Bool) (va : Nat) : (s.violate c spm va).mem = s.mem := rfl
@[simp] theorem State.violate_pend (s : State) (c : BitVec 6) (spm : Bool) (va : Nat) : (s.violate c spm va).pend = s.pend := rfl
@[simp] theorem State.violate_poison (s : State) (c : BitVec 6) (spm : Bool) (va : Nat) : (s.violate c spm va).poison = s.poison := rfl
@[simp] theorem State.violate_tlb (s : State) (c : BitVec 6) (spm : Bool) (va : Nat) : (s.violate c spm va).tlb = s.tlb := rfl
@[simp] theorem State.violate_bars (s : State) (c : BitVec 6) (spm : Bool) (va : Nat) : (s.violate c spm va).bars = s.bars := rfl
@[simp] theorem State.violate_arrivals (s : State) (c : BitVec 6) (spm : Bool) (va : Nat) : (s.violate c spm va).arrivals = s.arrivals := rfl
@[simp] theorem State.violate_dieqs (s : State) (c : BitVec 6) (spm : Bool) (va : Nat) : (s.violate c spm va).dieqs = s.dieqs := rfl
@[simp] theorem State.violate_counts (s : State) (c : BitVec 6) (spm : Bool) (va : Nat) : (s.violate c spm va).counts = s.counts := rfl
@[simp] theorem State.violate_faults (s : State) (c : BitVec 6) (spm : Bool) (va : Nat) : (s.violate c spm va).faults = s.faults := rfl
@[simp] theorem State.violate_links (s : State) (c : BitVec 6) (spm : Bool) (va : Nat) : (s.violate c spm va).links = s.links := rfl
@[simp] theorem State.violate_slips (s : State) (c : BitVec 6) (spm : Bool) (va : Nat) : (s.violate c spm va).slips = s.slips := rfl
@[simp] theorem State.violate_told (s : State) (c : BitVec 6) (spm : Bool) (va : Nat) : (s.violate c spm va).told = s.told := rfl
@[simp] theorem State.violate_migs (s : State) (c : BitVec 6) (spm : Bool) (va : Nat) : (s.violate c spm va).migs = s.migs := rfl
@[simp] theorem State.violate_commits (s : State) (c : BitVec 6) (spm : Bool) (va : Nat) : (s.violate c spm va).commits = s.commits := rfl
@[simp] theorem State.violate_marks (s : State) (c : BitVec 6) (spm : Bool) (va : Nat) : (s.violate c spm va).marks = s.marks := rfl
@[simp] theorem State.violate_plat (s : State) (c : BitVec 6) (spm : Bool) (va : Nat) : (s.violate c spm va).plat = s.plat := rfl

@[simp] theorem State.newId_fst (s : State) : s.newId.1 = s.fresh := rfl

@[simp] theorem State.newId_fresh (s : State) : s.newId.2.fresh = s.fresh + 1 := rfl

@[simp] theorem State.choice_pick (s : State) (n : Nat) : (s.choice n).2.pick = s.pick + 1 := rfl

/-! ### Reading the parts back -/

theorem State.elem_setElem (s : State) (n e m k : Nat) (x : Elem) :
    (s.setElem n e x).elem m k = if elemKey m k = elemKey n e then x else s.elem m k := Assoc.get_set _ _ _ _ _

@[simp] theorem State.elem_setElem_same (s : State) (n e : Nat) (x : Elem) : (s.setElem n e x).elem n e = x := by
  simp [State.elem_setElem]

@[simp] theorem State.elem_modElem_same (s : State) (n e : Nat) (f : Elem → Elem) : (s.modElem n e f).elem n e = f (s.elem n e) := by
  simp [State.modElem]

theorem State.elem_modElem_other (s : State) (n e m k : Nat) (f : Elem → Elem) (h : elemKey m k ≠ elemKey n e) :
    (s.modElem n e f).elem m k = s.elem m k := by
  simp [State.modElem, State.elem_setElem, h]

/-- Element addresses below 128 tell the elements of a core apart. -/
theorem elemKey_inj (n e m k : Nat) (he : e < 128) (hk : k < 128) : elemKey n e = elemKey m k ↔ n = m ∧ e = k := by
  unfold elemKey
  omega

@[simp] theorem State.core_modCore_same (s : State) (n : Nat) (f : Core → Core) : (s.modCore n f).core n = f (s.core n) := by
  simp [State.modCore, State.core]

theorem State.core_modCore_other (s : State) (n m : Nat) (f : Core → Core) (h : m ≠ n) : (s.modCore n f).core m = s.core m := by
  simp [State.modCore, State.core, Assoc.get_set, h]

@[simp] theorem State.ctx_modCtx_same (s : State) (c : BitVec 6) (f : Context → Context) : (s.modCtx c f).ctx c = f (s.ctx c) := by
  simp [State.modCtx, State.ctx]

theorem State.ctx_modCtx_other (s : State) (c k : BitVec 6) (f : Context → Context) (h : k ≠ c) :
    (s.modCtx c f).ctx k = s.ctx k := by
  have : k.toNat ≠ c.toNat := fun e => h (BitVec.eq_of_toNat_eq e)
  simp [State.modCtx, State.ctx, Assoc.get_set, this]

@[simp] theorem State.bind_modBind_same (s : State) (b : Nat) (f : Bindery → Bindery) : (s.modBind b f).bind b = f (s.bind b) := by
  simp [State.modBind, State.bind]

theorem State.bind_modBind_other (s : State) (b k : Nat) (f : Bindery → Bindery) (h : k ≠ b) :
    (s.modBind b f).bind k = s.bind k := by
  simp [State.modBind, State.bind, Assoc.get_set, h]

@[simp] theorem State.feed_modFeed_same (s : State) (b n : Nat) (f : Feed → Feed) : (s.modFeed b n f).feed b n = f (s.feed b n) := by
  simp [State.modFeed, State.feed]

@[simp] theorem State.link_modLink_same (s : State) (l : Nat) (f : Link → Link) : (s.modLink l f).link l = f (s.link l) := by
  simp [State.modLink, State.link]

theorem State.link_modLink_other (s : State) (l k : Nat) (f : Link → Link) (h : k ≠ l) : (s.modLink l f).link k = s.link k := by
  simp [State.modLink, State.link, Assoc.get_set, h]

/-! ### A part reads the same after an update of another -/

@[simp] theorem State.core_setElem (s : State) (n e : Nat) (x : Elem) (n' : Nat) : (s.setElem n e x).core n' = s.core n' := rfl
@[simp] theorem State.ctx_setElem (s : State) (n e : Nat) (x : Elem) (c' : BitVec 6) : (s.setElem n e x).ctx c' = s.ctx c' := rfl
@[simp] theorem State.bind_setElem (s : State) (n e : Nat) (x : Elem) (b' : Nat) : (s.setElem n e x).bind b' = s.bind b' := rfl
@[simp] theorem State.link_setElem (s : State) (n e : Nat) (x : Elem) (l' : Nat) : (s.setElem n e x).link l' = s.link l' := rfl
@[simp] theorem State.feed_setElem (s : State) (n e : Nat) (x : Elem) (b' n' : Nat) : (s.setElem n e x).feed b' n' = s.feed b' n' := rfl

@[simp] theorem State.core_modElem (s : State) (n e : Nat) (f : Elem → Elem) (n' : Nat) : (s.modElem n e f).core n' = s.core n' := rfl
@[simp] theorem State.ctx_modElem (s : State) (n e : Nat) (f : Elem → Elem) (c' : BitVec 6) : (s.modElem n e f).ctx c' = s.ctx c' := rfl
@[simp] theorem State.bind_modElem (s : State) (n e : Nat) (f : Elem → Elem) (b' : Nat) : (s.modElem n e f).bind b' = s.bind b' := rfl
@[simp] theorem State.link_modElem (s : State) (n e : Nat) (f : Elem → Elem) (l' : Nat) : (s.modElem n e f).link l' = s.link l' := rfl
@[simp] theorem State.feed_modElem (s : State) (n e : Nat) (f : Elem → Elem) (b' n' : Nat) : (s.modElem n e f).feed b' n' = s.feed b' n' := rfl

@[simp] theorem State.elem_modCore (s : State) (n : Nat) (f : Core → Core) (n' e' : Nat) : (s.modCore n f).elem n' e' = s.elem n' e' := rfl
@[simp] theorem State.ctx_modCore (s : State) (n : Nat) (f : Core → Core) (c' : BitVec 6) : (s.modCore n f).ctx c' = s.ctx c' := rfl
@[simp] theorem State.bind_modCore (s : State) (n : Nat) (f : Core → Core) (b' : Nat) : (s.modCore n f).bind b' = s.bind b' := rfl
@[simp] theorem State.link_modCore (s : State) (n : Nat) (f : Core → Core) (l' : Nat) : (s.modCore n f).link l' = s.link l' := rfl
@[simp] theorem State.feed_modCore (s : State) (n : Nat) (f : Core → Core) (b' n' : Nat) : (s.modCore n f).feed b' n' = s.feed b' n' := rfl

@[simp] theorem State.elem_modCtx (s : State) (c : BitVec 6) (f : Context → Context) (n' e' : Nat) : (s.modCtx c f).elem n' e' = s.elem n' e' := rfl
@[simp] theorem State.core_modCtx (s : State) (c : BitVec 6) (f : Context → Context) (n' : Nat) : (s.modCtx c f).core n' = s.core n' := rfl
@[simp] theorem State.bind_modCtx (s : State) (c : BitVec 6) (f : Context → Context) (b' : Nat) : (s.modCtx c f).bind b' = s.bind b' := rfl
@[simp] theorem State.link_modCtx (s : State) (c : BitVec 6) (f : Context → Context) (l' : Nat) : (s.modCtx c f).link l' = s.link l' := rfl
@[simp] theorem State.feed_modCtx (s : State) (c : BitVec 6) (f : Context → Context) (b' n' : Nat) : (s.modCtx c f).feed b' n' = s.feed b' n' := rfl

@[simp] theorem State.elem_modBind (s : State) (b : Nat) (f : Bindery → Bindery) (n' e' : Nat) : (s.modBind b f).elem n' e' = s.elem n' e' := rfl
@[simp] theorem State.core_modBind (s : State) (b : Nat) (f : Bindery → Bindery) (n' : Nat) : (s.modBind b f).core n' = s.core n' := rfl
@[simp] theorem State.ctx_modBind (s : State) (b : Nat) (f : Bindery → Bindery) (c' : BitVec 6) : (s.modBind b f).ctx c' = s.ctx c' := rfl
@[simp] theorem State.link_modBind (s : State) (b : Nat) (f : Bindery → Bindery) (l' : Nat) : (s.modBind b f).link l' = s.link l' := rfl
@[simp] theorem State.feed_modBind (s : State) (b : Nat) (f : Bindery → Bindery) (b' n' : Nat) : (s.modBind b f).feed b' n' = s.feed b' n' := rfl

@[simp] theorem State.elem_modFeed (s : State) (b n : Nat) (f : Feed → Feed) (n' e' : Nat) : (s.modFeed b n f).elem n' e' = s.elem n' e' := rfl
@[simp] theorem State.core_modFeed (s : State) (b n : Nat) (f : Feed → Feed) (n' : Nat) : (s.modFeed b n f).core n' = s.core n' := rfl
@[simp] theorem State.ctx_modFeed (s : State) (b n : Nat) (f : Feed → Feed) (c' : BitVec 6) : (s.modFeed b n f).ctx c' = s.ctx c' := rfl
@[simp] theorem State.bind_modFeed (s : State) (b n : Nat) (f : Feed → Feed) (b' : Nat) : (s.modFeed b n f).bind b' = s.bind b' := rfl
@[simp] theorem State.link_modFeed (s : State) (b n : Nat) (f : Feed → Feed) (l' : Nat) : (s.modFeed b n f).link l' = s.link l' := rfl

@[simp] theorem State.elem_modLink (s : State) (l : Nat) (f : Link → Link) (n' e' : Nat) : (s.modLink l f).elem n' e' = s.elem n' e' := rfl
@[simp] theorem State.core_modLink (s : State) (l : Nat) (f : Link → Link) (n' : Nat) : (s.modLink l f).core n' = s.core n' := rfl
@[simp] theorem State.ctx_modLink (s : State) (l : Nat) (f : Link → Link) (c' : BitVec 6) : (s.modLink l f).ctx c' = s.ctx c' := rfl
@[simp] theorem State.bind_modLink (s : State) (l : Nat) (f : Link → Link) (b' : Nat) : (s.modLink l f).bind b' = s.bind b' := rfl
@[simp] theorem State.feed_modLink (s : State) (l : Nat) (f : Link → Link) (b' n' : Nat) : (s.modLink l f).feed b' n' = s.feed b' n' := rfl

@[simp] theorem State.elem_modOp (s : State) (id : Nat) (f : Op → Op) (n' e' : Nat) : (s.modOp id f).elem n' e' = s.elem n' e' := rfl
@[simp] theorem State.core_modOp (s : State) (id : Nat) (f : Op → Op) (n' : Nat) : (s.modOp id f).core n' = s.core n' := rfl
@[simp] theorem State.ctx_modOp (s : State) (id : Nat) (f : Op → Op) (c' : BitVec 6) : (s.modOp id f).ctx c' = s.ctx c' := rfl
@[simp] theorem State.bind_modOp (s : State) (id : Nat) (f : Op → Op) (b' : Nat) : (s.modOp id f).bind b' = s.bind b' := rfl
@[simp] theorem State.link_modOp (s : State) (id : Nat) (f : Op → Op) (l' : Nat) : (s.modOp id f).link l' = s.link l' := rfl
@[simp] theorem State.feed_modOp (s : State) (id : Nat) (f : Op → Op) (b' n' : Nat) : (s.modOp id f).feed b' n' = s.feed b' n' := rfl

@[simp] theorem State.elem_dropOp (s : State) (id : Nat) (n' e' : Nat) : (s.dropOp id).elem n' e' = s.elem n' e' := rfl
@[simp] theorem State.core_dropOp (s : State) (id : Nat) (n' : Nat) : (s.dropOp id).core n' = s.core n' := rfl
@[simp] theorem State.ctx_dropOp (s : State) (id : Nat) (c' : BitVec 6) : (s.dropOp id).ctx c' = s.ctx c' := rfl
@[simp] theorem State.bind_dropOp (s : State) (id : Nat) (b' : Nat) : (s.dropOp id).bind b' = s.bind b' := rfl
@[simp] theorem State.link_dropOp (s : State) (id : Nat) (l' : Nat) : (s.dropOp id).link l' = s.link l' := rfl
@[simp] theorem State.feed_dropOp (s : State) (id : Nat) (b' n' : Nat) : (s.dropOp id).feed b' n' = s.feed b' n' := rfl

@[simp] theorem State.elem_putOp (s : State) (o : Op) (n' e' : Nat) : (s.putOp o).elem n' e' = s.elem n' e' := rfl
@[simp] theorem State.core_putOp (s : State) (o : Op) (n' : Nat) : (s.putOp o).core n' = s.core n' := rfl
@[simp] theorem State.ctx_putOp (s : State) (o : Op) (c' : BitVec 6) : (s.putOp o).ctx c' = s.ctx c' := rfl
@[simp] theorem State.bind_putOp (s : State) (o : Op) (b' : Nat) : (s.putOp o).bind b' = s.bind b' := rfl
@[simp] theorem State.link_putOp (s : State) (o : Op) (l' : Nat) : (s.putOp o).link l' = s.link l' := rfl
@[simp] theorem State.feed_putOp (s : State) (o : Op) (b' n' : Nat) : (s.putOp o).feed b' n' = s.feed b' n' := rfl

@[simp] theorem State.elem_modGroup (s : State) (k : Nat) (f : Group → Group) (n' e' : Nat) : (s.modGroup k f).elem n' e' = s.elem n' e' := rfl
@[simp] theorem State.core_modGroup (s : State) (k : Nat) (f : Group → Group) (n' : Nat) : (s.modGroup k f).core n' = s.core n' := rfl
@[simp] theorem State.ctx_modGroup (s : State) (k : Nat) (f : Group → Group) (c' : BitVec 6) : (s.modGroup k f).ctx c' = s.ctx c' := rfl
@[simp] theorem State.bind_modGroup (s : State) (k : Nat) (f : Group → Group) (b' : Nat) : (s.modGroup k f).bind b' = s.bind b' := rfl
@[simp] theorem State.link_modGroup (s : State) (k : Nat) (f : Group → Group) (l' : Nat) : (s.modGroup k f).link l' = s.link l' := rfl
@[simp] theorem State.feed_modGroup (s : State) (k : Nat) (f : Group → Group) (b' n' : Nat) : (s.modGroup k f).feed b' n' = s.feed b' n' := rfl

@[simp] theorem State.elem_newId (s : State) (n' e' : Nat) : (s.newId.2).elem n' e' = s.elem n' e' := rfl
@[simp] theorem State.core_newId (s : State) (n' : Nat) : (s.newId.2).core n' = s.core n' := rfl
@[simp] theorem State.ctx_newId (s : State) (c' : BitVec 6) : (s.newId.2).ctx c' = s.ctx c' := rfl
@[simp] theorem State.bind_newId (s : State) (b' : Nat) : (s.newId.2).bind b' = s.bind b' := rfl
@[simp] theorem State.link_newId (s : State) (l' : Nat) : (s.newId.2).link l' = s.link l' := rfl
@[simp] theorem State.feed_newId (s : State) (b' n' : Nat) : (s.newId.2).feed b' n' = s.feed b' n' := rfl

@[simp] theorem State.elem_choice (s : State) (n : Nat) (n' e' : Nat) : ((s.choice n).2).elem n' e' = s.elem n' e' := rfl
@[simp] theorem State.core_choice (s : State) (n : Nat) (n' : Nat) : ((s.choice n).2).core n' = s.core n' := rfl
@[simp] theorem State.ctx_choice (s : State) (n : Nat) (c' : BitVec 6) : ((s.choice n).2).ctx c' = s.ctx c' := rfl
@[simp] theorem State.bind_choice (s : State) (n : Nat) (b' : Nat) : ((s.choice n).2).bind b' = s.bind b' := rfl
@[simp] theorem State.link_choice (s : State) (n : Nat) (l' : Nat) : ((s.choice n).2).link l' = s.link l' := rfl
@[simp] theorem State.feed_choice (s : State) (n : Nat) (b' n' : Nat) : ((s.choice n).2).feed b' n' = s.feed b' n' := rfl

@[simp] theorem State.elem_modFrame (s : State) (t : Tag) (f : Frame → Frame) (n' e' : Nat) : (s.modFrame t f).elem n' e' = s.elem n' e' := rfl
@[simp] theorem State.ctx_modFrame (s : State) (t : Tag) (f : Frame → Frame) (c' : BitVec 6) : (s.modFrame t f).ctx c' = s.ctx c' := rfl
@[simp] theorem State.bind_modFrame (s : State) (t : Tag) (f : Frame → Frame) (b' : Nat) : (s.modFrame t f).bind b' = s.bind b' := rfl
@[simp] theorem State.link_modFrame (s : State) (t : Tag) (f : Frame → Frame) (l' : Nat) : (s.modFrame t f).link l' = s.link l' := rfl
@[simp] theorem State.feed_modFrame (s : State) (t : Tag) (f : Frame → Frame) (b' n' : Nat) : (s.modFrame t f).feed b' n' = s.feed b' n' := rfl

@[simp] theorem State.elem_violate (s : State) (c : BitVec 6) (spm : Bool) (va : Nat) (n' e' : Nat) : (s.violate c spm va).elem n' e' = s.elem n' e' := rfl
@[simp] theorem State.core_violate (s : State) (c : BitVec 6) (spm : Bool) (va : Nat) (n' : Nat) : (s.violate c spm va).core n' = s.core n' := rfl
@[simp] theorem State.bind_violate (s : State) (c : BitVec 6) (spm : Bool) (va : Nat) (b' : Nat) : (s.violate c spm va).bind b' = s.bind b' := rfl
@[simp] theorem State.link_violate (s : State) (c : BitVec 6) (spm : Bool) (va : Nat) (l' : Nat) : (s.violate c spm va).link l' = s.link l' := rfl
@[simp] theorem State.feed_violate (s : State) (c : BitVec 6) (spm : Bool) (va : Nat) (b' n' : Nat) : (s.violate c spm va).feed b' n' = s.feed b' n' := rfl

end Sys2Proof.Machine
end

