-- ==== Sys2Proof/Laws/Firing.lean ====
section
/-! SUPPORT. What the shared operations of a firing can do: how a node instruction runs on a matched set, what emitting, raising
flags and faulting change and what they leave. -/

namespace Sys2Proof.Machine

/-! ### How a node instruction runs -/

theorem leastBy_nil {α : Type} (lt : α → α → Bool) : leastBy lt ([] : List α) = none := rfl

theorem leastBy_mem {α : Type} (lt : α → α → Bool) : ∀ (l : List α) (a : α), leastBy lt l = some a → a ∈ l
  | [], _, h => by cases h
  | b :: r, a, h => by
    rw [leastBy] at h
    split at h
    · exact Option.some.inj h ▸ List.mem_cons_self
    · rename_i c hc
      split at h
      · exact List.mem_cons_of_mem _ (Option.some.inj h ▸ leastBy_mem lt r c hc)
      · exact Option.some.inj h ▸ List.mem_cons_self

/-- Inputs without error tokens have none to forward. -/
theorem Fire.firstErr_clean (x : Fire) (s : State) (h : ∀ t ∈ x.f.inputs, t.isErr = false) : x.firstErr s = none := by
  unfold Fire.firstErr
  rw [List.filter_eq_nil_iff.2 (fun t ht => by simp [h t ht])]
  rfl

/-- The error token that is forwarded is an input. -/
theorem Fire.firstErr_mem (x : Fire) (s : State) (e : Tok) (h : x.firstErr s = some e) : e ∈ x.f.inputs ∧ e.isErr = true := by
  have := leastBy_mem _ _ _ h
  simpa using this

/-- A node instruction on a loaded and clean set, in a context that may run it, is its body on the consumed state. -/
theorem fire_loaded (o : Nat) (n : Node) (s : State) (f : Firing) (errs : Bool) (body : Fire → State → State) (h : Loaded o n s f) :
    fire o n s errs body = .next (body (s.fireOf o n f) s.consumed) := by
  have hc : (s.fireOf o n f).firstErr s.consumed = none := Fire.firstErr_clean _ _ h.clean
  have hs : ((s.fireOf o n f).needsSup && !(s.fireOf o n f).sup s.consumed) = false := by
    cases hn : (s.fireOf o n f).needsSup
    · rfl
    · simp [Fire.sup, State.consumed, State.fireOf, State.ctx]
      exact h.allowed hn
  simp only [fire, h.set]
  change Host.Outcome.next (match (if errs then none else (s.fireOf o n f).firstErr s.consumed) with
    | some e => (s.fireOf o n f).forward s.consumed e
    | none => if (s.fireOf o n f).needsSup && !(s.fireOf o n f).sup s.consumed then _ else _) = _
  rw [hc, hs]
  cases errs <;> rfl

/-- A node instruction with a rule of its own for error tokens is its body on any set that its context may run. -/
theorem fire_own (o : Nat) (n : Node) (s : State) (f : Firing) (body : Fire → State → State) (hf : s.firing = some f)
    (h : (s.fireOf o n f).needsSup = false) : fire o n s true body = .next (body (s.fireOf o n f) s.consumed) := by
  simp only [fire, hf]
  change Host.Outcome.next (if (s.fireOf o n f).needsSup && _ then _ else body (s.fireOf o n f) s.consumed) = _
  rw [h]
  rfl

/-- An error token among the inputs is forwarded (R110). -/
theorem fire_error (o : Nat) (n : Node) (s : State) (f : Firing) (body : Fire → State → State) (e : Tok) (hf : s.firing = some f)
    (h : (s.fireOf o n f).firstErr s.consumed = some e) :
    fire o n s false body = .next ((s.fireOf o n f).forward s.consumed e) := by
  simp only [fire, hf]
  change Host.Outcome.next (match (s.fireOf o n f).firstErr s.consumed with | some e => _ | none => _) = _
  rw [h]
  rfl

theorem firePure_loaded (o : Nat) (n : Node) (s : State) (f : Firing) (body : Fire → State → List Out × Nat) (h : Loaded o n s f) :
    firePure o n s body = .next ((s.fireOf o n f).finish s.consumed (body (s.fireOf o n f) s.consumed).1 (body (s.fireOf o n f) s.consumed).2) :=
  fire_loaded o n s f false _ h

/-- Without a flag a firing ends with its outputs. -/
@[simp] theorem Fire.finish_zero (x : Fire) (s : State) (os : List Out) (addr : Nat) : x.finish s os 0 addr = x.emitAll s os := by
  have h : classesOf 0 = [] := by decide
  simp [Fire.finish, Fire.ends, State.setFlags, verdict, h]

@[simp] theorem Fire.emitAll_nil (x : Fire) (s : State) : x.emitAll s [] = s := rfl

/-- R7, R36: the tokens that TAGOP makes of an output are put in order, and then the rest is emitted. -/
theorem Fire.emitAll_cons (x : Fire) (s : State) (o : Out) (os : List Out) (ts : List Tok) (h : x.tagged s o = some ts) :
    x.emitAll s (o :: os) = x.emitAll (ts.foldl (fun s t => x.put s o.out t) s) os := by
  rw [Fire.emitAll, h]

/-- R7, R207: an output whose TAGOP finds no instance ends the firing; nothing after it is emitted. -/
theorem Fire.emitAll_fault (x : Fire) (s : State) (o : Out) (os : List Out) (h : x.tagged s o = none) :
    x.emitAll s (o :: os) = x.fault s 0x0006 := by
  rw [Fire.emitAll, h]

/-- A pure instruction without flags emits. -/
theorem firePure_emits (i : Instr) (o : Nat) (n : Node) (s : State) (f : Firing) (body : Fire → State → List Out × Nat) (os : List Out)
    (h : Loaded o n s f) (he : exec i s = firePure o n s body) (hb : body (s.fireOf o n f) s.consumed = (os, 0)) : Emits i o n s f os := by
  rw [Emits, he, firePure_loaded o n s f body h, hb]
  simp

/-- A pure instruction ends with its outputs and flags. -/
theorem firePure_ends (i : Instr) (o : Nat) (n : Node) (s : State) (f : Firing) (body : Fire → State → List Out × Nat) (os : List Out) (fl : Nat)
    (h : Loaded o n s f) (he : exec i s = firePure o n s body) (hb : body (s.fireOf o n f) s.consumed = (os, fl)) : Ends i o n s f os fl := by
  rw [Ends, he, firePure_loaded o n s f body h, hb]

/-! ### What a firing changes when it ends -/

/-- From `s` to `t` only the buffers, counters and cause of the firing's element changed, the flags and the halt of its context, the
numbers given out and the fault tokens. -/
structure Kept (f : Firing) (s t : State) : Prop where
  rest  : t = { s with elems := t.elems, ctxs := t.ctxs, fresh := t.fresh, faults := t.faults }
  elems : ∀ n e, e < 128 → n ≠ f.n ∨ e ≠ f.elem → t.elem n e = s.elem n e
  elem  : ∃ out emitq ctr0 ctr1 cause culprit async, t.elem f.n f.elem =
    { s.elem f.n f.elem with out := out, emitq := emitq, ctr0 := ctr0, ctr1 := ctr1, cause := cause, culprit := culprit, async := async }
  ctxs  : ∀ c, c ≠ f.tag.ctx → t.ctx c = s.ctx c
  ctx   : ∃ fflags jflags state halt byFault image, t.ctx f.tag.ctx =
    { s.ctx f.tag.ctx with csrs := { (s.ctx f.tag.ctx).csrs with fflags := fflags, jflags := jflags },
                           state := state, halt := halt, byFault := byFault, image := image }

theorem Kept.refl (f : Firing) (s : State) : Kept f s s :=
  ⟨rfl, fun _ _ _ _ => rfl, ⟨_, _, _, _, _, _, _, rfl⟩, fun _ _ => rfl, ⟨_, _, _, _, _, _, rfl⟩⟩

theorem Kept.trans {f : Firing} {s t u : State} (h : Kept f s t) (k : Kept f t u) : Kept f s u := by
  obtain ⟨a, b, c, d, e, p, q, he⟩ := h.elem
  obtain ⟨a', b', c', d', e', p', q', he'⟩ := k.elem
  obtain ⟨g, i, j, l, m, o, hc⟩ := h.ctx
  obtain ⟨g', i', j', l', m', o', hc'⟩ := k.ctx
  refine ⟨?_, fun n e x y => (k.elems n e x y).trans (h.elems n e x y), ⟨a', b', c', d', e', p', q', ?_⟩,
    fun c x => (k.ctxs c x).trans (h.ctxs c x), ⟨g', i', j', l', m', o', ?_⟩⟩
  · rw [k.rest, h.rest]
  · rw [he', he]
  · rw [hc', hc]

theorem Kept.foldl {α : Type} {f : Firing} (g : State → α → State) (hg : ∀ s a, Kept f s (g s a)) : ∀ (l : List α) (s : State),
    Kept f s (l.foldl g s)
  | [], s => Kept.refl f s
  | a :: r, s => (hg s a).trans (Kept.foldl g hg r (g s a))

/-- Every observer sees the same bytes. -/
theorem Kept.seen {f : Firing} {s t : State} (h : Kept f s t) (iss : Issuer) (path k len : Nat) :
    t.seen iss path k len = s.seen iss path k len := by rw [h.rest]; rfl

/-- What is kept from the consumed state on is the frame of the firing. -/
theorem Kept.frame {f : Firing} {s t : State} (h : Kept f s.consumed t) : FiringFrame f s t :=
  ⟨h.rest, h.seen, h.elems, h.elem, h.ctxs, h.ctx⟩

/-- A change of buffers, counters and cause at the firing's element. -/
theorem Kept.ofElem {f : Firing} (s : State) (g : Elem → Elem) (hf : f.elem < 128)
    (hg : ∀ e, ∃ out emitq ctr0 ctr1 cause culprit async,
      g e = { e with out := out, emitq := emitq, ctr0 := ctr0, ctr1 := ctr1, cause := cause, culprit := culprit, async := async }) :
    Kept f s (s.modElem f.n f.elem g) := by
  refine ⟨rfl, fun n e he hn => ?_, ?_, fun _ _ => rfl, ⟨_, _, _, _, _, _, rfl⟩⟩
  · refine State.elem_modElem_other s f.n f.elem n e g fun hk => ?_
    have := (elemKey_inj n e f.n f.elem he hf).1 hk
    rcases hn with h | h
    · exact h this.1
    · exact h this.2
  · rw [State.elem_modElem_same]
    exact hg _

/-- A change of flags and halt of the firing's context. -/
theorem Kept.ofCtx {f : Firing} (s : State) (g : Context → Context)
    (hg : ∀ c, ∃ fflags jflags state halt byFault image, g c =
      { c with csrs := { c.csrs with fflags := fflags, jflags := jflags }, state := state, halt := halt, byFault := byFault, image := image }) :
    Kept f s (s.modCtx f.tag.ctx g) := by
  refine ⟨rfl, fun _ _ _ _ => rfl, ⟨_, _, _, _, _, _, _, rfl⟩, fun c hc => State.ctx_modCtx_other s f.tag.ctx c g hc, ?_⟩
  rw [State.ctx_modCtx_same]
  exact hg _

theorem Kept.ofFresh {f : Firing} (s : State) (k : Nat) : Kept f s { s with fresh := k } :=
  ⟨rfl, fun _ _ _ _ => rfl, ⟨_, _, _, _, _, _, _, rfl⟩, fun _ _ => rfl, ⟨_, _, _, _, _, _, rfl⟩⟩

theorem Kept.ofFaults {f : Firing} (s : State) (l : List FaultTok) : Kept f s { s with faults := l } :=
  ⟨rfl, fun _ _ _ _ => rfl, ⟨_, _, _, _, _, _, _, rfl⟩, fun _ _ => rfl, ⟨_, _, _, _, _, _, rfl⟩⟩

/-- R55, R178: raising flags changes FFLAGS and JFLAGS alone. -/
theorem State.setFlags_kept (f : Firing) (s : State) (cap : Capture) (jet : Bool) (fl : Nat) : Kept f s (s.setFlags f.tag.ctx cap jet fl) := by
  unfold State.setFlags
  split
  · exact Kept.refl f s
  · exact Kept.ofCtx s _ fun c => ⟨_, _, c.state, c.halt, c.byFault, c.image, rfl⟩

theorem flushEmits_elem (k : Bool) : ∀ (l : List OutEntry) (b : Bool) (e : Elem),
    (flushEmits k l b e).2 = { e with out := (flushEmits k l b e).2.out }
  | [], _, e => rfl
  | o :: r, b, e => by
    rw [flushEmits]
    dsimp only
    split
    · exact flushEmits_elem k r b { e with out := e.out ++ [o] }
    · exact flushEmits_elem k r _ e

/-- R109: moving waiting Emits changes the two buffers alone. -/
theorem Elem.flush_eq (e : Elem) (k : Bool) : e.flush k = { e with out := (e.flush k).out, emitq := (e.flush k).emitq } := by
  have h := flushEmits_elem k e.emitq false { e with emitq := [] }
  unfold Elem.flush
  dsimp only
  rw [h]

/-- R7: an Emit changes the buffers of its element. -/
theorem State.emitTo_kept (f : Firing) (s : State) (slot : Nat) (t : Tok) (ds : List (Nat × Nat × Nat)) (hf : f.elem < 128) :
    Kept f s (s.emitTo f.n f.elem slot t ds) := by
  unfold State.emitTo
  split
  · exact Kept.refl f s
  · refine (Kept.ofFresh s _).trans (Kept.ofElem _ _ hf fun e => ?_)
    split
    · exact ⟨_, e.emitq, e.ctr0, e.ctr1, e.cause, e.culprit, e.async, rfl⟩
    · exact ⟨e.out, _, e.ctr0, e.ctr1, e.cause, e.culprit, e.async, rfl⟩

/-- R443: counting changes the counters of its element. -/
theorem State.count_kept (f : Firing) (s : State) (c : BitVec 6) (code k : Nat) (hf : f.elem < 128) : Kept f s (s.count c f.n f.elem code k) := by
  unfold State.count
  split
  · exact Kept.refl f s
  · exact Kept.ofElem s _ hf fun e => ⟨e.out, e.emitq, _, _, e.cause, e.culprit, e.async, rfl⟩

/-- R350: the FAULT event changes the halt of its context. -/
theorem State.faultEvent_kept (f : Firing) (s : State) : Kept f s (s.faultEvent f.tag.ctx) :=
  Kept.ofCtx s _ fun c => by
    dsimp only
    split
    · exact ⟨c.csrs.fflags, c.csrs.jflags, _, _, _, c.image, rfl⟩
    · exact ⟨c.csrs.fflags, c.csrs.jflags, c.state, c.halt, c.byFault, _, rfl⟩
    · exact ⟨c.csrs.fflags, c.csrs.jflags, c.state, c.halt, c.byFault, c.image, rfl⟩

theorem coreNum_of (n : Nat) (h : n < 160) : coreNum (BitVec.ofNat 4 (dieOf n)).toNat (BitVec.ofNat 5 (coreIn n)).toNat = n := by
  simp only [coreNum, dieOf, coreIn, BitVec.toNat_ofNat]
  omega

/-- R355: a halting fault of a firing adds one fault token, notes its cause and halts its context. -/
theorem Fire.fault_kept (x : Fire) (s : State) (cause addr : Nat) (async : Bool) (code book fl : Nat) (hp : x.f.placed) :
    Kept x.f s (x.fault s cause addr async code book fl) := by
  unfold Fire.fault State.raise
  dsimp only [State.newId]
  refine Kept.trans ?_ (State.faultEvent_kept x.f _)
  refine Kept.trans ?_ (Kept.ofFaults _ _)
  simp only [if_true]
  have hn : coreNum (faultRec s x.f (im x.n) book cause addr async code).die.toNat (faultRec s x.f (im x.n) book cause addr async code).core.toNat = x.f.n :=
    coreNum_of x.f.n hp.1
  have he : (faultRec s x.f (im x.n) book cause addr async code).elem.toNat = x.f.elem := by
    have := hp.2
    simp only [faultRec, BitVec.toNat_ofNat]
    omega
  rw [hn, he]
  have := hp.2
  refine (Kept.ofFresh s _).trans (Kept.ofElem _ _ (by omega) fun e => ?_)
  split
  · exact ⟨e.out, e.emitq, e.ctr0, e.ctr1, _, _, _, rfl⟩
  · exact ⟨e.out, e.emitq, e.ctr0, e.ctr1, e.cause, e.culprit, e.async, rfl⟩

theorem Fire.put_kept (x : Fire) (s : State) (out : Nat) (t : Tok) (hf : x.f.elem < 128) : Kept x.f s (x.put s out t) := by
  unfold Fire.put
  extract_lets u ds s'
  split
  · exact (State.emitTo_kept x.f s _ _ _ hf).trans (State.count_kept x.f _ _ _ _ hf)
  · exact State.emitTo_kept x.f s _ _ _ hf

/-- R7, R36: emitting outputs keeps all but what a firing's end may change, a TAGOP that faults included. -/
theorem Fire.emitAll_kept (x : Fire) (hp : x.f.placed) : ∀ (os : List Out) (s : State), Kept x.f s (x.emitAll s os)
  | [], s => Kept.refl x.f s
  | o :: os, s => by
    have := hp.2
    cases h : x.tagged s o with
    | none => rw [x.emitAll_fault s o os h]; exact x.fault_kept s _ _ _ _ _ _ hp
    | some ts =>
      rw [x.emitAll_cons s o os ts h]
      exact (Kept.foldl _ (fun s t => x.put_kept s o.out t (by omega)) ts s).trans (Fire.emitAll_kept x hp os _)

/-- R88: the end of a firing. -/
theorem Fire.finish_kept (x : Fire) (s : State) (os : List Out) (fl addr : Nat) (hp : x.f.placed) : Kept x.f s (x.finish s os fl addr) := by
  unfold Fire.finish Fire.ends
  refine Kept.trans (State.setFlags_kept x.f s x.cap (x.n.lane == .jet) fl) ?_
  split
  · exact x.fault_kept _ _ _ _ _ _ _ hp
  · exact x.emitAll_kept hp _ _
  · exact x.emitAll_kept hp _ _

theorem Fire.fail_kept (x : Fire) (s : State) (cls addr : Nat) (hp : x.f.placed) : Kept x.f s (x.fail s cls addr) := by
  unfold Fire.fail Fire.failEnds
  refine Kept.trans (State.setFlags_kept x.f s x.cap (x.n.lane == .jet) (flag cls 0)) ?_
  split
  · exact x.fault_kept _ _ _ _ _ _ _ hp
  · exact x.emitAll_kept hp _ _

theorem Fire.forward_kept (x : Fire) (s : State) (e : Tok) (hp : x.f.placed) : Kept x.f s (x.forward s e) :=
  x.emitAll_kept hp _ _

/-- Whatever the set, an instruction whose body keeps all but what a firing's end may change has the frame of a firing. -/
theorem fire_frame (o : Nat) (n : Node) (s t : State) (f : Firing) (errs : Bool) (body : Fire → State → State) (hf : s.firing = some f)
    (hp : f.placed) (hb : Kept f s.consumed (body (s.fireOf o n f) s.consumed)) (h : fire o n s errs body = .next t) : FiringFrame f s t := by
  refine Kept.frame ?_
  simp only [fire, hf] at h
  cases h
  change Kept f s.consumed (match (if errs then none else (s.fireOf o n f).firstErr s.consumed) with
    | some e => (s.fireOf o n f).forward s.consumed e
    | none => if (s.fireOf o n f).needsSup && !(s.fireOf o n f).sup s.consumed then (s.fireOf o n f).fail s.consumed clsPROT
      else body (s.fireOf o n f) s.consumed)
  split
  · exact Fire.forward_kept (s.fireOf o n f) s.consumed _ hp
  · split
    · exact Fire.fail_kept (s.fireOf o n f) s.consumed _ _ hp
    · exact hb

/-- A pure instruction has the frame of a firing. -/
theorem firePure_frame (o : Nat) (n : Node) (s t : State) (f : Firing) (body : Fire → State → List Out × Nat) (hf : s.firing = some f)
    (hp : f.placed) (h : firePure o n s body = .next t) : FiringFrame f s t :=
  fire_frame o n s t f false (fun x s => x.finish s (body x s).1 (body x s).2) hf hp
    (Fire.finish_kept (s.fireOf o n f) s.consumed _ _ _ hp) h

/-! ### Instructions that move their operands -/

/-- Off the jet lanes nothing is capped (R169). -/
theorem Fire.capped_plain (x : Fire) (h : x.n.lane ≠ .jet) : x.capped = x := by
  have hb : (x.n.lane == .jet) = false := by simpa using h
  simp [Fire.capped, hb]

/-- Off the jet lanes no jet clashes with K (R170). -/
theorem Fire.jetClash_plain (x : Fire) (h : x.n.lane ≠ .jet) : x.jetClash = false := by
  have hb : (x.n.lane == .jet) = false := by simpa using h
  simp [Fire.jetClash, hb]

/-- A firing whose jets all have orders up to K is its capped self. -/
theorem Fire.capped_low (x : Fire) (h : ∀ t ∈ x.f.inputs, t.jet.toNat ≤ x.capK) : x.capped = x := by
  have : (x.f.inputs.map fun t => if x.n.lane == .jet && x.dataPorts.contains t.port.toNat then t.upTo x.capK else t) = x.f.inputs := by
    refine (List.map_congr_left fun t ht => ?_).trans (List.map_id _)
    split
    · simp [Tok.upTo, h t ht]
    · rfl
  unfold Fire.capped
  rw [this]

/-- R8: the exceptions of a firing are kept with the operation that it goes on as, or raised at once, or not yet raised where it
waits in its slot. -/
theorem State.owes_cases (s t : State) (f : Firing) (cap : Capture) (jet : Bool) (fl : Nat) :
    (∃ o, t.ops.getLast? = some o ∧ s.owes t f cap jet fl = { t with ops := t.ops.dropLast ++ [{ o with excs := o.excs ||| fl }] }) ∨
      s.owes t f cap jet fl = t ∨ s.owes t f cap jet fl = t.setFlags f.tag.ctx cap jet fl := by
  unfold State.owes
  split
  · rename_i o h
    split at h
    · exact .inl ⟨o, h, rfl⟩
    · cases h
  · split
    · exact .inr (.inl rfl)
    · exact .inr (.inr rfl)

/-- R8: where a firing's effect issues no operation and it does not wait in its slot, its exceptions are raised at once. -/
theorem State.owes_done (s t : State) (f : Firing) (cap : Capture) (jet : Bool) (fl : Nat) (h : t.ops.length ≤ s.ops.length)
    (hr : ∀ g ∈ (t.elem f.n f.elem).ready, g.id ≠ f.id) : s.owes t f cap jet fl = t.setFlags f.tag.ctx cap jet fl := by
  have hn : ((t.elem f.n f.elem).ready.any (·.id == f.id)) = false := by simpa using hr
  simp [State.owes, Nat.not_lt.mpr h, hn]

/-- R170: what a mover does beside its body is to raise flags, or to end with the outcome of FMT. -/
theorem Fire.moved_cases (x : Fire) (s : State) (body : Fire → State → State) :
    x.moved s body = body x.capped s ∨ x.moved s body = x.finish s [] x.jetFlag ∨
      x.moved s body = s.owes (body x.capped s) x.f x.cap true x.jetFlag := by
  unfold Fire.moved
  split
  · split
    · exact .inr (.inr rfl)
    · exact .inr (.inl rfl)
  · exact .inl rfl

/-- Off the jet lanes a mover raises no FMT. -/
theorem Fire.jetFlag_plain (x : Fire) (h : x.n.lane ≠ .jet) : x.jetFlag = 0 := by
  simp [Fire.jetFlag, x.jetClash_plain h]

/-- Off the jet lanes a mover leaves what its body does. -/
theorem State.movedTo_plain (s t : State) (o : Nat) (n : Node) (f : Firing) (h : n.lane ≠ .jet) : s.movedTo o n f t = t := by
  simp [State.movedTo, Fire.jetFlag_plain (s.fireOf o n f) (by simpa [State.fireOf] using h)]

/-- Off the jet lanes an instruction that moves data goes on. -/
theorem Moves.plain (o : Nat) (n : Node) (s : State) (f : Firing) (h : n.lane ≠ .jet) : Moves o n s f := by
  simp [Moves, Fire.jetFlag_plain (s.fireOf o n f) (by simpa [State.fireOf] using h), verdict, show classesOf 0 = [] from by decide]

/-- Nothing that waits is certified: an operation stays as it is. -/
theorem State.settleOp_waits (s : State) (o : Op) (h : ∀ p ∈ o.outs, s.certified o p = false) : s.settleOp o = s := by
  have : o.outs.filter (s.certified o) = [] := by simpa using h
  simp [State.settleOp, this]

/-- Off the jet lanes a mover is its body. -/
theorem Fire.moved_plain (x : Fire) (s : State) (body : Fire → State → State) (h : x.n.lane ≠ .jet) : x.moved s body = body x s := by
  simp [Fire.moved, x.jetClash_plain h, x.capped_plain h]

/-- A pure mover has the frame of a firing. -/
theorem moveData_frame (o : Nat) (n : Node) (s t : State) (f : Firing) (body : Fire → State → List Out × Nat) (hf : s.firing = some f)
    (hp : f.placed) (h : moveData o n s body = .next t) : FiringFrame f s t :=
  fire_frame o n s t f false (fun x s => x.finish s (body x.capped s).1 ((body x.capped s).2 ||| x.jetFlag)) hf hp
    (Fire.finish_kept (s.fireOf o n f) s.consumed _ _ _ hp) h

/-- On any lane, a pure mover on a loaded set ends with what its body gives on the capped set. -/
theorem moveData_loaded (o : Nat) (n : Node) (s : State) (f : Firing) (body : Fire → State → List Out × Nat) (h : Loaded o n s f) :
    moveData o n s body = .next (let x := s.fireOf o n f; let r := body x.capped s.consumed; x.finish s.consumed r.1 (r.2 ||| x.jetFlag)) :=
  fire_loaded o n s f false _ h

end Sys2Proof.Machine
end

