-- ==== Sys2Proof/Laws/Memory.lean ====
section
/-! SUPPORT. Memory: every operation on the cells keeps the canonical form, and a read after a write. -/

namespace Sys2Proof.Machine

theorem Memory.write_wf : ∀ (data : List Byte) (m : List Host.Cell) (a : Nat), Memory.wf m = true →
    Memory.wf (Memory.write m a data) = true
  | [], _, _, h => h
  | b :: r, m, a, h => Memory.write_wf r _ (a + 1) (Assoc.set_wf m a b h)

/-- A byte after a write of bytes from an address on: the written byte inside, the old one elsewhere. -/
theorem Memory.get_write : ∀ (data : List Byte) (m : List Host.Cell) (a k : Nat),
    Assoc.get unlisted (Memory.write m a data) k =
      if a ≤ k ∧ k < a + data.length then data.getD (k - a) unlisted else Assoc.get unlisted m k
  | [], m, a, k => by
    have : ¬(a ≤ k ∧ k < a) := by omega
    simp [Memory.write, this]
  | b :: r, m, a, k => by
    have ih := Memory.get_write r (Assoc.set unlisted m a b) (a + 1) k
    rw [Memory.write, ih, Assoc.get_set]
    by_cases hk : k = a
    · subst hk
      have h1 : ¬(k + 1 ≤ k ∧ k < k + 1 + r.length) := by omega
      rw [if_neg h1, if_pos rfl, if_pos ⟨Nat.le_refl _, by simp⟩]
      simp
    · by_cases hin : a + 1 ≤ k ∧ k < a + 1 + r.length
      · have h1 : a ≤ k ∧ k < a + (b :: r).length := by simp; omega
        have h2 : k - a = (k - (a + 1)) + 1 := by omega
        rw [if_pos hin, if_pos h1, h2]
        simp
      · have h1 : ¬(a ≤ k ∧ k < a + (b :: r).length) := by simp; omega
        rw [if_neg hin, if_neg h1, if_neg hk]

/-- A read of the bytes just written. -/
theorem Memory.read_write (m : List Host.Cell) (a : Nat) (data : List Byte) :
    Memory.read (Memory.write m a data) a data.length = data := by
  apply List.ext_getElem
  · simp [Memory.read]
  · intro i h1 h2
    have hi : i < data.length := h2
    simp [Memory.read, Memory.get_write data m a _, hi]

/-- Bytes outside a write keep what they hold. -/
theorem Memory.get_write_other (m : List Host.Cell) (a k : Nat) (data : List Byte)
    (ho : k < a ∨ a + data.length ≤ k) : Assoc.get unlisted (Memory.write m a data) k = Assoc.get unlisted m k := by
  rw [Memory.get_write data m a k, if_neg (by omega)]

/-- Retiring writes into memory keeps its canonical form. -/
theorem retire_wf : ∀ (ws kept : List Write) (m : List Host.Cell), Memory.wf m = true →
    Memory.wf (Machine.retire ws kept m).2 = true
  | [], _, _, h => h
  | w :: r, kept, m, h => by
    unfold Machine.retire
    split
    · exact retire_wf r kept _ (Memory.write_wf _ _ _ h)
    · exact retire_wf r (w :: kept) m h

theorem State.retire_mem_wf (s : State) (h : Memory.wf s.mem = true) : Memory.wf s.retire.mem = true :=
  retire_wf s.pend [] s.mem h

theorem State.advance_mem_wf (s : State) (id path level : Nat) (h : Memory.wf s.mem = true) :
    Memory.wf (s.advance id path level).mem = true :=
  retire_wf _ [] s.mem h

/-- Clearing a range keeps the canonical form. -/
theorem State.clearRange_mem_wf (s : State) (k len : Nat) (h : Memory.wf s.mem = true) :
    Memory.wf (s.clearRange k len).mem = true :=
  Assoc.filter_wf _ s.mem h

/-- Writing the boot status word keeps the canonical form. -/
theorem State.bootWord_mem_wf (s : State) (w : Nat) (h : Memory.wf s.mem = true) : Memory.wf (s.bootWord w).mem = true :=
  Memory.write_wf _ s.mem _ h

/-- Two memories in canonical form that read alike are equal. -/
theorem Memory.ext (m m' : List Host.Cell) (h : Memory.wf m = true) (h' : Memory.wf m' = true)
    (he : ∀ k, Assoc.get unlisted m k = Assoc.get unlisted m' k) : m = m' :=
  Assoc.ext_wf m m' h h' he

theorem reset_mem_wf : Memory.wf State.reset.mem = true := rfl

end Sys2Proof.Machine
end

