-- ==== Sys2Proof/Laws/Payload.lean ====
section
/-! SUPPORT. Payload bytes: what numbers written little-endian read back as, and the tokens that the shared maps build. -/

namespace Sys2Proof.Machine

@[simp] theorem leBytes_length : ∀ (w x : Nat), (leBytes w x).length = w
  | 0, _ => rfl
  | w + 1, x => by simp [leBytes, leBytes_length w]

/-- A number written in `w` bytes reads back modulo 2^8w. -/
theorem leNat_leBytes : ∀ (w x : Nat), leNat (leBytes w x) = x % 2 ^ (8 * w)
  | 0, x => by simp [leBytes, leNat, Nat.mod_one]
  | w + 1, x => by
    have h : 2 ^ (8 * (w + 1)) = 256 * 2 ^ (8 * w) := by
      rw [show 8 * (w + 1) = 8 * w + 8 by omega, Nat.pow_add]; omega
    rw [leBytes, leNat, leNat_leBytes w, h, Nat.mod_mul, BitVec.toNat_ofNat, Nat.shiftRight_eq_div_pow]

@[simp] theorem elems_length (w : Nat) : ∀ xs : List Nat, (elems w xs).length = xs.length * w
  | [] => by simp [elems]
  | x :: r => by
    have ih := elems_length w r
    simp only [elems, List.flatMap_cons, List.length_append, leBytes_length, List.length_cons] at ih ⊢
    rw [ih, Nat.succ_mul, Nat.add_comm]

theorem elems_cons (w x : Nat) (r : List Nat) : elems w (x :: r) = leBytes w x ++ elems w r := by
  simp [elems]

theorem drop_front {α : Type} (a b : List α) (n : Nat) (h : a.length = n) : (a ++ b).drop n = b := by
  subst h; simp

theorem sum_const {α : Type} (m : Nat) : ∀ l : List α, (l.map fun _ => m).sum = l.length * m
  | [] => by simp
  | a :: r => by simp [sum_const m r, Nat.succ_mul, Nat.add_comm]

/-- Element `k` of elements written one after the other. -/
theorem elems_at (w : Nat) : ∀ (xs : List Nat) (rest : List Byte) (k : Nat), k < xs.length →
    (((elems w xs ++ rest).drop (k * w)).take w) = leBytes w (xs.getD k 0)
  | [], _, _, h => absurd h (Nat.not_lt_zero _)
  | x :: r, rest, 0, _ => by
    simp [elems_cons, List.append_assoc]
  | x :: r, rest, k + 1, h => by
    have h' : k < r.length := by simpa using h
    have ih := elems_at w r rest k h'
    rw [elems_cons, List.append_assoc, Nat.succ_mul, Nat.add_comm, ← List.drop_drop, drop_front _ _ w (by simp), ih]
    simp

theorem leNat_elems_at (w : Nat) (xs : List Nat) (rest : List Byte) (k : Nat) (h : k < xs.length) :
    leNat (((elems w xs ++ rest).drop (k * w)).take w) = xs.getD k 0 % 2 ^ (8 * w) := by
  rw [elems_at w xs rest k h, leNat_leBytes]

/-- The length of the planes of elements. -/
theorem planes_length (w k : Nat) (es : List (List Nat)) : (planes w k es).length = (k + 1) * (es.length * w) := by
  unfold planes
  rw [List.length_flatMap]
  simp [sum_const]

/-- A plane that stands behind earlier planes of one length. -/
theorem flatMap_drop {α : Type} (f : Nat → List α) (m : Nat) (hf : ∀ j, (f j).length = m) : ∀ (n i : Nat), i < n →
    (((List.range n).flatMap f).drop (i * m)) = f i ++ ((List.range (n - i - 1)).flatMap fun j => f (i + 1 + j))
  | 0, _, h => absurd h (Nat.not_lt_zero _)
  | n + 1, 0, _ => by
    simp only [Nat.zero_mul, List.drop_zero, List.range_succ_eq_map, List.flatMap_cons, List.flatMap_map, Nat.sub_zero,
      Nat.add_sub_cancel]
    congr 1
    simp [Nat.add_comm]
  | n + 1, i + 1, h => by
    have ih := flatMap_drop (fun j => f (j + 1)) m (fun j => hf _) n i (by omega)
    rw [List.range_succ_eq_map, List.flatMap_cons, List.flatMap_map, Nat.succ_mul, Nat.add_comm (i * m) m, ← List.drop_drop,
      drop_front _ _ m (hf 0)]
    have e : (fun a => f a.succ) = fun j => f (j + 1) := rfl
    rw [e, ih, show n + 1 - (i + 1) - 1 = n - i - 1 by omega]
    congr 1
    congr 1
    funext j
    congr 1
    omega

/-- Coefficient `j` of element `e` of planes. -/
theorem planes_at (w k : Nat) (es : List (List Nat)) (j e : Nat) (hj : j ≤ k) (he : e < es.length) :
    leNat (((planes w k es).drop ((j * es.length + e) * w)).take w) = (es.getD e []).getD j 0 % 2 ^ (8 * w) := by
  unfold planes
  rw [Nat.add_mul, ← List.drop_drop, Nat.mul_assoc,
    flatMap_drop (fun j => elems w (es.map (·.getD j 0))) (es.length * w) (by intro j; simp) (k + 1) j (by omega),
    leNat_elems_at w _ _ e (by simpa using he)]
  congr 1
  simp [List.getD_eq_getElem?_getD, he]

theorem bit3_toNat (k : Nat) (h : k ≤ 7) : (BitVec.ofNat 3 k).toNat = k := by
  rw [BitVec.toNat_ofNat]; omega

theorem runLen (len : Nat) (h : 1 ≤ len ∧ len ≤ 32) : (BitVec.ofNat 5 (len - 1)).toNat + 1 = len := by
  rw [BitVec.toNat_ofNat]; omega

/-- The token of the shared builder. -/
theorem Fire.tok_shape (x : Fire) (fmt : Fmt) (w len j : Nat) (data : List Byte) (hl : 1 ≤ len ∧ len ≤ 32) (hj : j ≤ 7)
    (ho : x.opc ≠ 0x014) (hd : data.length = (j + 1) * len * w) : Shape x.f (x.tok fmt len j data) fmt w len (j + 1) where
  tagIs := rfl
  fmtIs := rfl
  lenIs := runLen len hl
  jetIs := by simp [Fire.tok, bit3_toNat j hj]
  eosIs := by simp [Fire.tok, Fire.eos, ho]
  portIs := rfl
  sizeIs := hd

/-- Plain elements written with the shared builder. -/
theorem Fire.tok_elements (x : Fire) (fmt : Fmt) (w len : Nat) (xs : List Nat) (hl : 1 ≤ len ∧ len ≤ 32) (hx : xs.length = len)
    (ho : x.opc ≠ 0x014) : Elements x.f (x.tok fmt len 0 (elems w xs)) fmt w len (fun k => xs.getD k 0) where
  toShape := x.tok_shape fmt w len 0 _ hl (by omega) ho (by simp [hx])
  elem k hk := by
    have := leNat_elems_at w xs [] k (by omega)
    simpa [payloadElem, Fire.tok] using this

/-- The shared map of plain elements: its one output and its exceptions. -/
theorem Fire.plainMap_eq (x : Fire) (fmt : Fmt) (w extra : Nat) (rule : Nat → Nat × Nat) :
    x.plainMap fmt w extra rule = (one 0 (x.tok fmt x.f.len 0 (elems w ((List.range x.f.len).map fun k => (rule k).1))),
      (List.range x.f.len).foldl (fun a k => a ||| (rule k).2) extra) := by
  simp [Fire.plainMap, one, List.foldl_map, Function.comp_def]

theorem getD_map_range {α : Type} (f : Nat → α) (n k : Nat) (d : α) (h : k < n) : ((List.range n).map f).getD k d = f k := by
  simp [List.getD_eq_getElem?_getD, h]

theorem Fire.plainMap_elements (x : Fire) (fmt : Fmt) (w : Nat) (rule : Nat → Nat) (hl : 1 ≤ x.f.len ∧ x.f.len ≤ 32)
    (ho : x.opc ≠ 0x014) : Elements x.f (x.tok fmt x.f.len 0 (elems w ((List.range x.f.len).map rule))) fmt w x.f.len rule :=
  let h := x.tok_elements fmt w x.f.len ((List.range x.f.len).map rule) hl (by simp) ho
  { h with elem := fun k hk => by rw [h.elem k hk, getD_map_range rule _ k 0 hk] }

/-- The token of jets with the shared builder. -/
theorem Fire.jetTok_jets (x : Fire) (k : Nat) (es : List (List Nat)) (hl : 1 ≤ x.f.len ∧ x.f.len ≤ 32) (hk : k ≤ 7)
    (he : es.length = x.f.len) (ho : x.opc ≠ 0x014) : Jets x.f (x.jetTok k es) x.n.fmt k (fun e j => (es.getD e []).getD j 0) where
  toShape := by
    have := x.tok_shape x.n.fmt x.n.fmt.size es.length k (planes x.n.fmt.size k es) (by omega) hk ho
      (by rw [planes_length, Nat.mul_assoc])
    rw [he] at this
    simpa [Fire.jetTok, he] using this
  coef e j hh hj := by
    have := planes_at x.n.fmt.size k es j e hj (by omega)
    rw [he] at this
    simpa [payloadElem, Fire.jetTok, Fire.tok] using this

theorem foldl_min_le : ∀ (l : List Nat) (a : Nat), l.foldl min a ≤ a
  | [], _ => Nat.le_refl _
  | b :: r, a => Nat.le_trans (foldl_min_le r (min a b)) (Nat.min_le_left _ _)

theorem Fire.order_le (x : Fire) (ps : List Nat) : x.order? ps ≤ 7 := by
  unfold Fire.order?
  have h : x.capK ≤ 7 := by unfold Fire.capK; omega
  dsimp only
  split
  · omega
  · exact Nat.le_trans (Nat.min_le_right _ _) h

/-- The shared map of jets: its one output and its exceptions. -/
theorem Fire.jetMap_eq (x : Fire) (ps : List Nat) (rule : Ser → Nat → Nat → Coefs) :
    x.jetMap ps rule =
      (one 0 (x.jetTok (x.order? ps) ((List.range x.f.len).map fun e => (rule (x.ser e) (x.order? ps) e).1)),
       (List.range x.f.len).foldl (fun a e => a ||| (rule (x.ser e) (x.order? ps) e).2) (x.jetOff ps)) := by
  simp [Fire.jetMap, one, List.foldl_map, Function.comp_def]

theorem Fire.jetMap_jets (x : Fire) (ps : List Nat) (rule : Nat → List Nat) (hl : 1 ≤ x.f.len ∧ x.f.len ≤ 32)
    (ho : x.opc ≠ 0x014) : Jets x.f (x.jetTok (x.order? ps) ((List.range x.f.len).map rule)) x.n.fmt (x.order? ps) (fun e j => (rule e).getD j 0) :=
  let h := x.jetTok_jets (x.order? ps) ((List.range x.f.len).map rule) hl (x.order_le ps) (by simp) ho
  { h with coef := fun e j he hj => by rw [h.coef e j he hj, getD_map_range rule _ e [] he] }

end Sys2Proof.Machine
end

