-- ==== Sys2Proof/Machine/Lexer.lean ====
section
/-! DEFINITION. The characters, names and numbers of a pwasm listing (R58, R59), and the patterns that numbers stand for (R39, R62). -/

namespace Sys2Proof.Machine

/-- The diagnostics of R67. -/
inductive AsmCode where
  | a01 | a02 | a03 | a04 | a05 | a06 | a07 | a08 | a09 | a10 | a11 | a12 | a13 | a14 | a15
  deriving DecidableEq, Repr

/-! ### Characters and words -/

/-- Characters that only separate. The spec does not list them; the model takes space, tab and carriage return, so that a line
may end in CR LF (DESIGN CHOICE, log 57). -/
def isBlank (c : Char) : Bool := c == ' ' || c == '\t' || c == '\r'

/-- A text without the blanks at its ends. -/
def trim (w : List Char) : List Char := ((w.dropWhile isBlank).reverse.dropWhile isBlank).reverse

/-- The pieces between the occurrences of a character. -/
def pieces (c : Char) : List Char → List (List Char)
  | [] => [[]]
  | x :: r => if x == c then [] :: pieces c r else match pieces c r with
    | [] => [[x]]
    | w :: ws => (x :: w) :: ws

/-- The words between blanks. -/
def blankWords (w : List Char) : List (List Char) :=
  (pieces ' ' (w.map fun c => if isBlank c then ' ' else c)).filter (!·.isEmpty)

/-- A text cut at the first occurrence of a pattern: what stands before it, and what after it where it occurs. -/
def cutAt (pat : List Char) : List Char → List Char × Option (List Char)
  | [] => ([], none)
  | c :: r =>
    if pat.isPrefixOf (c :: r) then ([], some ((c :: r).drop pat.length))
    else
      let (a, b) := cutAt pat r
      (c :: a, b)

/-- A line without its comment, which begins at `;` or `//` (R58). -/
def cutComment : List Char → List Char
  | [] => []
  | ';' :: _ => []
  | '/' :: '/' :: _ => []
  | c :: r => c :: cutComment r

/-- A word in small letters, for what is written without regard to case (R58). -/
def small (w : List Char) : List Char := w.map Char.toLower

/-! ### Names (R59) -/

def isLetter (c : Char) : Bool := c.isAlpha || c == '_'

/-- A word has the form of a name. -/
def isName : List Char → Bool
  | [] => false
  | c :: r => isLetter c && r.all (fun c => isLetter c || c.isDigit) && r.length < 63

/-- The operand keywords. -/
def keywords : List String := ["inf", "nan", "run", "spm", "add", "min", "max", "umin", "umax", "and", "or", "xor", "xchg"]

/-- The number of a slot operand. -/
def slotOf : List Char → Option (List Char)
  | 's' :: r => if r.isEmpty || !r.all Char.isDigit then none else some r
  | _ => none

/-- A name that a constant, shape, space or pipe may not have: a slot operand, or an operand keyword in any case. -/
def isReservedName (w : List Char) : Bool := (slotOf w).isSome || keywords.any fun k => k == String.ofList (small w)

/-! ### Numbers (R59) -/

/-- A number as it is written: a decimal integer, a bit pattern, a decimal float m × 10^e, an infinity, or a NaN. -/
inductive Num where
  | dec (neg : Bool) (n : Nat)
  | hex (n : Nat)
  | flt (neg : Bool) (m : Nat) (e : Int)
  | inf (neg : Bool)
  | nan
  deriving DecidableEq, Repr

/-- The value of decimal digits; none where another character stands among them. -/
def decNat (w : List Char) : Option Nat :=
  if w.all Char.isDigit then some (w.foldl (fun n c => n * 10 + (c.toNat - 48)) 0) else none

/-- The value of one hexadecimal digit. -/
def hexDigit (c : Char) : Option Nat :=
  let n := c.toLower.toNat
  if c.isDigit then some (n - 48) else if 97 ≤ n && n ≤ 102 then some (n - 87) else none

/-- The value of hexadecimal digits, of which an underscore may part two; `low` says that a digit stands before. -/
def hexNat : Bool → Nat → List Char → Option Nat
  | low, n, [] => if low then some n else none
  | low, n, c :: r => match hexDigit c with
    | some d => hexNat true (n * 16 + d) r
    | none => if low && c == '_' && !r.isEmpty then hexNat false n r else none

/-- A sign and what follows it. -/
def signAt : List Char → Bool × List Char
  | '-' :: r => (true, r)
  | '+' :: r => (false, r)
  | w => (false, w)

/-- A decimal integer or float without its sign: digits, with a point or an exponent for a float. -/
def decimalOf (neg : Bool) (w : List Char) : Option Num :=
  let (body, ex) := cutAt ['e'] (small w)
  let (a, b) := cutAt ['.'] body
  let e := match ex with
    | none => some (0 : Int)
    | some x =>
      let (s, d) := signAt x
      if d.isEmpty then none else (decNat d).map fun n => if s then -(n : Int) else n
  match e, decNat (a ++ b.getD []) with
  | some e, some m =>
    if a.isEmpty && (b.getD []).isEmpty then none
    else if b.isNone && ex.isNone then some (.dec neg m)
    else some (.flt neg m (e - ((b.getD []).length : Nat)))
  | _, _ => none

/-- The number that a word writes. -/
def numOf (w : List Char) : Option Num :=
  let l := small w
  if String.ofList l == "inf" then some (.inf false)
  else if String.ofList l == "-inf" then some (.inf true)
  else if String.ofList l == "nan" then some .nan
  else match w with
    | '0' :: 'x' :: r => (hexNat false 0 r).map .hex
    | _ =>
      let (s, d) := signAt w
      decimalOf s d

/-! ### Patterns -/

/-- A number in an unsigned field of `w` bits; a float is of the wrong kind (A06). -/
def unsignedBits (w : Nat) : Num → Except AsmCode Nat
  | .dec neg n => if n < 2 ^ w && (!neg || n == 0) then .ok n else .error .a07
  | .hex n => if n < 2 ^ w then .ok n else .error .a07
  | _ => .error .a06

/-- A number in a signed field of `w` bits; a hexadecimal number is a pattern. -/
def signedBits (w : Nat) : Num → Except AsmCode Nat
  | .dec neg n =>
    let v : Int := if neg then -(n : Int) else n
    if intMin w false ≤ v && v ≤ intMax w false then .ok (ofInt w v) else .error .a07
  | .hex n => if n < 2 ^ w then .ok n else .error .a07
  | _ => .error .a06

/-- The pattern of ±m × 10^e where it is a value of the format. -/
def decimalBits (f : Fmt) (neg : Bool) (m : Nat) (e : Int) : Option Nat :=
  if m = 0 then some (withSign f neg 0)
  else if 400 < e ∨ e < -2000 then none
  else
    let five := 5 ^ (-e).toNat
    if m % five ≠ 0 then none
    else
      let v : XV := .num neg (m / five * 10 ^ e.toNat) (min e 0) false
      let x := (roundX f .rne 0 v).1
      if isInfPat f x || cmpX (valueOf f x) v ≠ 0 then none else some x

/-- R62: a number in a float format; a float or an integer that the format does not hold exactly is A07. The literal `nan`, for
which no pattern is given, is the default NaN of the format (DESIGN CHOICE, log 57). -/
def floatBits (f : Fmt) (x : Num) : Except AsmCode Nat :=
  let r := match x with
    | .dec neg n => decimalBits f neg n 0
    | .flt neg m e => decimalBits f neg m e
    | .hex n => if n < 2 ^ fbits f then some n else none
    | .inf neg => if f = .Q then none else some (withSign f neg (infPat f))
    | .nan => some (defNan f)
  match r with
  | some v => .ok v
  | none => .error .a07

end Sys2Proof.Machine
end

