-- ==== Sys2Proof/Machine/Mnemonics.lean ====
section
/-! DEFINITION. The vocabulary of pwasm (R60 to R62): the suffixes that every instruction shares, and for each mnemonic its
opcode, its modifier spellings and its operands, as the instruction chapters give them. -/

namespace Sys2Proof.Machine

/-- What an operand of a node line is and where its value goes in IMM (R62): `num w at` a number of `w` bits, `signed w at` a
signed one, `count w at` a number from 1 on, written less one; `const` the value or pool name of a CONST; `group` a `run` or
group size (R115); `atomic` an operation of R261; `spm` the optional keyword of R268. -/
inductive AsmOpd where
  | num (w at_ : Nat) | signed (w at_ : Nat) | count (w at_ : Nat) | const | pool | slot | space | spaceOrSlot | pipe | node
  | group | atomic | spm
  deriving DecidableEq, Repr

/-- The spellings of one class of modifier suffixes with their MOD bits; at most one of them may stand on a line (R61). -/
abbrev ModClass := List (String × Nat)

/-- One mnemonic: its opcode, the classes of its modifiers on each lane, and its operands in order. An instruction with an
immediate form (R39) has that as its one operand. -/
structure Mnemonic where
  name : String
  opc  : Nat
  mods : Lane → List ModClass := fun _ => []
  ops  : List AsmOpd := []

/-! ### Modifier classes -/

/-- A stem with the numbers from `from_` on, `n` of them, the first worth 0. -/
def numbered (stem : String) (step from_ n : Nat) : ModClass := (List.range n).map fun i => (stem ++ toString (i + from_), i * step)

/-- Integer width in MOD[5:4] (R115). -/
def width : ModClass := [("w8", 0), ("w16", 0x10), ("w32", 0x20), ("w64", 0x30)]

/-- Signedness in MOD[3] (R115). -/
def sign : ModClass := [("u", 8)]

/-- Counts from 1 to n in the low bits (R115, R218). -/
def counts (n : Nat) : ModClass := numbered "n" 1 1 n

/-- The jet orders of MOD[2:0] (R180, R239). -/
def orders : ModClass := numbered "k" 1 0 8

/-- The folds of REDUCE and SCAN (R115). -/
def folds : ModClass := [("add", 0), ("mul", 1), ("min", 2), ("max", 3), ("and", 4), ("or", 5), ("xor", 6)]

/-- The first n conditions of R139; ICMP has six of them (R134). -/
def conditions (n : Nat) : ModClass :=
  [("eq", 0), ("ne", 1), ("lt", 2), ("le", 3), ("gt", 4), ("ge", 5), ("unord", 6), ("ordered", 7)].take n

/-- The destination classes of COPY: D1, then D2 (R115). -/
def destClasses : ModClass :=
  (List.range 4).flatMap fun a => (List.range 4).map fun b => ("dc" ++ toString a ++ toString b, a + 4 * b)

/-- The gathering variants at a place in MOD (R145, R239, R268). -/
def variants (at_ : Nat) : ModClass := [("g2", 0), ("g4", at_), ("g7", 2 * at_)]

/-- The element width of memory instructions in MOD[4:3] (R268). -/
def elemWidths : ModClass := [("w8", 0), ("w16", 8), ("w32", 0x10), ("w64", 0x18)]

/-- The element field of loads and stores: a width or a gathering variant, both in MOD[4:3] (R268). -/
def elemFields : ModClass := elemWidths ++ variants 8

/-- The `.ord` form (R255). -/
def ord : ModClass := [("ord", 0x20)]

/-- The scopes of MOD[2:0] (R257). -/
def scopes : ModClass := [("core", 0), ("quad", 1), ("die", 2), ("pkg", 3), ("pod", 4), ("sys", 5)]

/-! ### The mnemonics -/

/-- The fabric instructions (R114, R115). -/
def fabricMnemonics : List Mnemonic :=
  [ { name := "PASS", opc := 0x001 }, { name := "COPY", opc := 0x002, mods := fun _ => [destClasses] },
    { name := "STEER", opc := 0x003 }, { name := "MERGE", opc := 0x004 }, { name := "GATE", opc := 0x005 },
    { name := "SYNC", opc := 0x006 },
    { name := "CONST", opc := 0x007, mods := fun _ => [width, sign, [("pool", 1)]], ops := [.const] },
    { name := "SINK", opc := 0x008 }, { name := "SELECT", opc := 0x009 }, { name := "TNEXT", opc := 0x00A, ops := [.num 16 0] },
    { name := "RETAG", opc := 0x00B, mods := fun _ => [[("fiter", 1)], [("fspace", 2)], [("fframe", 4)], [("fdie", 8)]] },
    { name := "TGET", opc := 0x00C },
    { name := "TSET", opc := 0x00D, mods := fun _ => [[("fiter", 0), ("fspace", 1), ("fframe", 2)]], ops := [.num 16 0] },
    { name := "SPLIT", opc := 0x00E, mods := fun _ => [counts 32] }, { name := "JOIN", opc := 0x00F, mods := fun _ => [counts 32] },
    { name := "BCAST", opc := 0x010, mods := fun _ => [counts 32] },
    { name := "REDUCE", opc := 0x011, mods := fun _ => [width, sign, folds], ops := [.group] },
    { name := "SCAN", opc := 0x012, mods := fun _ => [width, sign, folds], ops := [.group] },
    { name := "PERM", opc := 0x013, ops := [.pool] }, { name := "EOS", opc := 0x014 }, { name := "ISEOS", opc := 0x015 },
    { name := "ERRT", opc := 0x016, mods := fun _ => [[("unpk", 1)]] }, { name := "MKERR", opc := 0x017, ops := [.num 8 0] },
    { name := "ITIDX", opc := 0x018, mods := fun _ => [width] }, { name := "CONV", opc := 0x019, mods := fun _ => [width, sign] } ]

/-- The integer and logic instructions (R133 to R136). -/
def integerMnemonics : List Mnemonic :=
  [ { name := "IADD", opc := 0x040, mods := fun _ => [width, sign] },
    { name := "ISUB", opc := 0x041, mods := fun _ => [width, sign] },
    { name := "IMUL", opc := 0x042, mods := fun _ => [width, sign] },
    { name := "IMULH", opc := 0x043, mods := fun _ => [width, sign] },
    { name := "IMAD", opc := 0x044, mods := fun _ => [width, sign] },
    { name := "IDIV", opc := 0x045, mods := fun _ => [width, sign] },
    { name := "IREM", opc := 0x046, mods := fun _ => [width, sign] },
    { name := "INEG", opc := 0x047, mods := fun _ => [width, sign] },
    { name := "IABS", opc := 0x048, mods := fun _ => [width, sign] },
    { name := "IMIN", opc := 0x049, mods := fun _ => [width, sign] },
    { name := "IMAX", opc := 0x04A, mods := fun _ => [width, sign] },
    { name := "IADDS", opc := 0x04B, mods := fun _ => [width, sign] },
    { name := "ISUBS", opc := 0x04C, mods := fun _ => [width, sign] },
    { name := "ICMP", opc := 0x04D, mods := fun _ => [width, sign, conditions 6] },
    { name := "IDOT4", opc := 0x04E, mods := fun _ => [width, [("sat", 4)], [("ua", 2)], [("ub", 1)]] },
    { name := "ICLAMP", opc := 0x04F, mods := fun _ => [width, sign] },
    { name := "AND", opc := 0x050, mods := fun _ => [width, sign] }, { name := "OR", opc := 0x051, mods := fun _ => [width, sign] },
    { name := "XOR", opc := 0x052, mods := fun _ => [width, sign] }, { name := "NOT", opc := 0x053, mods := fun _ => [width, sign] },
    { name := "ANDN", opc := 0x054, mods := fun _ => [width, sign] },
    { name := "SHL", opc := 0x055, mods := fun _ => [width, sign] }, { name := "SHR", opc := 0x056, mods := fun _ => [width, sign] },
    { name := "SAR", opc := 0x057, mods := fun _ => [width, sign] },
    { name := "ROTL", opc := 0x058, mods := fun _ => [width, sign] },
    { name := "POPC", opc := 0x059, mods := fun _ => [width, sign] },
    { name := "CLZ", opc := 0x05A, mods := fun _ => [width, sign] }, { name := "CTZ", opc := 0x05B, mods := fun _ => [width, sign] },
    { name := "BREV", opc := 0x05C, mods := fun _ => [width, sign] },
    { name := "BFX", opc := 0x05D, mods := fun _ => [width, sign], ops := [.num 6 0, .num 6 8] },
    { name := "BFI", opc := 0x05E, mods := fun _ => [width, sign], ops := [.num 6 0, .num 6 8] },
    { name := "ADDR", opc := 0x05F, mods := fun _ => [width, sign], ops := [.num 3 0, .signed 24 8] } ]

/-- The float instructions, conversions and special functions (R137 to R151). -/
def floatMnemonics : List Mnemonic :=
  [ { name := "FADD", opc := 0x070 }, { name := "FSUB", opc := 0x071 }, { name := "FMUL", opc := 0x072 },
    { name := "FFMA", opc := 0x073 }, { name := "FDIV", opc := 0x074 }, { name := "FSQRT", opc := 0x075 },
    { name := "FRCP", opc := 0x076 }, { name := "FRSQ", opc := 0x077 }, { name := "FMIN", opc := 0x078 },
    { name := "FMAX", opc := 0x079 }, { name := "FABS", opc := 0x07A }, { name := "FNEG", opc := 0x07B },
    { name := "FCMP", opc := 0x07C, mods := fun _ => [conditions 8] }, { name := "FCLASS", opc := 0x07D },
    { name := "FRND", opc := 0x07E, mods := fun _ => [[("exact", 1)]] }, { name := "FSCALE", opc := 0x07F },
    { name := "FGETX", opc := 0x080 }, { name := "FDOT2", opc := 0x081 }, { name := "FCPSGN", opc := 0x082 },
    { name := "FCLAMP", opc := 0x083 }, { name := "CVT", opc := 0x0A0, mods := fun _ => [width, sign] },
    { name := "CVTI", opc := 0x0A1, mods := fun _ => [width, sign, [("from8", 0), ("from16", 2), ("from32", 4), ("from64", 6)], [("fromu", 1)]], ops := [.num 1 0] },
    { name := "CVTF", opc := 0x0A2, mods := fun _ => [width, sign, [("tofix", 1)]], ops := [.signed 8 0] },
    { name := "GPACK", opc := 0x0A3, mods := fun _ => [variants 1] },
    { name := "GUNPK", opc := 0x0A4, mods := fun _ => [variants 1] }, { name := "UNP3", opc := 0x0A5 },
    { name := "NPACK", opc := 0x0A6, mods := fun _ => [width, sign] },
    { name := "NUNPK", opc := 0x0A7, mods := fun _ => [width, sign] },
    { name := "MOVB", opc := 0x0A8, mods := fun _ => [width, sign] }, { name := "FEXP", opc := 0x0B0 },
    { name := "FEXP2", opc := 0x0B1 }, { name := "FLOG", opc := 0x0B2 }, { name := "FLOG2", opc := 0x0B3 },
    { name := "FSIN", opc := 0x0B4 }, { name := "FCOS", opc := 0x0B5 }, { name := "FTANH", opc := 0x0B6 },
    { name := "FSIGM", opc := 0x0B7 }, { name := "FERF", opc := 0x0B8 }, { name := "FATAN", opc := 0x0B9 },
    { name := "FPOWN", opc := 0x0BA } ]

/-- The jet instructions (R179, R180). -/
def jetMnemonics : List Mnemonic :=
  [ { name := "JSEED", opc := 0x0C0, mods := fun _ => [orders] }, { name := "JLIFT", opc := 0x0C1, mods := fun _ => [orders] },
    { name := "JGET", opc := 0x0C2, mods := fun _ => [orders, [("drv", 8)]] },
    { name := "JPUT", opc := 0x0C3, mods := fun _ => [orders] }, { name := "JTRUNC", opc := 0x0C4, mods := fun _ => [orders] },
    { name := "JDIFF", opc := 0x0C5 }, { name := "JINTG", opc := 0x0C6 }, { name := "JEVAL", opc := 0x0C7 },
    { name := "JCOMP", opc := 0x0C8 }, { name := "JFLAG", opc := 0x0C9, ops := [.num 13 0] },
    { name := "JCLRF", opc := 0x0CA, ops := [.num 13 0] }, { name := "JSCAL", opc := 0x0CB },
    { name := "JDERV", opc := 0x0CC, mods := fun _ => [[("inv", 1)]] } ]

/-- The kernel, frame and tag-space instructions (R217, R218). -/
def kernelMnemonics : List Mnemonic :=
  [ { name := "TSPACE", opc := 0x0E0, ops := [.space] },
    { name := "TALLOC", opc := 0x0E1, mods := fun _ => [counts 32], ops := [.space] }, { name := "TFREE", opc := 0x0E2 },
    { name := "TCLOSE", opc := 0x0E3 },
    { name := "LDSLOT", opc := 0x0E4, mods := fun l => if l = .jet then [numbered "n" 1 1 8, (numbered "k" 8 0 8).drop 1] else [counts 32], ops := [.slot] },
    { name := "STSLOT", opc := 0x0E5, mods := fun _ => [width, sign], ops := [.slot] },
    { name := "CLRSLOT", opc := 0x0E6, mods := fun _ => [counts 32], ops := [.slot] },
    { name := "CALL", opc := 0x0E7, ops := [.space] }, { name := "ARG", opc := 0x0E8, mods := fun _ => [width, sign] },
    { name := "RET", opc := 0x0E9, mods := fun _ => [width, sign] }, { name := "COMMIT", opc := 0x0EA },
    { name := "DISCARD", opc := 0x0EB }, { name := "FRMID", opc := 0x0EC },
    { name := "FIRE", opc := 0x0ED, mods := fun _ => [width, sign], ops := [.node, .num 2 18] } ]

/-- The tile instructions (R238, R239). -/
def tileMnemonics : List Mnemonic :=
  [ { name := "TREF", opc := 0x100, mods := fun _ => [orders], ops := [.pool] },
    { name := "MMA", opc := 0x101, mods := fun _ => [[("z", 1)], [("fin", 2)], [("quad", 4)]] },
    { name := "MMAI", opc := 0x102, mods := fun _ => [[("z", 1)], [("fin", 2)], [("quad", 4)], [("ua", 8)], [("ub", 16)], [("tern", 32)]] },
    { name := "MMAG", opc := 0x103, mods := fun _ => [[("z", 1)], [("fin", 2)], [("quad", 4)], variants 8] },
    { name := "MMAJ", opc := 0x104, mods := fun _ => [[("z", 1)], [("fin", 2)], [("quad", 4)]] }, { name := "ACCZ", opc := 0x105 },
    { name := "ACCRD", opc := 0x106, mods := fun _ => [[("raw", 1)]], ops := [.num 3 0] },
    { name := "ACCWR", opc := 0x107, ops := [.num 7 0, .num 2 7, .num 3 9] },
    { name := "TDRN", opc := 0x108, mods := fun _ => [ord, [("force", 16)], [("add", 8)], scopes], ops := [.pool] },
    { name := "TSPLT", opc := 0x109, mods := fun _ => [[("tern", 8)], variants 2, [("rows", 0), ("cols", 1)]], ops := [.num 10 0] },
    { name := "ACCPS", opc := 0x10A, mods := fun _ => [[("fin", 4)], numbered "src" 1 0 4] },
    { name := "MMAT", opc := 0x10B, mods := fun _ => [[("z", 1)], [("fin", 2)], [("quad", 4)]] } ]

/-- The memory and transfer instructions (R268, R257, R394 for TFENCE). -/
def memoryMnemonics : List Mnemonic :=
  [ { name := "LD", opc := 0x120, mods := fun _ => [elemFields, ord, scopes], ops := [.signed 32 0] },
    { name := "ST", opc := 0x121, mods := fun _ => [elemFields, ord, scopes], ops := [.signed 32 0] },
    { name := "LDX", opc := 0x122, mods := fun _ => [elemFields, ord, scopes], ops := [.num 32 0] },
    { name := "STX", opc := 0x123, mods := fun _ => [elemFields, ord, scopes], ops := [.num 32 0] },
    { name := "ATOM", opc := 0x124, mods := fun _ => [elemWidths, ord, scopes], ops := [.atomic, .signed 24 8, .spm] },
    { name := "ATOMR", opc := 0x125, mods := fun _ => [elemWidths, ord, scopes], ops := [.atomic, .signed 24 8, .spm] },
    { name := "CAS", opc := 0x126, mods := fun _ => [elemWidths, ord, scopes], ops := [.signed 24 8, .spm] },
    { name := "ORDN", opc := 0x127 }, { name := "ORDJ", opc := 0x128 }, { name := "ORDF", opc := 0x129 },
    { name := "FENCE", opc := 0x12A, mods := fun _ => [scopes], ops := [.num 7 0, .num 7 8] },
    { name := "TFENCE", opc := 0x12B, mods := fun _ => [scopes] }, { name := "PREF", opc := 0x12C, ops := [.signed 32 0] },
    { name := "CPY", opc := 0x12D, mods := fun _ => [[("add", 8)], ord, scopes], ops := [.pool] },
    { name := "CPYW", opc := 0x12E, mods := fun _ => [ord, scopes], ops := [.pool] },
    { name := "GATH", opc := 0x12F, mods := fun _ => [ord, scopes], ops := [.pool] },
    { name := "SCAT", opc := 0x130, mods := fun _ => [[("add", 8)], ord, scopes], ops := [.pool] },
    { name := "REORD", opc := 0x131, mods := fun _ => [elemWidths], ops := [.pool] },
    { name := "DQPUT", opc := 0x132, mods := fun _ => [elemFields, ord, scopes], ops := [.num 4 0, .num 2 4] },
    { name := "DQFLG", opc := 0x133, mods := fun _ => [ord, scopes], ops := [.num 4 0, .num 2 4] },
    { name := "MCST", opc := 0x134, mods := fun _ => [elemFields, ord, scopes], ops := [.pool] },
    { name := "LDS", opc := 0x135, mods := fun _ => [elemFields, ord, scopes], ops := [.signed 32 0] },
    { name := "STS", opc := 0x136, mods := fun _ => [elemFields, ord, scopes], ops := [.signed 32 0] } ]

/-- The queue, group and barrier instructions (R312, R326, R336, R342). -/
def queueMnemonics : List Mnemonic :=
  [ { name := "QPUT", opc := 0x160, ops := [.pipe] }, { name := "QGET", opc := 0x161, ops := [.pipe] },
    { name := "QEOS", opc := 0x162, ops := [.pipe] }, { name := "QSTAT", opc := 0x163, ops := [.pipe] },
    { name := "NQGET", opc := 0x164, mods := fun _ => [[("wait", 1)]] }, { name := "GPRI", opc := 0x165 },
    { name := "GINFO", opc := 0x166, ops := [.num 3 0] },
    { name := "BARA", opc := 0x167, mods := fun _ => [[("p5", 8)], scopes], ops := [.num 4 0, .count 24 8] },
    { name := "BARW", opc := 0x168, mods := fun _ => [scopes], ops := [.num 4 0] },
    { name := "BART", opc := 0x169, mods := fun _ => [[("src", 16)], [("p5", 8)], scopes], ops := [.num 4 0, .count 24 8] },
    { name := "COLL", opc := 0x16A, mods := fun _ => [scopes], ops := [.pool] }, { name := "LAUNCH", opc := 0x16B } ]

/-- The context, page, link and debug instructions (R370, R394, R415, R447). -/
def systemMnemonics : List Mnemonic :=
  [ { name := "TRAP", opc := 0x180, ops := [.num 16 0] }, { name := "BKPT", opc := 0x181, ops := [.num 16 0] },
    { name := "CSRR", opc := 0x182, ops := [.num 12 0] }, { name := "CSRW", opc := 0x183, ops := [.num 12 0] },
    { name := "PROGI", opc := 0x184, ops := [.node] }, { name := "CAPS", opc := 0x185, ops := [.num 16 0] },
    { name := "CLOCK", opc := 0x186 }, { name := "PMIG", opc := 0x187 },
    { name := "PCNT", opc := 0x188, mods := fun _ => [[("clr", 1)]] },
    { name := "PWB", opc := 0x189, mods := fun _ => [[("set", 1), ("clr", 0)]] },
    { name := "PHASH", opc := 0x18A, mods := fun _ => [[("hash", 0), ("share", 1), ("drop", 2)]], ops := [.num 10 0] },
    { name := "BMAP", opc := 0x18B }, { name := "LNKST", opc := 0x18C, ops := [.num 6 0] },
    { name := "SVCTX", opc := 0x18D, mods := fun _ => [[("halt", 0), ("save", 1), ("resume", 2), ("abandon", 3), ("destroy", 4), ("query", 5)]] },
    { name := "RSCTX", opc := 0x18E, mods := fun _ => [[("run", 1)]] }, { name := "DUMP", opc := 0x18F },
    { name := "CTRIG", opc := 0x190, mods := fun _ => [scopes, [("stop", 8)]], ops := [.num 32 0] } ]

/-- The selection instructions (R154 to R164). -/
def selectMnemonics : List Mnemonic :=
  [ { name := "CMPR", opc := 0x1A0, mods := fun _ => [width, sign, [("slots", 1)]], ops := [.spaceOrSlot] },
    { name := "EXPD", opc := 0x1A1, mods := fun _ => [width, sign] },
    { name := "TOPK", opc := 0x1A2, mods := fun _ => [ord, scopes], ops := [.pool] },
    { name := "SAMPLE", opc := 0x1A3, mods := fun _ => [ord, scopes], ops := [.pool] },
    { name := "RNG", opc := 0x1A4, mods := fun _ => [width, sign], ops := [.num 8 0] },
    { name := "SMAXT", opc := 0x1A5, mods := fun _ => [numbered "grp" 1 0 9] },
    { name := "ARGMX", opc := 0x1A6, mods := fun _ => [width, sign], ops := [.group] } ]

/-- Every mnemonic. -/
def mnemonics : List Mnemonic :=
  fabricMnemonics ++ integerMnemonics ++ floatMnemonics ++ jetMnemonics ++ kernelMnemonics ++ tileMnemonics ++ memoryMnemonics ++ queueMnemonics ++ systemMnemonics ++ selectMnemonics

/-- The mnemonic of a word in capitals. -/
def mnemonicOf (w : List Char) : Option Mnemonic := mnemonics.find? fun m => m.name == String.ofList w

/-! ### The suffixes that every instruction shares (R61) -/

/-- What a suffix sets. -/
inductive Suffix where
  | fmt (f : Fmt) | lane (l : Lane) | rm (r : Rm) | cls (c : Nat) | tag (t : TagOp) | mod (cls v : Nat)
  deriving DecidableEq, Repr

/-- The suffixes of R61 but the modifiers. -/
def sharedSuffixes : List (String × Suffix) :=
  [ ("i", .fmt .I), ("d", .fmt .D), ("s", .fmt .S), ("h", .fmt .H), ("b", .fmt .B), ("q", .fmt .Q), ("g", .fmt .G), ("x", .fmt .X),
    ("j", .lane .jet), ("t", .lane .tile), ("rne", .rm .rne), ("rtz", .rm .rtz), ("rup", .rm .rup), ("rdn", .rm .rdn),
    ("rna", .rm .rna), ("sr", .rm .sr), ("c0", .cls 0), ("c1", .cls 1), ("c2", .cls 2), ("c3", .cls 3), ("next", .tag .next),
    ("iter", .tag .iter), ("enter", .tag .enter), ("exit", .tag .exit), ("callee", .tag .callee), ("caller", .tag .caller) ]

/-- Two suffixes are of one class. -/
def Suffix.sameClass : Suffix → Suffix → Bool
  | .fmt _, .fmt _ | .lane _, .lane _ | .rm _, .rm _ | .cls _, .cls _ | .tag _, .tag _ => true
  | .mod a _, .mod b _ => a == b
  | _, _ => false

/-- The suffix that a spelling names on a mnemonic, given the lane of the line. -/
def suffixOf (m : Mnemonic) (l : Lane) (w : List Char) : Option Suffix :=
  match sharedSuffixes.find? fun s => s.1 == String.ofList w with
  | some s => some s.2
  | none => (m.mods l).zipIdx.findSome? fun (c, i) => (c.find? fun s => s.1 == String.ofList w).map fun s => .mod i s.2

end Sys2Proof.Machine
end

