-- ==== Sys2Proof/Machine/Assembler.lean ====
section
/-! DEFINITION. pwasm (R58 to R67): a listing to a folio, or every error of the listing with its file, line and code. It has no
state of the machine; the folio it gives is what launches read. -/

namespace Sys2Proof.Machine

/-- Where a line stands. -/
structure Place where
  file : String
  line : Nat
  deriving DecidableEq, Repr

/-- One report (R67). -/
structure Report where
  place : Place
  code  : AsmCode
  deriving DecidableEq, Repr

/-! ### Lines (R58, R64 `.include`) -/

/-- What a line of a listing is: text, or the report that stands for it. -/
inductive LineItem where
  | text (p : Place) (body : List Char)
  | bad (r : Report)
  deriving DecidableEq, Repr

/-- The file that an `.include` line names. -/
def includeOf (body : List Char) : Option (List Char) :=
  let (w, r) := (body.takeWhile fun c => !isBlank c && c != '"', trim (body.dropWhile fun c => !isBlank c && c != '"'))
  if String.ofList (small w) == ".include" then
    match r with
    | '"' :: q => match q.reverse with
      | '"' :: f => if f.contains '"' then none else some f.reverse
      | _ => none
    | _ => none
  else none

/-- The items of one file; `inc` gives those of an included one. -/
def fileItems (inc : Place → String → List LineItem) (file : String) (text : List Char) : List LineItem :=
  (pieces '\n' text).zipIdx.flatMap fun (raw, i) =>
    let p : Place := { file := file, line := i + 1 }
    let body := cutComment raw
    if raw.any (fun c => 127 < c.toNat) || 1024 < body.length then [.bad { place := p, code := .a01 }]
    else if (trim body).isEmpty then []
    else match includeOf (trim body) with
      | some f => inc p (String.ofList f)
      | none => [.text p (trim body)]

/-- The items of a listing with its included files in place; `depth` includes may still nest, and `open_` are those open. -/
def listingItems (files : List (String × String)) : Nat → List String → String → List Char → List LineItem
  | 0, _, file, text => fileItems (fun p _ => [.bad { place := p, code := .a13 }]) file text
  | depth + 1, open_, file, text =>
    fileItems (fun p f => match (if open_.contains f then none else files.find? (·.1 == f)) with
      | none => [.bad { place := p, code := .a13 }]
      | some t => listingItems files depth (f :: open_) f t.2.toList) file text

/-! ### What the lines build -/

/-- A node line: mnemonic, suffixes and operands as written, destinations (label, port, conversion mark) with none where one does
not parse, how many pipes the lines before it declare, and the errors of its own form. -/
structure AsmNode where
  place : Place
  mnem  : Option Mnemonic := none
  sufs  : List Suffix := []
  ops   : List (List Char) := []
  dests : List (Option (List Char × Nat × Bool)) := []
  pipes : Nat := 0
  errs  : List AsmCode := []

/-- A `.port` line: direction, pipe, label and input port. -/
structure AsmPort where
  place : Place
  out   : Bool
  pipe  : Nat
  label : List Char
  port  : Nat

/-- A kernel: its name, the directives that apply to it, its labels with their node indices, and its nodes. -/
structure AsmKernel where
  place  : Place
  name   : List Char
  first  : Nat
  frame  : Option Nat := none
  cls    : Option Nat := none
  jord   : Option Nat := none
  exc    : Option Nat := none
  unchecked : Bool := false
  spaces : List (List Char × SpaceRec) := []
  ports  : List AsmPort := []
  rates  : List (Nat × Nat × Place) := []
  labels : List (List Char × Nat) := []
  nodes  : List AsmNode := []

/-- What the lines so far build; `pad` is what `.align` asks of the next pool item, `loose` says that a directive line is wrong. -/
structure Asm where
  begun   : Bool := false
  closed  : Bool := false
  kernels : List AsmKernel := []
  pipes   : List (List Char) := []
  consts  : List (List Char × Nat) := []
  pool    : List Byte := []
  pad     : Nat := 1
  count   : Nat := 0
  loose   : Bool := false
  reports : List Report := []

/-- A code where something is wrong. -/
def codeIf (bad : Bool) (c : AsmCode) : List AsmCode := if bad then [c] else []

/-- What a line gives: the new state, and the codes of its errors. -/
abbrev AsmStep := Asm × List AsmCode

/-- Change the current kernel. -/
def Asm.modLast (s : Asm) (g : AsmKernel → AsmKernel) : Asm :=
  { s with kernels := s.kernels.dropLast ++ (s.kernels.getLast?.map g).toList }

/-- The index of a word in a list. -/
def indexOf (l : List (List Char)) (w : List Char) : Option Nat := l.findIdx? (· == w)

/-- An integer argument between two bounds, else A10. -/
def argIn (lo hi : Nat) (w : List Char) : Except AsmCode Nat :=
  match numOf w with
  | some (.dec neg n) => if lo ≤ n && n ≤ hi && (!neg || n == 0) then .ok n else .error .a10
  | some (.hex n) => if lo ≤ n && n ≤ hi then .ok n else .error .a10
  | _ => .error .a01

/-- The faults of a new name: A01 for its form, A03 where it is reserved or taken. -/
def nameCodes (reserved : Bool) (taken : List (List Char)) (w : List Char) : List AsmCode :=
  if !isName w then [.a01] else codeIf ((reserved && isReservedName w) || taken.contains w) .a03

/-! ### Directives (R64) -/

/-- Add an item to the pool, aligned to its size and to what `.align` asked. -/
def Asm.putItem (s : Asm) (name : List Char) (size : Nat) (data : List Byte) : Asm :=
  let al := max size s.pad
  let off := (s.pool.length + al - 1) / al * al
  { s with consts := s.consts ++ [(name, off)], pad := 1,
           pool := s.pool ++ List.replicate (off - s.pool.length) 0 ++ data }

/-- The types of `.const`: size, and the format of a float. -/
def constTypes : List (String × Nat × Option Fmt) :=
  [ ("i8", 1, none), ("i16", 2, none), ("i32", 4, none), ("i64", 8, none), ("f16", 2, some .H), ("bf16", 2, some .B),
    ("f32", 4, some .S), ("f64", 8, some .D) ]

/-- One value of a `.const`: an integer of the width, signed or not, or a float. -/
def constBits (size : Nat) (f : Option Fmt) (w : List Char) : Except AsmCode Nat :=
  match numOf w, f with
  | none, _ => .error .a06
  | some x, some f => floatBits f x
  | some x, none => match unsignedBits (8 * size) x with
    | .ok v => .ok v
    | .error _ => signedBits (8 * size) x

/-- The results of a list, or the errors among them. -/
def gather {α : Type} (l : List (Except AsmCode α)) : List α × List AsmCode :=
  (l.filterMap fun r => match r with | .ok a => some a | .error _ => none,
   l.filterMap fun r => match r with | .ok _ => none | .error e => some e)

/-- `.const` -/
def constLine (s : Asm) (args : List (List Char)) : AsmStep :=
  match args with
  | name :: ty :: v :: vs => match constTypes.find? fun t => t.1 == String.ofList (small ty) with
    | none => (s, [.a10])
    | some (_, size, f) =>
      let (xs, es) := gather ((v :: vs).map (constBits size f))
      (s.putItem name size (xs.flatMap (leBytes size)), nameCodes true (s.consts.map (·.1)) name ++ es)
  | _ => (s, [.a01])

/-- The bytes of a shape record from the values of a `.shape` line (R263): a value that stands for nothing is A07. -/
def shapeBytes (v : List Int) : Except AsmCode (List Byte) :=
  let at_ (i : Nat) : Int := v.getD i 0
  let within (i : Nat) (hi : Int) : Bool := 0 ≤ at_ i && at_ i ≤ hi
  let code (l : List Int) (x : Int) : Option Nat := l.findIdx? (· == x)
  match code (if at_ 0 = 0 then [8, 16, 32, 64] else [0]) (at_ 1), code (if at_ 0 = 6 then [2, 4, 7] else [0]) (at_ 2) with
  | some iw, some gv =>
    let dims := (at_ 3).toNat + 1
    let dim (d : Nat) : Bool :=
      within (8 + 3 * d) 65535 && within (9 + 3 * d) 65536 && -(2 ^ 63) ≤ at_ (10 + 3 * d) && at_ (10 + 3 * d) < 2 ^ 63
    if !(within 0 6 && within 3 4 && within 4 1 && within 5 1 && within 6 63 && within 7 2047) then .error .a07
    else if v.length ≠ 8 + 3 * dims then .error .a06
    else if !(List.range dims).all dim then .error .a07
    else
      let n (i : Nat) : Nat := (at_ i).toNat
      let h := n 0 * 2 ^ 61 + iw * 2 ^ 59 + gv * 2 ^ 57 + n 3 * 2 ^ 54 + n 4 * 2 ^ 53 + n 5 * 2 ^ 52 + n 6 * 2 ^ 46 + n 7 * 2 ^ 35
      .ok (leBytes 8 h ++ leBytes 8 0 ++ (List.range 5).flatMap fun d =>
        if d < dims then leBytes 8 (n (9 + 3 * d) * 2 ^ 17 + n (8 + 3 * d)) ++ leBytes 8 (ofInt 64 (at_ (10 + 3 * d)))
        else leBytes 16 0)
  | _, _ => .error .a07

/-- The integer that value `i` of a `.shape` line writes; a hexadecimal STRIDE is a pattern of 64 bits. -/
def shapeArg (w : List Char) (i : Nat) : Except AsmCode Int :=
  match numOf w with
  | some (.dec neg n) => .ok (if neg then -(n : Int) else n)
  | some (.hex n) => .ok (if 8 ≤ i ∧ i % 3 = 1 ∧ n < 2 ^ 64 then toSigned 64 n else n)
  | some _ => .error .a07
  | none => .error .a06

/-- `.shape` -/
def shapeLine (s : Asm) (args : List (List Char)) : AsmStep :=
  match args with
  | [] => (s, [.a01])
  | name :: vs =>
    let (xs, es) := gather (vs.zipIdx.map fun (w, i) => shapeArg w i)
    let names := nameCodes true (s.consts.map (·.1)) name
    if es.isEmpty then match shapeBytes xs with
      | .ok b => (s.putItem name 8 b, names)
      | .error e => (s.putItem name 8 [], names ++ [e])
    else (s.putItem name 8 [], names ++ es)

/-- `.space`: a window that is a power of two, then `parent=` and `func` (R27). -/
def spaceLine (s : Asm) (k : AsmKernel) (args : List (List Char)) : AsmStep :=
  match args with
  | name :: w :: opts =>
    let names := k.spaces.map (·.1)
    let window : Except AsmCode Nat := match argIn 1 256 w with
      | .ok n => if n = 2 ^ n.log2 then .ok n.log2 else .error .a10
      | .error e => .error e
    let opt (o : List Char) : Except AsmCode (Option Nat) :=
      let (a, b) := cutAt ['='] o
      match b with
      | none => if String.ofList (small (trim a)) == "func" then .ok none else .error .a01
      | some p =>
        if String.ofList (small (trim a)) != "parent" then .error .a01
        else match indexOf names (trim p) with
          | some i => .ok (some i)
          | none => .error .a03
    let (os, es) := gather (opts.map opt)
    let parents := os.filterMap id
    let twice := codeIf (1 < parents.length || 1 < (os.filter Option.isNone).length) .a10
    let many := codeIf (256 ≤ k.spaces.length) .a10
    let (ws, we) := gather [window]
    (s.modLast fun k => { k with spaces := k.spaces ++ [(name, { wlog := ws.headD 0, parent := parents.head?, func := os.any Option.isNone })] },
     nameCodes true names name ++ we ++ es ++ twice ++ many)
  | _ => (s, [.a01])

/-- The classes of `.exc` in the order of EXCMODE's fields, and the dispositions in the order of their codes (R55, R87). -/
def excClasses : List String := ["iv", "dz", "of", "uf", "nx", "poison", "prot", "fmt"]
def excCodes : List String := ["ignore", "flag", "token", "halt"]

/-- `.exc`: classes that are not named keep the defaults of R55. -/
def excLine (s : Asm) (args : List (List Char)) : AsmStep :=
  let item (a : List Char) : Except AsmCode (Nat × Nat) :=
    let (c, d) := cutAt ['='] a
    match excClasses.findIdx? fun x => x == String.ofList (small (trim c)), d with
    | some i, some d => match excCodes.findIdx? fun x => x == String.ofList (small (trim d)) with
      | some v => .ok (i, v)
      | none => .error .a10
    | _, none => .error .a01
    | none, _ => .error .a10
  let (xs, es) := gather (args.map item)
  let e := xs.foldl (fun e (x : Nat × Nat) => e - field e (2 * x.1 + 1) (2 * x.1) * 4 ^ x.1 + x.2 * 4 ^ x.1) 0xF955
  (s.modLast fun k => { k with exc := some e },
   es ++ codeIf args.isEmpty .a01 ++ (codeIf ((xs.map (·.1)).eraseDups.length != xs.length) .a10))

/-- `.port`: `in` pipe `->` label:port, or `out` pipe `<-` label. -/
def portLine (s : Asm) (p : Place) (k : AsmKernel) (rest : List Char) : AsmStep :=
  let (l, r) := cutAt ['-', '>'] rest
  let (l', r') := cutAt ['<', '-'] rest
  let many := codeIf (64 ≤ k.ports.length) .a10
  let put (out : Bool) (pipe label : List Char) (port : Nat) (es : List AsmCode) : AsmStep :=
    match indexOf s.pipes pipe with
    | none => (s, if isName pipe then .a03 :: es else .a01 :: es)
    | some i => (s.modLast fun k => { k with ports := k.ports ++ [{ place := p, out := out, pipe := i, label := label, port := port }] }, many ++ es)
  match blankWords l, r, blankWords l', r' with
  | [d, pipe], some r, _, _ =>
    let (lab, q) := cutAt [':'] r
    let label := trim lab
    if String.ofList (small d) != "in" || !isName label then (s, [.a01])
    else match q.map trim with
      | some ['0'] => put false pipe label 0 []
      | some ['1'] => put false pipe label 1 []
      | some ['2'] => put false pipe label 2 []
      | some _ => put false pipe label 0 [.a10]
      | none => (s, [.a01])
  | _, none, [d, pipe], some r => if String.ofList (small d) != "out" || !isName (trim r) then (s, [.a01]) else put true pipe (trim r) 0 []
  | _, _, _, _ => (s, [.a01])

/-- A directive that applies to the current kernel; it stands before the kernel's first node line. -/
def kernelDirective (s : Asm) (p : Place) (w : String) (rest : List Char) (args : List (List Char)) : AsmStep :=
  match s.kernels.getLast? with
  | none => (s, [.a10])
  | some k =>
    let late := codeIf (!k.nodes.isEmpty) .a10
    let one (old : Option Nat) (hi : Nat) (g : Nat → AsmKernel → AsmKernel) : AsmStep :=
      let twice := codeIf old.isSome .a10
      match argIn 0 hi rest with
      | .ok n => (s.modLast (g n), twice)
      | .error e => (s.modLast (g 0), twice ++ [e])
    let (t, es) : AsmStep := match w with
      | ".port" => portLine s p k rest
      | ".rates" => match args with
        | [pipe, n] => match indexOf s.pipes pipe, argIn 1 65535 n with
          | some i, .ok n =>
            (s.modLast fun k => { k with rates := k.rates ++ [(i, n, p)] }, codeIf (k.rates.any (·.1 == i)) .a10)
          | none, .ok _ => (s, [.a03])
          | some _, .error e => (s, [e])
          | none, .error e => (s, [.a03, e])
        | _ => (s, [.a01])
      | ".frame" => one k.frame 1024 fun n k => { k with frame := some n }
      | ".class" => one k.cls 3 fun n k => { k with cls := some n }
      | ".jorder" => one k.jord 7 fun n k => { k with jord := some n }
      | ".space" => spaceLine s k args
      | ".exc" =>
        let (t, es) := excLine s args
        (t, codeIf k.exc.isSome .a10 ++ es)
      | _ => (s.modLast fun k => { k with unchecked := true },
          codeIf k.unchecked .a10 ++ codeIf (!rest.isEmpty) .a01)
    (t, late ++ es)

/-- The directives that apply to a kernel. -/
def kernelDirectives : List String := [".port", ".rates", ".frame", ".space", ".class", ".jorder", ".exc", ".unchecked"]

/-- A directive line. R59's table gives kernel names no scope: a second kernel of one name is A03 (DESIGN CHOICE, log 57). -/
def directiveLine (s : Asm) (p : Place) (body : List Char) : AsmStep :=
  let w := String.ofList (small (body.takeWhile fun c => !isBlank c))
  let rest := trim (body.dropWhile fun c => !isBlank c)
  let args := if rest.isEmpty then [] else (pieces ',' rest).map trim
  if kernelDirectives.contains w then kernelDirective s p w rest args
  else match w with
    | ".folio" => (s, codeIf s.begun .a10 ++ codeIf (!(isName rest)) .a01)
    | ".kernel" =>
      ({ s with kernels := s.kernels ++ [{ place := p, name := rest, first := s.count }] },
       nameCodes false (s.kernels.map (·.name)) rest ++ codeIf (4096 ≤ s.kernels.length) .a12)
    | ".pipe" => ({ s with pipes := s.pipes ++ [rest] }, nameCodes true s.pipes rest ++ codeIf (4096 ≤ s.pipes.length) .a12)
    | ".const" => constLine s args
    | ".shape" => shapeLine s args
    | ".align" => match argIn 1 4096 rest with
      | .ok n => ({ s with pad := max s.pad n }, codeIf (!(n = 2 ^ n.log2)) .a10)
      | .error e => (s, [e])
    | ".end" => ({ s with closed := true }, codeIf (!rest.isEmpty) .a01)
    | ".include" => (s, [.a01])
    | _ => (s, [.a02])

/-! ### Node lines (R60, R61) -/

/-- The lane of a line without a lane suffix: 00, or the one lane that the entry has. -/
def defaultLane (m : Mnemonic) : Lane :=
  match (rowOf m.opc).map (·.lanes) with
  | some [l] => l
  | _ => .value

/-- The lane of a line with these suffixes. -/
def laneOfSuffixes (m : Mnemonic) (ws : List (List Char)) : Lane :=
  if ws.contains ['j'] then .jet else if ws.contains ['t'] then .tile else defaultLane m

/-- R268: the spelling of an element field belongs to one format, `.w8` to `.w64` to FMT I and `.g2` to `.g7` to FMT G. -/
def elemSpelled (m : Mnemonic) (ws : List (List Char)) (w : List Char) : Bool :=
  let foreign (c : ModClass) (f : Char) : Bool := c.any (fun s => s.1 == String.ofList w) &&
    ws.any fun v => v != [f] && ["i", "d", "s", "h", "b", "q", "g", "x"].contains (String.ofList v)
  !(0x120 ≤ m.opc && m.opc ≤ 0x136 && (foreign elemWidths 'i' || foreign (variants 8) 'g'))

/-- The suffixes of a line: A04 for one that the mnemonic does not have, and for a second of one class. -/
def suffixesOf (m : Mnemonic) (ws : List (List Char)) : List Suffix × List AsmCode :=
  ws.foldl (fun acc w => match if elemSpelled m ws w then suffixOf m (laneOfSuffixes m ws) w else none with
    | none => (acc.1, acc.2 ++ [.a04])
    | some x => if acc.1.any x.sameClass then (acc.1, acc.2 ++ [.a04]) else (acc.1 ++ [x], acc.2)) ([], [])

/-- A05: a format that the entry does not allow, or none where it allows several. -/
def formatCodes (m : Mnemonic) (sufs : List Suffix) : List AsmCode :=
  let fmts := ((rowOf m.opc).map (·.fmts)).getD []
  match sufs.findSome? fun x => match x with | .fmt f => some f | _ => none with
  | some f => codeIf (!(fmts.contains f)) .a05
  | none => codeIf (!(fmts.length = 1)) .a05

/-- The instruction has an immediate form (R39). -/
def Mnemonic.takesImm (m : Mnemonic) : Bool := ((rowOf m.opc).map (·.imm)).getD false

/-- A06: a wrong number of operands. `spm` and the operand of an immediate form may be absent. -/
def countCodes (m : Mnemonic) (n : Nat) : List AsmCode :=
  let hi := if m.takesImm then 1 else m.ops.length
  let lo := if m.takesImm then 0 else (m.ops.filter (· != .spm)).length
  codeIf (!(lo ≤ n && n ≤ hi)) .a06

/-- One destination: label, port (3 for the ordering port), conversion mark. An item left empty skips an output, which A08
reports as it does a bad port. -/
def destItem (w : List Char) : Except AsmCode (List Char × Nat × Bool) :=
  let marked := w.getLast? == some '!'
  let (lab, q) := cutAt [':'] (if marked then w.dropLast else w)
  if w.isEmpty then .error .a08
  else if !isName (trim lab) then .error .a01
  else match q.map trim with
    | some ['0'] => .ok (trim lab, 0, marked)
    | some ['1'] => .ok (trim lab, 1, marked)
    | some ['2'] => .ok (trim lab, 2, marked)
    | some ['o'] => .ok (trim lab, 3, marked)
    | some d => .error (if d.isEmpty then .a01 else .a08)
    | none => .error .a01

/-- The operands of a node line: separated by commas, or by blanks where the entry writes them so (`loose`: FIRE and ACCWR). -/
def operandWords (loose : Bool) (w : List Char) : List (List Char) × List AsmCode :=
  if w.isEmpty then ([], [])
  else
    let ps := (pieces ',' w).map trim
    (ps.flatMap blankWords, codeIf (ps.any fun p => p.isEmpty || (!loose && p.any isBlank)) .a01)

/-- A node line. -/
def nodeLine (s : Asm) (p : Place) (body : List Char) : AsmStep :=
  let (left, right) := cutAt ['-', '>'] body
  let (a, b) := cutAt [':'] left
  let text := trim (b.getD left)
  let label := if b.isSome then some (trim a) else none
  let ws := pieces '.' (text.takeWhile fun c => !isBlank c)
  let mn := mnemonicOf ((ws.headD []).map Char.toUpper)
  let (ops, opErrs) := operandWords (mn.any fun m => m.opc == 0x0ED || m.opc == 0x107) (trim (text.dropWhile fun c => !isBlank c))
  let (sufs, sufErrs) := match mn with
    | some m => suffixesOf m (ws.tail.map small)
    | none => ([], [])
  let (ds, destErrs) := match right with
    | none => ([], [])
    | some r =>
      if (trim r).isEmpty then ([], [AsmCode.a01])
      else
        let items := ((pieces ',' r).map trim).map destItem
        (items.map Except.toOption, (gather items).2 ++ codeIf (3 < items.length) .a08)
  let labelErrs (k : List (List Char)) : List AsmCode := match label with
    | some l => nameCodes false k l
    | none => []
  let mnErrs := match mn with
    | some m => formatCodes m sufs ++ countCodes m ops.length
    | none => if text.isEmpty then [.a01] else [.a02]
  let errs := mnErrs ++ sufErrs ++ opErrs ++ destErrs
  match s.kernels.getLast? with
  | none => (s, AsmCode.a10 :: (labelErrs [] ++ errs))
  | some k =>
    let node : AsmNode := { place := p, mnem := mn, sufs := sufs, ops := ops, dests := ds, pipes := s.pipes.length, errs := errs }
    ({ s with count := s.count + 1,
              kernels := s.kernels.dropLast ++ [{ k with nodes := k.nodes ++ [node],
                                                         labels := k.labels ++ (label.map fun l => (l, s.count)).toList }] },
     labelErrs (k.labels.map (·.1)) ++ errs ++ codeIf (262144 ≤ s.count) .a12)

/-- One item of the listing. The first line opens the folio; nothing after `.end` counts. -/
def asmItem (s : Asm) (x : LineItem) : Asm :=
  if s.closed then s
  else match x with
    | .bad r => { s with begun := true, loose := true, reports := s.reports ++ [r] }
    | .text p body =>
      let isFolio := small (body.takeWhile fun c => !isBlank c) == ".folio".toList
      let dir := body.head? == some '.'
      let (t, es) := if dir then directiveLine s p body else nodeLine s p body
      { t with begun := true, loose := s.loose || (dir && !es.isEmpty),
               reports := s.reports ++ (codeIf (!(s.begun || isFolio)) .a10 ++ es).map fun c => { place := p, code := c } }

/-! ### Operands (R62) -/

/-- What the labels and names of a listing stand for when operands are read. -/
structure Names where
  consts : List (List Char × Nat)
  pipes  : List (List Char)
  spaces : List (List Char)
  labels : List (List Char × Nat)
  others : List (List Char)

/-- The node that a label names: A03 where no kernel has it, A08 where it is another kernel's. -/
def Names.node (s : Names) (w : List Char) : Except AsmCode Nat :=
  match s.labels.find? (·.1 == w) with
  | some x => .ok x.2
  | none => .error (if s.others.contains w then .a08 else .a03)

/-- A number in a field, else A06. -/
def numIn (g : Num → Except AsmCode Nat) (w : List Char) : Except AsmCode Nat :=
  match numOf w with
  | some x => g x
  | none => .error .a06

/-- The offset of a constant or shape, or the offset itself. -/
def Names.pool (s : Names) (w : List Char) : Except AsmCode Nat :=
  match s.consts.find? (·.1 == w) with
  | some x => .ok x.2
  | none => match numOf w with
    | some x => unsignedBits 32 x
    | none => .error (if isName w then .a03 else .a06)

def slotBits (w : List Char) : Except AsmCode Nat :=
  match (slotOf w).bind decNat with
  | some n => if n < 1024 then .ok n else .error .a07
  | none => .error .a06

def Names.space (s : Names) (w : List Char) : Except AsmCode Nat :=
  match indexOf s.spaces w with
  | some i => .ok i
  | none => match numOf w with
    | some x => unsignedBits 8 x
    | none => .error (if isName w then .a03 else .a06)

/-- The immediate operand (R39): an integer of the type that MOD names, a 32-bit integer, or a float of the format, binary32 for D. -/
def immBits (opc : Nat) (f : Fmt) (mod : Nat) (x : Num) : Except AsmCode Nat :=
  if opc = 0x07F ∨ opc = 0x0BA ∨ opc = 0x165 then signedBits 32 x
  else match f with
    | .I =>
      let w := min 32 (8 * 2 ^ field mod 5 4)
      match x with
      | .hex _ => unsignedBits 32 x
      | _ => if bitOf mod 3 then unsignedBits w x else (signedBits w x).map fun v => ofInt 32 (toSigned w v)
    | .D => floatBits .S x
    | .G | .X => .error .a06
    | f => floatBits f x

/-- The operations of ATOM (R261). -/
def atomics : List String := ["add", "min", "max", "umin", "umax", "and", "or", "xor", "xchg"]

/-- The bits of IMM that one operand fills. -/
def operandBits (s : Names) (f : Fmt) (mod : Nat) (o : AsmOpd) (w : List Char) : Except AsmCode Nat :=
  match o with
  | .num n at_ => (numIn (unsignedBits n) w).map (· * 2 ^ at_)
  | .signed n at_ => (numIn (signedBits n) w).map (· * 2 ^ at_)
  | .count n at_ => (numIn (fun x => match x with
      | .dec false v => unsignedBits n (.dec (v == 0) (if v = 0 then 1 else v - 1))
      | .hex v => if v = 0 then .error .a07 else unsignedBits n (.hex (v - 1))
      | _ => .error .a07) w).map (· * 2 ^ at_)
  | .const => if bitOf mod 0 then s.pool w else numIn (immBits 0 f mod) w
  | .pool => s.pool w
  | .slot => slotBits w
  | .space => s.space w
  | .spaceOrSlot => if bitOf mod 0 then slotBits w else s.space w
  | .pipe => match indexOf s.pipes w with
    | some i => .ok i
    | none => .error (if isName w then .a03 else .a06)
  | .node => match s.node w with
    | .error .a08 => .error .a07
    | r => r
  | .group =>
    if String.ofList (small w) == "run" then .ok 0
    else match numIn (unsignedBits 5) w with
      | .ok g => if g ≤ 16 then .ok (32 + g) else .error .a07
      | .error e => .error e
  | .atomic => match atomics.findIdx? fun x => x == String.ofList (small w) with
    | some i => .ok i
    | none => .error .a06
  | .spm => if String.ofList (small w) == "spm" then .ok 0x20 else .error .a06

/-! ### Nodes (R39, R63) -/

/-- MOD of a list of suffixes. -/
def modOf (sufs : List Suffix) : Nat := sufs.foldl (fun m x => match x with | .mod _ v => m ||| v | _ => m) 0

/-- The format of a line. -/
def fmtOf (r : Row) (sufs : List Suffix) : Fmt :=
  (sufs.findSome? fun x => match x with | .fmt f => some f | _ => none).getD (r.fmts.headD .I)

/-- The node of a line: each suffix fills one field (R61). -/
def buildNode (m : Mnemonic) (r : Row) (sufs : List Suffix) (arity : Nat) (immp : Bool) (imm : Nat) (ds : List Dest) : Node :=
  let n : Node := { fmt := fmtOf r sufs, arity := BitVec.ofNat 2 arity, lane := defaultLane m, tagop := .keep, rm := .ctx,
                    cf := false, cls := 0, immp := immp, mod := BitVec.ofNat 6 (modOf sufs), imm := BitVec.ofNat 32 imm, dests := ds }
  sufs.foldl (fun n x => match x with
    | .lane l => { n with lane := l }
    | .rm r => { n with rm := r }
    | .cls c => { n with cf := true, cls := BitVec.ofNat 2 c }
    | .tag t => { n with tagop := t }
    | _ => n) n

/-- LE_FIELD or LE_JET. -/
def fieldOrJet (r : Row) (n : Node) : Bool := fieldBad r n || jetBad r n

/-- Values of IMM that some form of every entry accepts, for a line whose operands do not stand for one. -/
def trialImms : List Nat := [0, 1, 0x100, 0x3F800000]

/-- The code of a node that breaks LE_FIELD or LE_JET (R67): A04 where it stands without one of its suffixes, A07 where it
stands with another operand, A14 where both or neither hold. -/
def fieldCode (m : Mnemonic) (r : Row) (sufs : List Suffix) (n : Node) : AsmCode :=
  let ok (sufs : List Suffix) (imm : Nat) : Bool := !fieldOrJet r (buildNode m r sufs n.arity.toNat n.immp imm n.dests)
  let bySuffix := (List.range sufs.length).any fun i => match sufs[i]? with
    | some (.fmt _) => false
    | _ => ok (sufs.eraseIdx i) (im n)
  let byOperand := (n.immp || !m.ops.isEmpty) && trialImms.any (ok sufs)
  if bySuffix && !byOperand then .a04 else if byOperand && !bySuffix then .a07 else .a14

/-- A node for the folio, with its destinations in their places, none where one names nothing; `form` says that mnemonic and
suffixes stand, `fed` that its ARITY does, `read` that its operands do. -/
structure BuiltNode where
  place : Place
  opc   : Nat
  node  : Node
  dests : List (Option Dest) := []
  form  : Bool := false
  fed   : Bool := false
  read  : Bool := false

/-- No output of the line is left out of the folio. -/
def BuiltNode.linked (n : BuiltNode) : Bool := n.dests.all (·.isSome)

/-- The edges of a kernel as its lines give them: consumer, port. -/
def kernelEdges (s : Names) (k : AsmKernel) : List (Nat × Nat) :=
  (k.ports.filterMap fun p => if p.out then none else (s.labels.find? (·.1 == p.label)).map fun x => (x.2, p.port)) ++
  k.nodes.flatMap fun n => (n.dests.filterMap id).filterMap fun d => (s.labels.find? (·.1 == d.1)).map fun x => (x.2, d.2.1)

/-- What stands for a line without a known mnemonic. -/
def blankNode : Node :=
  { fmt := .I, arity := 0, lane := .value, tagop := .keep, rm := .ctx, cf := false, cls := 0, immp := false, mod := 0, imm := 0, dests := [] }

/-- The suffixes that a line may mean: its own, and where one of them is wrong its own with any that the mnemonic has beside
them; and each format that the entry allows where none stands or a wrong one. -/
def meantSuffixes (m : Mnemonic) (r : Row) (n : AsmNode) : List (List Suffix) :=
  let kept := if n.errs.contains .a05 then n.sufs.filter (fun x => match x with | .fmt _ => false | _ => true) else n.sufs
  let based := if n.errs.contains .a05 then r.fmts.map fun f => Suffix.fmt f :: kept else [kept]
  if n.errs.contains .a04 then
    let more := (sharedSuffixes.map (·.2)) ++ ((m.mods (buildNode m r kept 0 false 0 []).lane).zipIdx.flatMap fun (c, i) => c.map fun x => .mod i x.2)
    based.flatMap fun b => b :: ((more.filter fun x => !b.any x.sameClass).map fun x => b ++ [x])
  else based

/-- The node of a line and the codes of its errors, each breach apart (R67): LE_FIELD and LE_JET where no legal ARITY and nothing
else in the place of a wrong operand, suffix or format mends them, LE_LINK as the node shows it alone. R63: the ports that edges
name are 0 to n − 1, and ARITY is n, plus 1 for an immediate operand, but for SMAXT, whose entry gives ARITY 1 with IMMP 1 (R161;
DEDUCED, log 58). -/
def buildLine (s : Names) (edges : List (Nat × Nat)) (n : AsmNode) (i : Nat) : BuiltNode × List AsmCode :=
  let ds := (n.dests.filterMap id).map fun d => (s.node d.1).map fun v => ({ node := BitVec.ofNat 18 v, port := BitVec.ofNat 2 d.2.1 } : Dest)
  let dests := n.dests.map fun d => d.bind fun d => ((s.node d.1).map fun v => ({ node := BitVec.ofNat 18 v, port := BitVec.ofNat 2 d.2.1 } : Dest)).toOption
  match n.mnem, n.mnem.bind (fun m => rowOf m.opc) with
  | some m, some r =>
    let s := { s with pipes := s.pipes.take n.pipes }
    let fed := ((edges.filter fun e => e.1 == i && e.2 < 3).map (·.2)).eraseDups
    let immp := m.takesImm && !n.ops.isEmpty
    let arity := fed.length + (if immp && m.opc != 0x1A5 then 1 else 0)
    let arityErrs := codeIf (!(fed.all (· < fed.length) && r.arities.contains arity)) .a09
    let f := fmtOf r n.sufs
    let (vs, opErrs) := gather (
      if immp then n.ops.map (numIn (immBits m.opc f (modOf n.sufs)))
      else (m.ops.zip n.ops).map fun x => operandBits s f (modOf n.sufs) x.1 x.2)
    let errs := arityErrs ++ opErrs ++ (gather ds).2
    let node (sufs : List Suffix) (a v : Nat) : Node := buildNode m r sufs a immp v (dests.filterMap id)
    let imm := vs.foldl (· ||| ·) 0
    let readable := opErrs.isEmpty && !n.errs.contains .a06 && !n.errs.contains .a01
    let arities := if arityErrs.isEmpty then [arity] else r.arities
    let meant := meantSuffixes m r n
    let trials := meant.flatMap fun sufs => arities.flatMap fun a => (if readable then [imm] else trialImms).map fun v => node sufs a v
    let field := trials.all (fieldOrJet r)
    let all : Node := { node n.sufs arity imm with dests := n.dests.map fun _ => { node := 0, port := 0 } }
    let link := n.dests.length ≤ 3 && linkBad r all
    let own := errs ++ (if field then [fieldCode m r (meant.headD n.sufs) (trials.headD (node n.sufs arity imm))] else []) ++ codeIf link .a08
    let form := !n.errs.contains .a04 && !n.errs.contains .a05
    ({ place := n.place, opc := m.opc, node := node n.sufs arity imm, dests := dests, form := form, fed := arityErrs.isEmpty,
       read := readable && form }, own)
  | _, _ => ({ place := n.place, opc := 0, node := blankNode, dests := dests }, (gather ds).2)

/-! ### Kernels, sections and checks (R65 to R67) -/

/-- The names that the lines of a kernel can use. A kernel that declares no space has the space `top` (R64). -/
def namesOf (s : Asm) (k : AsmKernel) : Names :=
  { consts := s.consts, pipes := s.pipes, spaces := if k.spaces.isEmpty then ["top".toList] else k.spaces.map (·.1),
    labels := k.labels, others := s.kernels.flatMap fun k => k.labels.map (·.1) }

/-- The conversion marks of a kernel (R66): place, CONV node, its mnemonic, consumer, port. -/
def kernelMarks (s : Names) (k : AsmKernel) : List (Place × Nat × Option Nat × Nat × Nat) :=
  k.nodes.zipIdx.flatMap fun (n, i) => (n.dests.filterMap id).filterMap fun d =>
    if d.2.2 then (s.labels.find? (·.1 == d.1)).map fun x => (n.place, k.first + i, n.mnem.map (·.opc), x.2, d.2.1) else none

/-- The reports of a kernel's marks: on a node that is no CONV, at the ordering port, or twice on one port (A11). -/
def markReports (ms : List (Place × Nat × Option Nat × Nat × Nat)) : List Report :=
  ms.zipIdx.filterMap fun (m, i) =>
    let (p, _, o, c, q) := m
    if o != some 0x019 || q == 3 || (ms.take i).any (fun d => d.2.2.2 == (c, q)) then some { place := p, code := .a11 } else none

/-- The reports of a kernel's directives: no node, no port record, a rate without its port, a label that is none, or an output
label that is not the QPUT of its pipe (R26). -/
def kernelReports (s : Names) (k : AsmKernel) : List Report :=
  (if k.nodes.isEmpty then [{ place := k.place, code := .a10 }] else []) ++
  (if k.ports.isEmpty then [{ place := k.place, code := .a10 }] else []) ++
  (k.rates.filterMap fun r => if k.ports.any (·.pipe == r.1) then none else some { place := r.2.2, code := .a10 }) ++
  k.ports.filterMap fun p => match s.node p.label with
    | .error c => some { place := p.place, code := c }
    | .ok v => match k.nodes[v - k.first]? with
      | some n => (match n.mnem with
        | some m =>
          let other := match n.ops with | [w] => (indexOf s.pipes w).any (· != p.pipe) | _ => false
          if p.out && (m.opc != 0x160 || other) then some { place := p.place, code := .a10 } else none
        | none => none)
      | none => none

/-- The port records of a kernel (R26). -/
def portRecords (s : Names) (k : AsmKernel) : List Nat :=
  k.ports.map fun p =>
    let v := match s.node p.label with | .ok v => v | .error _ => 0
    let rate := ((k.rates.find? (·.1 == p.pipe)).map (·.2.1)).getD 1
    ofBool p.out * 2 ^ 63 + rate * 2 ^ 32 + p.pipe * 2 ^ 20 + v * 4 + p.port

/-- The space records of a kernel (R27, R64). -/
def spaceRecords (k : AsmKernel) : List Nat :=
  if k.spaces.isEmpty then [0x1FF * 16]
  else k.spaces.map fun x => x.2.wlog + (x.2.parent.getD 0x1FF) * 16 + ofBool x.2.func * 2 ^ 13

/-- A list of bytes filled up to a multiple of `n`. -/
def padTo (n : Nat) (b : List Byte) : List Byte := b ++ List.replicate ((b.length + n - 1) / n * n - b.length) 0

/-- The pool with the port and space records of the kernels behind its items, and the kernel records (R24). -/
def kernelSection (s : Asm) : List Byte × List Byte :=
  s.kernels.foldl (fun acc k =>
    let names := namesOf s k
    let pool := padTo 8 acc.1
    let ports := (portRecords names k).flatMap (leBytes 8)
    let spaces := (spaceRecords k).flatMap (leBytes 4)
    let attr := k.cls.getD 3 + k.jord.getD 0 * 4 + ofBool k.unchecked * 32 + ofBool k.exc.isSome * 64
    (pool ++ ports ++ spaces,
     acc.2 ++ leBytes 4 k.first ++ leBytes 4 k.nodes.length ++ leBytes 2 (k.frame.getD 0) ++ leBytes 2 (spaceRecords k).length ++
     leBytes 2 k.ports.length ++ leBytes 2 (k.exc.getD 0) ++ leBytes 2 attr ++ leBytes 2 0 ++ leBytes 4 pool.length ++
     leBytes 4 (pool.length + ports.length) ++ leBytes 4 0)) (s.pool, [])

/-- The folio of five sections (R22, R23, R65). -/
def folioBytes (kernels : Nat) (sections : List (List Byte)) : List Byte :=
  let placed := sections.foldl (fun (acc : List Byte × List Byte) b =>
    let body := padTo 16 acc.2
    (acc.1 ++ leBytes 4 (64 + body.length) ++ leBytes 4 b.length, body ++ b)) ([], [])
  let body := padTo 16 placed.2
  let all := leBytes 4 0x4F465750 ++ leBytes 2 1 ++ leBytes 2 0 ++ leBytes 4 (64 + body.length + 48) ++ leBytes 2 kernels ++
    leBytes 2 0 ++ placed.1 ++ leBytes 8 0 ++ body
  all ++ sha384 all

/-- What a listing gives before the digest: kernels by their lines, nodes, pool, kernel table, conversion marks. -/
structure Assembled where
  kernels : List Place
  nodes   : List BuiltNode
  pool    : List Byte
  table   : List Byte
  marks   : List (Place × Nat × Option Nat × Nat × Nat)

/-- The sections of an assembled listing (R65): conversions in ascending order of consumer, nodes in listing order. -/
def Assembled.sections (a : Assembled) : List (List Byte) :=
  let convs := (List.range a.nodes.length).flatMap fun c => (List.range 3).flatMap fun q => a.marks.filterMap fun m =>
    if m.2.2.2 == (c, q) then some (c * 2 ^ 46 + q * 2 ^ 44 + m.2.1 * 2 ^ 26) else none
  [ a.table, a.nodes.flatMap fun n => leBytes 8 (encodeIw n.opc n.node) ++ leBytes 8 (encodeLw n.node.dests), a.pool,
    convs.flatMap (leBytes 8), (List.range a.nodes.length).flatMap (leBytes 4) ]

/-- The codes of an edge that breaks LE_LINK (R67): A08 for its destination, else A15. -/
def edgeCode (ks : List Kernel) (nodes : List FNode) (e : Nat × Nat × Nat × Nat) : AsmCode :=
  match (nodes[e.2.2.1]?).bind (fun y => y.row), (nodes[e.2.2.1]?).bind (fun y => y.node) with
  | some r, some n => if kernelOf ks e.1 == kernelOf ks e.2.2.1 && (tokenPorts r n).any (·.1 == e.2.2.2) then .a15 else .a08
  | _, _ => .a08

/-- The reports of what the bindery would refuse up to LE_ORDER in the folio as a whole (R67): descriptors A14, operands that name
the wrong object A07, linkage A08 or A15, conversions A11, kernels A10, layout A12. A check is left out where a part of a line that
it reads is itself wrong; `loose` says so of the directives. -/
def folioReports (a : Assembled) (b : List Byte) (loose : Bool) : List Report :=
  let nodes := a.nodes.map fun n => FNode.ofWords (encodeIw n.opc n.node) (encodeLw n.node.dests)
  let krecs := (List.range a.kernels.length).map fun k => kernelAt b a.pool k nodes
  let ks := krecs.map (·.1)
  let sps := ks.map fun k => spacesOf k nodes
  let edges := a.nodes.zipIdx.flatMap fun (n, i) => match rowOf n.opc with
    | some r => n.dests.zipIdx.filterMap fun (d, j) => d.map fun d =>
        (i, destOut r { n.node with dests := n.dests.map fun _ => d } j, d.node.toNat, d.port.toNat)
    | none => []
  let entries := a.marks.map fun m => (m.2.2.2.1, m.2.2.2.2, m.2.1, 0)
  let form (i : Nat) : Bool := (a.nodes[i]?).any (·.form)
  let linked := !loose && a.nodes.all (·.linked)
  let whole := linked && a.nodes.all (·.form)
  let fed := ks.map fun k => { k with ports := k.ports.filter fun p => form p.node }
  let top : Place := a.kernels.headD { file := "", line := 1 }
  (if !loose && (layoutBad b || 2 ^ 32 ≤ b.length) then [{ place := top, code := .a12 }] else []) ++
  (if loose then [] else (a.kernels.zip krecs).filterMap fun (p, k) => if k.2 then some { place := p, code := .a10 } else none) ++
  (a.nodes.zip nodes).zipIdx.flatMap fun ((n, x), i) =>
    let other := if x.opc == 0x0E0 then whole else x.opc != 0x0ED || form (field (im n.node) 17 0)
    let context := !loose && n.read && other && contextBad ks nodes a.pool sps i x n.node
    let sound (t q : Nat) : Bool := (a.nodes[t]?).any fun y => y.form && (y.fed || q == 3)
    let bad := (edges.filter fun e => e.1 == i && n.form && sound e.2.2.1 e.2.2.2 && edgeBad ks nodes e).map (edgeCode ks nodes)
    let lanes := !loose && n.read && x.opc == 0x160 && pipeLaneBad fed nodes i (field (im n.node) 11 0)
    let lone := linked && n.form && (x.row.map fun r => r.ordPort n.node).getD false && !mayLone x.opc && !edges.any fun e => e.2.2.1 == i && e.2.2.2 == 3
    let convs := x.opc == 0x019 && n.form && entries.any fun e => e.2.2.1 == i && e.2.1 != 3 && form e.1 && convBad ks nodes [e] e
    ((if context then [if descBad a.pool x.opc n.node then AsmCode.a14 else .a07] else []) ++ bad ++ codeIf lanes .a15 ++
     codeIf lone .a15 ++ codeIf convs .a11).map fun c => { place := n.place, code := c }

/-- The lines of a listing. -/
def readListing (files : List (String × String)) (file text : String) : Asm :=
  (listingItems files 16 [file] file text.toList).foldl asmItem {}

/-- The nodes, pool and records of a listing, the reports of its lines and kernels, and whether a directive is among them. -/
def assembleNodes (files : List (String × String)) (file text : String) : Assembled × List Report × Bool :=
  let s := readListing files file text
  let built := s.kernels.flatMap fun k =>
    let names := namesOf s k
    let edges := kernelEdges names k
    k.nodes.zipIdx.map fun (n, i) => buildLine names edges n (k.first + i)
  let marks := s.kernels.flatMap fun k => kernelMarks (namesOf s k) k
  let kerns := (if s.kernels.isEmpty then [{ place := { file := file, line := 1 }, code := .a12 }] else []) ++
    s.kernels.flatMap fun k => kernelReports (namesOf s k) k
  let (pool, table) := kernelSection s
  ({ kernels := s.kernels.map (·.place), pool := pool, table := table, marks := marks, nodes := built.map (·.1) },
   s.reports ++ kerns ++ (built.flatMap fun x => x.2.map fun c => { place := x.1.place, code := c }) ++ markReports marks,
   s.loose || !kerns.isEmpty)

/-- pwasm: the folio of a listing, or every error that it holds (R67). `files` are what `.include` can name. -/
def assemble (files : List (String × String)) (file text : String) : Except (List Report) (List Byte) :=
  let (a, reports, loose) := assembleNodes files file text
  let b := folioBytes a.kernels.length a.sections
  let reports := reports ++ folioReports a b loose
  if reports.isEmpty then .ok b else .error reports

end Sys2Proof.Machine
end

