-- ==== Sys2Proof/Tests/Slice0.lean ====
section
/-! SUPPORT. Tests: what WellFormed refuses, words written out from the spec's encodings, single steps on small states, and for
every obligation with hypotheses operands and states that meet them. -/

namespace Sys2Proof.Tests

open Sys2Proof Sys2Proof.Machine

/-! ### Small terms -/

/-- A node over 32-bit integers with `arity` operands. -/
def nI (arity : Nat) (mod : Nat := 0x20) (imm : Nat := 0) (dests : List Dest := []) : Node :=
  { fmt := .I, arity := BitVec.ofNat 2 arity, lane := .value, tagop := .keep, rm := .ctx, cf := false, cls := 0, immp := false,
    mod := BitVec.ofNat 6 mod, imm := BitVec.ofNat 32 imm, dests := dests }

/-- A node over another format. -/
def nF (fmt : Fmt) (arity : Nat) (mod : Nat := 0) (imm : Nat := 0) : Node := { nI arity mod imm with fmt := fmt }

def dest0 : Dest := { node := 0, port := 0 }

/-! ### What WellFormed refuses: one ill-formed term for each check -/

theorem test_wf_good : (Instr.iadd (nI 2)).wf = true := by decide
/-- LE_FIELD: FMT (R33: IADD takes integers). -/
theorem test_wf_fmt : (Instr.iadd (nF .D 2)).wf = false := by decide
/-- LE_FIELD: ARITY (R34). -/
theorem test_wf_arity : (Instr.iadd (nI 1)).wf = false := by decide
/-- LE_FIELD: LANE (R35: a tile reference). -/
theorem test_wf_lane : (Instr.iadd { nI 2 with lane := .tile }).wf = false := by decide
/-- LE_FIELD: TAGOP (R217: CALLEE is not for IADD). -/
theorem test_wf_tagop : (Instr.iadd { nI 2 with tagop := .callee }).wf = false := by decide
/-- LE_FIELD: RM (R37). -/
theorem test_wf_rm : (Instr.iadd { nI 2 with rm := .rup }).wf = false := by decide
/-- LE_FIELD: CLS without CF (R38). -/
theorem test_wf_cls : (Instr.iadd { nI 2 with cls := 1 }).wf = false := by decide
/-- LE_FIELD: IMMP (R39: STEER takes no immediate operand). -/
theorem test_wf_immp : (Instr.steer { nI 2 0 with immp := true }).wf = false := by decide
/-- LE_FIELD: MOD (R40, R133: MOD[2:0] of IADD is zero). -/
theorem test_wf_mod : (Instr.iadd (nI 2 0x21)).wf = false := by decide
/-- LE_FIELD: IMM (R40: unused bits are zero). -/
theorem test_wf_imm : (Instr.iadd (nI 2 0x20 1)).wf = false := by decide
/-- LE_JET: a jet lane on a row that takes none. -/
theorem test_wf_jet : (Instr.iadd { nI 2 with lane := .jet }).wf = false ∧ checkNode 0x040 { nI 2 with lane := .jet } = some .jet := by decide
/-- LE_LINK: a node without outputs has no destination (R43). -/
theorem test_wf_link : (Instr.sink { nI 1 0 with dests := [dest0] }).wf = false := by decide
/-- LE_LINK: at most three destinations (R41). -/
theorem test_wf_dests : (Instr.iadd { nI 2 with dests := [dest0, dest0, dest0, dest0] }).wf = false := by decide
/-- A row that MOD selects: SVCTX with MOD 1 is SAVE, not HALT. -/
theorem test_wf_variant : (Instr.svctxHalt (nI 1 1)).wf = false ∧ (Instr.svctxSave (nI 1 1)).wf = true := by decide
theorem test_wf_select : (Instr.configSelect 8 0).wf = false ∧ (Instr.configSelect 0 20).wf = false ∧ (Instr.configSelect 7 19).wf = true := by decide
theorem test_wf_write : (Instr.configWrite 90 0 0).wf = false ∧ (Instr.configWrite 89 0 0).wf = true := by decide
theorem test_wf_quota : (Instr.quota 90 1).wf = false ∧ (Instr.quota 0 257).wf = false ∧ (Instr.quota 89 256).wf = true := by decide
theorem test_wf_elem : (Instr.haltLine 160 0).wf = false ∧ (Instr.refill 0 90).wf = false ∧ (Instr.emitResume 159 89).wf = true := by decide
theorem test_wf_inject : (Instr.inject 0 0 0 3).wf = false ∧ (Instr.inject 0 0 0 2).wf = true := by decide
theorem test_wf_slot : (Instr.spilledMatch 0 0 32).wf = false ∧ (Instr.firingPromotion 0 90 0).wf = false := by decide
theorem test_wf_die : (Instr.launchRecord 8).wf = false ∧ (Instr.dumpend 7).wf = true := by decide
theorem test_wf_core : (Instr.commandAppliedReport 8 0).wf = false ∧ (Instr.commandAppliedReport 0 160).wf = false := by decide
theorem test_wf_link_number : (Instr.trainok 50).wf = false ∧ (Instr.trainok 49).wf = true := by decide
theorem test_wf_router : (Instr.blockedTimer 160).wf = false ∧ (Instr.slipCapture 168).wf = false ∧ (Instr.slipWatchdog 9).wf = false := by decide
theorem test_wf_bar : (Instr.expire { coll := true, ctx := 64, scope := 0, inst := 0, ident := 0 }).wf = false ∧
    (Instr.expire { coll := true, ctx := 0, scope := 5, inst := 0, ident := 0 }).wf = false ∧
    (Instr.expire { coll := true, ctx := 0, scope := 0, inst := 0, ident := 16 }).wf = false := by decide

/-! ### Words written out from R32, R41, R44 and R49 -/

/-- Fabric: STEER, OPC 0x003 in [63:55], FMT 2 in [54:52], ARITY 2 in [51:50]; NDEST 2, node 1 port 0 and node 2 port 3. -/
theorem test_decode_steer : decodeTableWord 128 0x8000_0400_00B0_0000_01A8_0000_0000_0000 =
    some (.steer { nF .S 2 with dests := [{ node := 1, port := 0 }, { node := 2, port := 3 }] }) := by decide
/-- Integer: IADD, OPC 0x040, ARITY 2, MOD 100000 (32 bits); NDEST 1, node 5 port 1. -/
theorem test_decode_iadd : decodeTableWord 128 0x4000_1500_0000_0000_2008_0020_0000_0000 =
    some (.iadd (nI 2 0x20 0 [{ node := 5, port := 1 }])) := by decide
/-- Float: FADD, OPC 0x070, FMT 2, ARITY 2, IMMP, IMM the pattern of 1.0. -/
theorem test_decode_fadd : decodeTableWord 128 0x3828_0040_3F80_0000 = some (.fadd { nF .S 2 0 0x3F80_0000 with immp := true }) := by decide
/-- Conversion: CVTI, OPC 0x0A1, ARITY 1, MOD 100100 (to 32 bits, from 32 bits signed: MOD[2:1] is 2), IMM bit 0 saturates. -/
theorem test_decode_cvti : decodeTableWord 128 0x5084_0024_0000_0001 = some (.cvti (nI 1 0x24 1)) := by decide
/-- Special: FEXP, OPC 0x0B0, FMT 1 (D), ARITY 1, RM 2 in [44:42]. -/
theorem test_decode_fexp : decodeTableWord 128 0x5814_0800_0000_0000 = some (.fexp { nF .D 1 with rm := .rtz }) := by decide
/-- Jet: JGET, OPC 0x0C2, FMT 1, ARITY 1, LANE 01 in [49:48], MOD 2. -/
theorem test_decode_jget : decodeTableWord 128 0x6115_0002_0000_0000 = some (.jget { nF .D 1 2 with lane := .jet }) := by decide
/-- Kernel: TALLOC, OPC 0x0E1, ARITY 1, MOD 3, IMM 7. -/
theorem test_decode_talloc : decodeTableWord 128 0x7084_0003_0000_0007 = some (.talloc (nI 1 3 7)) := by decide
/-- Tile: TREF, OPC 0x100, FMT 2, ARITY 1, LANE 10, IMM 16. -/
theorem test_decode_tref : decodeTableWord 128 0x8026_0000_0000_0010 = some (.tref { nF .S 1 0 16 with lane := .tile }) := by decide
/-- Memory: LD, OPC 0x120, FMT 1, ARITY 1, IMM 8. -/
theorem test_decode_ld : decodeTableWord 128 0x9014_0000_0000_0008 = some (.ld (nF .D 1 0 8)) := by decide
/-- Queue: QPUT, OPC 0x160, FMT 0, ARITY 1, IMM 9 (pipe 9). -/
theorem test_decode_qput : decodeTableWord 128 0xB004_0000_0000_0009 = some (.qput (nI 1 0 9)) := by decide
/-- System: SVCTX, OPC 0x18D, ARITY 1, MOD 4 (DESTROY); CSRR of VIOLOG, OPC 0x182, IMM 0x041. -/
theorem test_decode_svctx : decodeTableWord 128 0xC684_0004_0000_0000 = some (.svctxDestroy (nI 1 4)) ∧
    decodeTableWord 128 0xC104_0000_0000_0041 = some (.csrrViolog (nI 1 0 0x41)) := by decide
/-- Selection: ARGMX, OPC 0x1A6, FMT 2, ARITY 1. -/
theorem test_decode_argmx : decodeTableWord 128 0xD324_0000_0000_0000 = some (.argmx (nF .S 1)) := by decide
/-- Command words: WRITE (TYPE 00), SELECT (01), CONTROL (10): QUOTA of element 3, 100 entries; EXTEND (11). -/
theorem test_decode_words : decodeTableWord 32 0x2414_1234 = some (.configWrite 72 0x14 0x1234) ∧
    decodeTableWord 32 0x4E60_0000 = some (.configSelect 3 19) ∧ decodeTableWord 32 0x9818_0064 = some (.quota 3 100) ∧
    decodeTableWord 32 0xC000_BEEF = some (.extend 0xBEEF) ∧ decodeTableWord 32 0x8C50_0000 = some (.drainreq 5) := by decide
/-- A reserved opcode and a reserved command are refused; reserved bits of a command word are ignored (R4). -/
theorem test_decode_refuses : decodeTableWord 128 0 = none ∧ decodeTableWord 32 0xBC00_0000 = none ∧
    decodeTableWord 32 0x4E60_0001 = some (.configSelect 3 19) := by decide

/-! ### Small states -/

/-- A token of one 32-bit element on a port. -/
def tokI (port : Nat) (v : Nat) : Tok := { port := BitVec.ofNat 2 port, data := leBytes 4 v }

/-- A token of one element of eight bytes on a port. -/
def tok8 (port : Nat) (v : Nat) : Tok := { port := BitVec.ofNat 2 port, data := leBytes 8 v }

/-- An error token of cause 1 made by node 0. -/
def tokErr (port : Nat) : Tok := { port := BitVec.ofNat 2 port, fmt := .X, data := leBytes 16 (2 ^ 8 + 1) }

/-- A matched set at element 0 of core 0. -/
def fir (inputs : List Tok) (len : Nat := 1) : Firing := { inputs := inputs, len := len }

def frame0 : Frame := { owner := { serial := 1, kernel := 0, replica := 0 }, kidx := 0, size := 64,
                        insts := [{ num := 0, space := 0, parent := none, window := 8 }] }

/-- Core 0 belongs to context 0 and holds one frame. PARTW gives 16 pages of frame store, two accumulator granules, four pages of
scratchpad and four of token buffer. -/
def core0 : Core := { owner := some 0, partw := 0x0404_0210, fsize := 64, fcount := 8, frames := [(0, some frame0)] }

/-- A state with a loaded matched set, in a context with SUP. -/
def st (f : Firing) : State := { firing := some f, fresh := 10, ctxs := [(0, { state := .running, sup := true })], cores := [(0, core0)] }

/-- A matched set of 1 to 32 iterations without error tokens, in a context with SUP, is loaded for every instruction and node. -/
theorem loaded_of {s : State} {f : Firing} (o : Nat) (n : Node) (h : s.firing = some f)
    (hf : (decide (1 ≤ f.len ∧ f.len ≤ 32) && f.inputs.all (fun t => !t.isErr)) = true) (hs : (s.ctx f.tag.ctx).sup = true) : Loaded o n s f := by
  simp only [Bool.and_eq_true, decide_eq_true_eq, List.all_eq_true, Bool.not_eq_true'] at hf
  exact { set := h, run := hf.1, clean := hf.2, allowed := fun _ => hs }

/-- The hypotheses `Loaded` and `Fires` are met for every opcode and node. -/
theorem witness_loaded (o : Nat) (n : Node) : Loaded o n (st (fir [tokI 0 5])) (fir [tokI 0 5]) ∧ Fires (st (fir [tokI 0 5])) (fir [tokI 0 5]) :=
  ⟨loaded_of o n rfl (by decide) rfl, { set := rfl, run := by decide }⟩

/-! ### Single steps -/

/-- The data of the tokens in the output buffer and the queue of waiting Emits of element 0 of core 0. -/
def outData (r : Host.Outcome State Fault Refusal) : Option (List (List Byte)) :=
  match r with
  | .next t => some (((t.elem 0 0).out ++ (t.elem 0 0).emitq).map fun o => o.tok.data)
  | _ => none

/-- An image whose output 0 has a destination. -/
def img0 (iw : Nat) : Slot := { iw := BitVec.ofNat 64 iw, lw := BitVec.ofNat 64 (2 ^ 62), dest0 := BitVec.ofNat 32 (2 ^ 31) }

def firAt (iw : Nat) (inputs : List Tok) (len : Nat := 1) : Firing := { inputs := inputs, len := len, img := img0 iw }

/-- R133: IADD wraps modulo 2^32. -/
theorem test_iadd_wraps : outData (exec (.iadd (nI 2)) (st (firAt 0 [tokI 0 0xFFFF_FFFF, tokI 1 2]))) = some [[1, 0, 0, 0]] := by decide
/-- R133: ISUB subtracts port 1 from port 0. -/
theorem test_isub_order : outData (exec (.isub (nI 2)) (st (firAt 0 [tokI 0 3, tokI 1 5]))) = some [[0xFE, 0xFF, 0xFF, 0xFF]] := by decide
/-- R135: IDIV truncates toward zero: −7 / 2 is −3. -/
theorem test_idiv_truncates : outData (exec (.idiv (nI 2)) (st (firAt 0 [tokI 0 0xFFFF_FFF9, tokI 1 2]))) = some [[0xFD, 0xFF, 0xFF, 0xFF]] := by decide
/-- R133: SAR of a negative value by 1, the shift modulo the width. -/
theorem test_sar_fills : outData (exec (.sar (nI 2)) (st (firAt 0 [tokI 0 0x8000_0000, tokI 1 33]))) = some [[0, 0, 0, 0xC0]] := by decide
/-- R133: CLZ of 1 is 31. -/
theorem test_clz : outData (exec (.clz (nI 1)) (st (firAt 0 [tokI 0 1]))) = some [[31, 0, 0, 0]] := by decide
/-- R137: 1.0 + 2^-24 in binary32 is a tie and rounds to 1.0, which is even. -/
theorem test_fadd_tie : outData (exec (.fadd (nF .S 2)) (st (firAt 0 [{ tokI 0 0x3F80_0000 with fmt := .S }, { tokI 1 0x3380_0000 with fmt := .S }]))) =
    some [[0, 0, 0x80, 0x3F]] := by decide
/-- R139: FMIN of −0 and +0 is −0. -/
theorem test_fmin_zeros : outData (exec (.fmin (nF .S 2)) (st (firAt 0 [{ tokI 0 0 with fmt := .S }, { tokI 1 0x8000_0000 with fmt := .S }]))) =
    some [[0, 0, 0, 0x80]] := by decide
/-- R144: CVTF of 2.5 in binary32 to an integer rounds to even: 2. -/
theorem test_cvtf_even : outData (exec (.cvtf (nF .S 1 0x21)) (st (firAt 0 [{ tokI 0 0x4020_0000 with fmt := .S }]))) = some [[2, 0, 0, 0]] := by decide
/-- R122: TGET gives CTX, DIE, FRAME, SPACE and ITER of the matched tag. -/
theorem test_tget : outData (exec (.tget (nI 1 0)) (st { firAt 0 [tokI 0 0] with tag := { space := 3, iter := 7 } })) =
    some [[0, 0, 7, 0, 3, 0, 0, 0]] := by decide
/-- R118: STEER sends an element whose predicate is zero to output 1, which has no destination here. -/
theorem test_steer_false : outData (exec (.steer (nI 2 0)) (st (firAt 0 [tokI 0 9, tokI 1 0]))) = some [] := by decide
theorem test_steer_true : outData (exec (.steer (nI 2 0)) (st (firAt 0 [tokI 0 9, tokI 1 1]))) = some [[9, 0, 0, 0]] := by decide
/-- R127: REDUCE by addition over a run of three. -/
theorem test_reduce_sum : outData (exec (.reduce (nI 1)) (st (firAt 0 [{ tokI 0 0 with run := 2, data := leBytes 4 1 ++ leBytes 4 2 ++ leBytes 4 4 }] 3))) =
    some [[7, 0, 0, 0]] := by decide
/-- R201: STSLOT writes slot IMM of the frame; LDSLOT gives it back. -/
theorem test_stslot : (match exec (.stslot (nI 1 0x20 5)) (st (firAt 0 [tokI 0 9])) with
    | .next t => (t.frame {}).map fun f => f.slots
    | _ => none) = some [(5, some 9)] := by decide
/-- R45: SVCTX without SUP is a PROT fault of the context (cause 3). -/
theorem test_svctx_prot : (match exec (.svctxQuery (nI 1 5)) { st (firAt 0 [tokI 0 0]) with ctxs := [(0, { state := .running })] } with
    | .next t => some (t.faults.map fun r => r.recd.cause, (t.ctx 0).state)
    | _ => none) = some ([3], .halting) := by decide
/-- R371: TRAP halts with cause 0x000A and the code of IMM. -/
theorem test_trap : (match exec (.trap (nI 1 0 77)) (st (firAt 0 [tokI 0 0])) with
    | .next t => some (t.faults.map fun r => (r.recd.cause, r.recd.code), (t.ctx 0).byFault)
    | _ => none) = some ([(0x000A, 77)], true) := by decide
/-- R372: CSRW of RMODE 3 is legal, of 0 raises IV and leaves the register. -/
theorem test_csrw : (match exec (.csrw (nI 1 0 0x010)) (st (firAt 0 [tok8 0 3])) with | .next t => some (t.ctx 0).csrs.rmode | _ => none) = some 3 ∧
    (match exec (.csrw (nI 1 0 0x010)) (st (firAt 0 [tok8 0 0])) with | .next t => some (t.ctx 0).csrs.rmode | _ => none) = some 1 := by decide
/-- R54: FFLAGS is cleared by ones. -/
theorem test_csrw_clears : (match exec (.csrwFflags (nI 1 0 0x012)) { st (firAt 0 [tok8 0 5]) with
      ctxs := [(0, { state := .running, sup := true, csrs := { fflags := 0x0F } })] } with
    | .next t => some (t.ctx 0).csrs.fflags | _ => none) = some 0x0A := by decide
/-- R254: an LD of eight bytes issues one access at the port's address plus the displacement, here −8. -/
theorem test_ld_displacement : (match exec (.ld (nF .D 1 0 0xFFFF_FFF8)) (st (firAt 0 [tok8 0 64])) with
    | .next t => some (t.ops.map fun o => o.accs.map fun a => (a.va, a.size, a.spm))
    | _ => none) = some [[(56, 8, false)]] := by decide
/-- R51: a WRITE in a region is staged; outside one it is discarded. -/
theorem test_write_staged : (match exec (.configWrite 3 0x15 7) { State.reset with stream := some (0, 0), feeds := [(0, { region := some 0, sel := some (0, 2) })] } with
    | .next t => some ((t.core 2).staged, (t.core 2).bad)
    | _ => none) = some ([(3, 0x15, 0, 7)], []) ∧
    (match exec (.configWrite 3 0x15 7) { State.reset with stream := some (0, 0) } with
    | .next t => some (t.core 2).staged
    | _ => none) = some [] := by decide
/-- R456: a clock step down from 16 to 15 sixteenths of 1,300 MHz; at 4 sixteenths, 325 MHz, none. -/
theorem test_clock_step : exec .clockStepDown State.reset = .next { State.reset with plat := { State.reset.plat with clock := 15 } } ∧
    exec .clockStepDown { State.reset with plat := { State.reset.plat with clock := 4 } } =
      .next { State.reset with plat := { State.reset.plat with clock := 4 } } := ⟨rfl, rfl⟩
/-- R410: an ERRBURST takes a Strand port from UP to RECOVERING. -/
theorem test_errburst : (match exec (.errburst 40) { State.reset with links := [(40, { state := .up, recent := List.replicate 8 0 })] } with
    | .next t => some ((t.link 40).state, (t.link 40).attempts)
    | _ => none) = some (.recovering, 1) := by decide
/-- R353: HALT_LINE stops an element of a context whose line is up, once. -/
theorem test_halt_line : (match exec (.haltLine 0 5) { State.reset with cycle := 9, cores := [(0, core0)], ctxs := [(0, { state := .halting, halt := some 8 })] } with
    | .next t => some ((t.elem 0 5).halted, (t.elem 0 6).halted)
    | _ => none) = some (some 9, none) := by decide
/-- A node without a matched set, and a command word outside a stream. -/
theorem test_stops : exec (.iadd (nI 2)) State.reset = .fault .noMatchedSet ∧ exec .configCommit State.reset = .fault .noStream := ⟨rfl, rfl⟩

/-! ### What the hypotheses of each obligation admit: one theorem for each, named after it -/

/-- Several elements of four bytes. -/
def tokR (port : Nat) (vs : List Nat) : Tok := { port := BitVec.ofNat 2 port, run := BitVec.ofNat 5 (vs.length - 1), data := vs.flatMap (leBytes 4) }

/-- One element of a float format. -/
def tokF (fmt : Fmt) (port v : Nat) : Tok := { port := BitVec.ofNat 2 port, fmt := fmt, data := leBytes fmt.size v }

/-- One jet of binary32 with the coefficients `cs`. -/
def tokJ (port : Nat) (cs : List Nat) : Tok :=
  { port := BitVec.ofNat 2 port, fmt := .S, jet := BitVec.ofNat 3 (cs.length - 1), data := cs.flatMap (leBytes 4) }

/-- Two integers, the first at the top of its range. -/
def F2 : Firing := fir [tokI 0 0xFFFF_FFFF, tokI 1 1]
/-- Three, for the rows of three ports. -/
def F3 : Firing := fir [tokI 0 0x8000_0000, tokI 1 0xFFFF_FFFF, tokI 2 32]
/-- A whole run of 32 elements. -/
def FRun : Firing := fir [tokR 0 (List.range 32), tokR 1 (List.replicate 32 1)] 32
/-- Two jets of order 1. -/
def FJet : Firing := fir [tokJ 0 [0x3F80_0000, 0x4000_0000], tokJ 1 [0x3F80_0000, 0x3F80_0000]]

/-- The small state under another frame 0. -/
def stF (fr : Frame) (f : Firing) : State := { st f with cores := [(0, { core0 with frames := [(0, some fr)] })] }

/-- Under a frame whose order cap is 7. -/
def stJ : State := stF { frame0 with jord := 7 } FJet

theorem loaded_stJ (o : Nat) (n : Node) : Loaded o n stJ FJet := loaded_of o n rfl (by decide) rfl
theorem loaded_stF (fr : Frame) (o : Nat) (n : Node) : Loaded o n (stF fr F2) F2 := loaded_of o n rfl (by decide) rfl

/-- A node over jets of binary32. -/
def nJ (arity mod : Nat) : Node := { nF .S arity mod with lane := .jet }

/-- An error token among its inputs. -/
def FErr : Firing := fir [tokI 0 5, tokErr 1]

theorem ld (o : Nat) (n : Node) (f : Firing) (hf : (decide (1 ≤ f.len ∧ f.len ≤ 32) && f.inputs.all (fun t => !t.isErr)) = true)
    (hs : ((st f).ctx f.tag.ctx).sup = true) : Loaded o n (st f) f := loaded_of o n rfl hf hs

theorem loaded_F2 (o : Nat) (n : Node) : Loaded o n (st F2) F2 := ld o n F2 (by decide) rfl
theorem loaded_F3 (o : Nat) (n : Node) : Loaded o n (st F3) F3 := ld o n F3 (by decide) rfl
theorem loaded_FRun (o : Nat) (n : Node) : Loaded o n (st FRun) FRun := ld o n FRun (by decide) rfl
theorem loaded_FJet (o : Nat) (n : Node) : Loaded o n (st FJet) FJet := ld o n FJet (by decide) rfl
theorem fires_FErr : Fires (st FErr) FErr := { set := rfl, run := by decide }

theorem witness_DecodeOfEncodeIsTheInstruction : (Instr.iadd (nI 2 0x20 0 [dest0])).wf = true ∧
    ∃ c, encode (.iadd (nI 2 0x20 0 [dest0])) = some c := ⟨by decide, _, rfl⟩

theorem witness_EncodeOfDecodeIsTheRecord : ∃ i, decodeNode (0x2008_0020_0000_0000#64).toNat (0x4000_1500_0000_0000#64).toNat = .ok i := ⟨_, rfl⟩

/-- A firing is fetched from its slot, a command word from the head of a stream, an event from the agenda. -/
theorem witness_StepRunsTheDecodedInstruction :
    (let s := State.reset.withFetchWord 128 0x4000_1500_0000_0000_2008_0020_0000_0000
     ∃ n e rest f i, s.agenda = .fire n e :: rest ∧ ({ s with agenda := rest } : State).nextFiring n e = some f ∧
       decodeNode (((s.elem n e).slot f.slot).iw.toNat) (((s.elem n e).slot f.slot).lw.toNat) = .ok i) ∧
    (let s := State.reset.withFetchWord 32 0x8400_0000
     ∃ b n rest w t, s.agenda = .word b n :: rest ∧ ({ s with agenda := rest } : State).takeWord b n = some (w, t) ∧
       decodeWord w.toNat = .ok .configCommit) ∧
    encode (.trainok 49) = none :=
  ⟨⟨0, _, [], _, _, rfl, rfl, rfl⟩, ⟨0, 0, [], _, _, rfl, rfl, rfl⟩, rfl⟩

theorem witness_MemoryStaysCanonical : Memory.wf State.reset.mem = true ∧ Memory.wf [((0 : Nat), (1 : Byte)), (5, 7)] = true ∧
    ∃ t, step { State.reset with agenda := [.tick 1] } = .next t := ⟨by decide, by decide, _, rfl⟩

theorem witness_ErrorTokensAreForwarded : opcode (.iadd (nI 2)) = some 0x040 ∧ nodeOf (.iadd (nI 2)) = some (nI 2) ∧
    (st FErr).firing = some FErr ∧ ((st FErr).fireOf 0x040 (nI 2) FErr).firstErr (st FErr).consumed = some (tokErr 1) := by decide

theorem witness_SupervisorFormsNeedSup : opcode (.dump (nI 1 0)) = some 0x18F ∧ nodeOf (.dump (nI 1 0)) = some (nI 1 0) ∧
    (let s := { st F2 with ctxs := [(0, { state := .running })] }
     s.firing = some F2 ∧ (∀ t ∈ F2.inputs, t.isErr = false) ∧ (s.fireOf 0x18F (nI 1 0) F2).needsSup = true ∧ (s.ctx 0).sup = false) ∧
    disposition (0xF955 : BitVec 16) clsPROT = 3 := by decide

/-- A class acts: raised, at coefficient 0 or where JTRAP names it. -/
def acting (cap : Capture) (fl c : Nat) : Bool :=
  decide (c < 8) && (List.range 8).any fun j => bitOf fl (8 * j + c) && (j == 0 || (decide (c < 5) && bitOf cap.jtrap.toNat (5 * j + c)))

/-- HALT wins over TOKEN; TOKEN alone; IV at coefficient 1, which JTRAP does not name, acts not at all. -/
theorem witness_DispositionsDecideTheEnd :
    (acting {} (flag clsPROT 0 + flag clsFMT 0) clsPROT = true ∧ disposition ({} : Capture).exc clsPROT = 3) ∧
    (let c : Capture := { exc := 0x0802 }
     acting c (flag clsIV 0 + flag clsFMT 0) 0 = true ∧ disposition c.exc 0 = 2 ∧ ∀ k < 8, (acting c (flag clsIV 0 + flag clsFMT 0) k && disposition c.exc k == 3) = false) ∧
    ∀ k < 8, (acting {} (flag 0 1) k && decide (2 ≤ disposition ({} : Capture).exc k)) = false := by decide

/-- An empty output buffer, one with 13 and one with all sixteen entries. -/
theorem witness_EmittedTokensTakeOneEntry :
    let full (k : Nat) : State := { State.reset with elems := [(elemKey 0 0, { out := List.replicate k { id := 0, tok := {}, dests := [], sent := [] } })] }
    ((full 13).elem 0 0).out.length < 14 ∧ 16 ≤ ((full 16).elem 0 0).out.length ∧ ((full 16).elem 0 0).emitq = [] := by decide

theorem witness_ValueFiringsOnlyEmit : (st F2).firing = some F2 ∧ F2.placed ∧ ∃ t, exec (.iadd (nI 2)) (st F2) = .next t :=
  ⟨rfl, ⟨by decide, by decide⟩, _, rfl⟩

/-- Plain data; a jet under a K of 0 and under one of 7; a tag that RETAG writes. -/
theorem witness_FabricMovesKeepTheirData : Loaded 0x001 (nI 1 0) (st F2) F2 ∧
    F2.inputs.find? (·.port.toNat == 0) = some (tokI 0 0xFFFF_FFFF) ∧
    (let us (j : Nat) : Tok := if j = 0 then tokI 0 0xFFFF_FFFF else tokI 1 1
     ∀ j < (nI 2 0).arity.toNat, F2.inputs.find? (·.port.toNat == j) = some (us j)) ∧
    (let f := fir [tokI 0 5, tok8 1 (7 * 2 ^ 54 + 3 * 2 ^ 32)]
     Loaded 0x00B (nI 2 0xF) (st f) f ∧ f.inputs.find? (·.port.toNat == 1) = some (tok8 1 (7 * 2 ^ 54 + 3 * 2 ^ 32)) ∧
     (tok8 1 (7 * 2 ^ 54 + 3 * 2 ^ 32)).data.length = 8 ∧ (tok8 1 (7 * 2 ^ 54 + 3 * 2 ^ 32)).run = 0) ∧
    field (7 * 2 ^ 54 + 3 * 2 ^ 32) 57 54 < 8 ∧
    (∀ s ∈ [st FJet, stJ], (s.fireOf 0x001 (nJ 1 0) FJet).port? 0 = some (tokJ 0 [0x3F80_0000, 0x4000_0000]) ∧ 0 ∈ (s.fireOf 0x001 (nJ 1 0) FJet).dataPorts) ∧
    ((st FJet).fireOf 0x001 (nJ 1 0) FJet).capK = 0 ∧ (stJ.fireOf 0x001 (nJ 1 0) FJet).capK = 7 :=
  ⟨loaded_F2 _ _, rfl, by decide, ⟨ld _ _ _ (by decide) rfl, rfl, by decide, rfl⟩, by decide⟩

/-- The state `st f` in a context whose EXCMODE only flags. -/
def stFlag (f : Firing) : State := { st f with ctxs := [(0, { state := .running, sup := true, csrs := { excmode := 0x5555 } })] }

/-- A mover goes on with plain data, and with a jet under a K of 0 where FMT only flags; under the reset EXCMODE FMT ends it. -/
theorem moves_cases : Moves 0x004 (nI 1 0) (st FErr) FErr ∧ Moves 0x004 (nJ 1 0) (stFlag FJet) FJet ∧
    ((stFlag FJet).fireOf 0x004 (nJ 1 0) FJet).jetFlag ≠ 0 ∧ ¬Moves 0x004 (nJ 1 0) (st FJet) FJet := by
  unfold Moves; decide

/-- A whole run; a MERGE of plain data, and of a jet under a K of 0. -/
theorem witness_FabricRoutesElements : (∀ o n, Loaded o n (st FRun) FRun) ∧ (nI 3 0).lane ≠ .jet ∧ Fires (st FErr) FErr ∧
    Moves 0x004 (nI 1 0) (st FErr) FErr ∧ ¬Moves 0x004 (nJ 1 0) (st FJet) FJet := ⟨loaded_FRun, nofun, fires_FErr, moves_cases.1, moves_cases.2.2.2⟩

theorem witness_FabricMakesTokens : (∀ o n, Loaded o n (st FJet) FJet) ∧ ({ nF .S 0 with lane := .jet } : Node).lane = .jet ∧
    ({ nF .S 0 with lane := .jet } : Node).fmt ≠ .I ∧
    Fires (st (fir [tokErr 0])) (fir [tokErr 0]) ∧ (((st (fir [tokErr 0])).fireOf 0x016 (nI 1 1) (fir [tokErr 0])).port 0).isErr = true ∧
    (((st F2).fireOf 0x016 (nI 1 0) F2).port 0).isErr = false ∧ (∀ o, Moves o (nI 1 0) (st F2) F2) ∧
    (∀ o ∈ [0x008, 0x016, 0x00F], ¬Moves o (nJ 1 0) (st FJet) FJet) ∧ (st FJet).frame FJet.tag = some frame0 ∧
    (let f := fir [tokI 0 1, tokR 0 [2, 3, 4]] 4
     Loaded 0x00F (nI 1 0) (st f) f ∧ f.inputs ≠ [] ∧ (∀ t ∈ f.inputs, t.fmt = .I ∧ t.esize = 4 ∧ ((nI 1 0).lane ≠ .jet → t.jet = 0)) ∧
     (f.inputs.map Tok.len).sum = f.len ∧ Moves 0x00F (nI 1 0) (st f) f) :=
  ⟨loaded_FJet, rfl, nofun, { set := rfl, run := by decide }, by decide, by decide, fun o => Moves.plain o _ _ _ nofun, by unfold Moves; decide, rfl,
    ld _ _ _ (by decide) rfl, by decide, by decide, by decide, Moves.plain _ _ _ _ nofun⟩

theorem witness_FoldsAreLeftToRight :
    let f := fir [tokR 0 (List.range 32)] 32
    (nI 1).fmt = .I ∧ (nI 1).lane = .value ∧ bitOf (im (nI 1)) 5 = false ∧ f.inputs = [tokR 0 (List.range 32)] ∧
    (tokR 0 (List.range 32)).len = f.len ∧ (tokR 0 (List.range 32)).isErr = false ∧ Loaded 0x011 (nI 1) (st f) f ∧ Loaded 0x012 (nI 1) (st f) f :=
  ⟨rfl, rfl, by decide, rfl, by decide, by decide, ld _ _ _ (by decide) rfl, ld _ _ _ (by decide) rfl⟩

/-- A group with an error token in its second place, one without, and a SCAN that gets one. -/
theorem witness_GroupFoldsEmitOnce :
    let n := nI 1 0x20 0x20
    isGroup n = true ∧ ((st (fir [tokI 0 1, tokErr 0])).fireOf 0x011 n (fir [tokI 0 1, tokErr 0])).needsSup = false ∧
    (fir [tokI 0 1, tokErr 0]).inputs.filter (·.port == 0) = [tokI 0 1, tokErr 0] ∧ (tokI 0 1).isErr = false ∧ (tokErr 0).isErr = true ∧
    (∀ u ∈ (fir [tokI 0 1, tokI 0 2]).inputs.filter (·.port == 0), u.isErr = false) ∧
    (let f (o : TagOp) : State × Firing × Node := (st (fir [tokErr 0]), fir [tokErr 0], { n with tagop := o })
     ∀ o ∈ [TagOp.keep, .enter], let (s, f, n) := f o
       (s.fireOf 0x012 n f).needsSup = false ∧ (s.fireOf 0x012 n f).port 0 = tokErr 0 ∧
       -- the reduced tag of a window that has no child instance
       (s.fireOf 0x012 n f).emitsAll s.consumed (one 0 { (s.fireOf 0x012 n f).tok .X 1 0 (tokErr 0).data with tag := (tokErr 0).tag }) = (o == .keep)) := by
  decide

theorem witness_IntegerResultsModuloWidth : ∀ o n, Loaded o n (st F3) F3 := loaded_F3

/-- The one quotient that overflows, and a division by zero. -/
theorem witness_IntegerCornerCases : (∀ o n, Loaded o n (st F3) F3) ∧ ∀ o n, Loaded o n (st (fir [tokI 0 7, tokI 1 0, tokI 2 0])) (fir [tokI 0 7, tokI 1 0, tokI 2 0]) :=
  ⟨loaded_F3, fun o n => ld o n _ (by decide) rfl⟩

/-- BFX of one bit and of the whole width, BFI of nothing and up to the last bit. -/
theorem witness_LogicResultsBitByBit : (∀ o n, Loaded o n (st F2) F2) ∧
    (∀ i ∈ [0x0100, 0x2000, 0x011F], 1 ≤ field (im (nI 1 0x20 i)) 13 8 ∧ field (im (nI 1 0x20 i)) 5 0 + field (im (nI 1 0x20 i)) 13 8 ≤ intWidth (nI 1 0x20 i)) ∧
    ∀ i ∈ [0x0000, 0x001F, 0x1F01], field (im (nI 2 0x20 i)) 5 0 + field (im (nI 2 0x20 i)) 13 8 ≤ intWidth (nI 2 0x20 i) :=
  ⟨loaded_F2, by decide, by decide⟩

theorem witness_FloatResultsFollowTheirSeries : (∀ o n, Loaded o n (st FJet) FJet) ∧
    (0 ∈ [0, 1] ∧ ((st FJet).fireOf 0x070 { nF .S 2 with lane := .jet } FJet).ordOf 0 ≠ 0) := ⟨loaded_FJet, by decide⟩

/-- The least subnormal, minus zero, the greatest finite value and infinity of each format. -/
theorem witness_RepresentableValuesRoundToThemselves : ∀ f ∈ [Fmt.D, .S, .H, .B, .Q],
    ∀ p ∈ [1, 2 ^ (fbits f - 1), 2 ^ (fbits f - 1) - 2 ^ (fbits f - 4)], p < 2 ^ fbits f ∧ isNanPat f p = false := by decide

theorem witness_PlainFloatResultsAreRounded :
    let S : Ser := { fmt := .Q, rm := .sr, draw := fun _ => 2 ^ 32 - 1 }
    S.fmt ∈ [Fmt.D, .S, .H, .B, .Q] ∧ S.draw 0 < 2 ^ 32 ∧ isNanPat S.fmt (defNan .Q) = true := by decide

theorem witness_SeriesSumRules :
    let S : Ser := { fmt := .D, rm := .rne, draw := fun _ => 0 }
    S.fmt ∈ [Fmt.D, .S, .H, .B, .Q] ∧ (∀ p ∈ [0, 2 ^ 64 - 1], p < 2 ^ fbits S.fmt) ∧ 1 < [0, 2 ^ 64 - 1].length ∧ 7 ≤ 7 := by decide

/-- Numbers, a quiet and a signalling NaN, −1 below 0. -/
theorem witness_ComparisonsAndClasses : (∀ o n, Loaded o n (st FJet) FJet) ∧ isNanPat .S 0x7FC0_0000 = true ∧ isSig .S 0x7F80_0001 = true ∧
    isNanPat .S 0xBF80_0000 = false ∧ isNanPat .S 0 = false ∧ (cmpFlt .S 2 0xBF80_0000 0).1 = 1 ∧ isNanPat .H 0x7E00 = true :=
  ⟨loaded_FJet, by decide⟩

theorem witness_ConversionsRoundOnce :
    let f (t : Tok) := fir [t]
    (Loaded 0x0A0 (nF .S 1) (st (f (tokF .S 0 1))) (f (tokF .S 0 1)) ∧ Loaded 0x0A0 (nF .S 1) (st (f (tokF .G 0 1))) (f (tokF .G 0 1)) ∧
      Loaded 0x0A0 (nF .S 1) (st (f (tokF .D 0 (2 ^ 64 - 1)))) (f (tokF .D 0 (2 ^ 64 - 1)))) ∧
    (tokF .S 0 1).jet = 0 ∧ (tokF .S 0 1).fmt = (nF .S 1).fmt ∧ (tokF .G 0 1).fmt ≠ (nF .S 1).fmt ∧ (tokF .D 0 (2 ^ 64 - 1)).fmt ≠ .G ∧
    isNanPat .D (2 ^ 64 - 1) = true ∧ valueOf .S 0xFF80_0000 = .inf true ∧
    valueOf .S 0xC020_0000 = .num true 0x00A0_0000 (-22) false ∧ isNanPat .H 1 = false ∧ (∀ o n, Loaded o n (st F2) F2) ∧
    bitOf (md (nF .S 1 0x21)) 0 = true ∧ bitOf (md (nF .S 1 0x20)) 0 = false :=
  ⟨⟨ld _ _ _ (by decide) rfl, ld _ _ _ (by decide) rfl, ld _ _ _ (by decide) rfl⟩, rfl, rfl, nofun, nofun, by decide, by decide, by decide, by decide, loaded_F2, by decide⟩

/-- GUNPK of a block with a good and of one with a bad scale; UNP3 of 242 and 243; NPACK of eight elements and of one; NUNPK of four; MOVB
of 32 elements and of 33. -/
theorem witness_PackingsKeepTheirLayout : (∀ o n, Loaded o n (st FRun) FRun) ∧ (∀ o n, Loaded o n (st F2) F2) ∧
    FRun.tag.iter.toNat % 8 = 0 ∧ FRun.len % 8 = 0 ∧ F2.len % 8 ≠ 0 ∧
    (let f := fir [tokR 0 [1, 2, 3, 4]] 4
     Loaded 0x0A7 (nI 1) (st f) f ∧ f.len ≤ 4) ∧
    gExp (255 :: List.replicate 15 0) = 255 ∧ gExp (254 :: List.replicate 15 0) ≠ 255 ∧
    (let g (k : Nat) := fir [{ tokI 0 0 with data := List.replicate k 0 }]
     let d (k : Nat) := (((st (g k)).fireOf 0x0A8 (nI 1 0) (g k)).port 0).data
     (d 32).length % nodeSize (nI 1 0) = 0 ∧ 0 < (d 32).length ∧ (d 32).length / nodeSize (nI 1 0) ≤ 32 ∧ 0 < nodeSize (nI 1 0) ∧
     32 < (d 33).length / nodeSize (nI 1 0) ∧ (d 3).length % nodeSize (nI 1 0x18) ≠ 0) :=
  ⟨loaded_FRun, loaded_F2, rfl, rfl, by decide, ⟨ld _ _ _ (by decide) rfl, by decide⟩, by decide⟩

/-- K is 0 and 7, the jet's order 1; the number in MOD below, at and above both. -/
theorem witness_JetShapesFollowTheOrder : (∀ o n, Loaded o n (st FJet) FJet) ∧ (∀ o n, Loaded o n stJ FJet) ∧
    ((st FJet).fireOf 0 (nJ 1 0) FJet).capK = 0 ∧ (stJ.fireOf 0 (nJ 1 0) FJet).capK = 7 ∧ ((stJ.fireOf 0 (nJ 1 0) FJet).port 0).jet = 1 ∧
    field (md (nJ 1 1)) 2 0 = 1 ∧ bitOf (md (nJ 1 1)) 3 = false ∧ field (md (nJ 1 2)) 2 0 = 2 ∧ field (md (nJ 1 7)) 2 0 = 7 ∧
    (let f := fir [tokJ 0 [1, 2, 3]]
     Loaded 0x0C2 (nJ 1 0xA) (stF { frame0 with jord := 7 } f) f ∧ ((stJ.fireOf 0 (nJ 1 0xA) f).port 0).jet = 2 ∧
     bitOf (md (nJ 1 0xA)) 3 = true ∧ field (md (nJ 1 0xA)) 2 0 = 2) :=
  ⟨loaded_FJet, loaded_stJ, by decide, by decide, by decide, rfl, by decide, rfl, rfl, loaded_of _ _ rfl (by decide) rfl, by decide⟩

theorem witness_JetCalculusIsTermwise : (∀ o n, Loaded o n stJ FJet) ∧ 0 < ((stJ.fireOf 0 (nJ 2 0) FJet).port 0).jet.toNat ∧
    0 < (stJ.fireOf 0 (nJ 2 0) FJet).capK ∧ (∀ o n, Loaded o n (st FJet) FJet) := ⟨loaded_stJ, by decide, by decide, loaded_FJet⟩

theorem witness_JetFlagsAreReadAndCleared : ∀ o n, Loaded o n (st F2) F2 := loaded_F2

theorem witness_SelectionsOverTokens : (∀ o n, Loaded o n (st F2) F2) ∧ (nI 0).fmt ∈ [Fmt.I, .D, .S] ∧
    (let u := tokR 0 [3, 7, 7]
     Loaded 0x1A6 (nI 1) (st (fir [u] 3)) (fir [u] 3) ∧ isGroup (nI 1) = false ∧ u.port = 0) ∧
    (let f := fir [tokF .S 0 0x3F80_0000, tokF .S 1 0x3F80_0000]
     let g := fir [tokF .S 0 0x3F80_0000, tokF .S 1 0xBF80_0000]
     Loaded 0x1A5 (nF .S 2) (st f) f ∧ tempBad .S ((st f).fireOf 0x1A5 (nF .S 2) f).smaxTemp = none ∧
     Loaded 0x1A5 (nF .S 2) (st g) g ∧ tempBad .S ((st g).fireOf 0x1A5 (nF .S 2) g).smaxTemp = some true ∧
     verdict { exc := 0 } (flag clsIV 0) = .go) ∧
    (Loaded 0x1A1 (nI 2) (st FRun) FRun ∧ FRun.inputs.find? (·.port.toNat == 0) = some (tokR 0 (List.range 32))) :=
  ⟨loaded_F2, by decide, ⟨ld _ _ _ (by decide) rfl, by decide, rfl⟩,
    ⟨ld _ _ _ (by decide) rfl, by decide, ld _ _ _ (by decide) rfl, by decide, by decide⟩, loaded_FRun _ _, by decide⟩

/-- An instance of window 8 that has granted `k` iterations, all of them live. -/
def inst8 (k : Nat) : Inst :=
  { num := 0, space := 0, parent := some (0, 0), window := 8, next := BitVec.ofNat 16 k, live := (List.range k).map (BitVec.ofNat 16), grants := k }

def frI (i : Inst) : Frame := { frame0 with insts := [i] }

/-- A free instance number and none; a request of the whole window, one past it, one that waits; a live, a dead iteration; a close with
and without live iterations. -/
theorem witness_TagSpacesFollowTheWindow : (∀ fr o n, Loaded o n (stF fr F2) F2) ∧ (stF frame0 F2).frame F2.tag = some frame0 ∧ frame0.ended = false ∧
    (∃ k ks, (stF frame0 F2).consumed.freeInsts F2.tag frame0 = k :: ks) ∧
    (let i := inst8 0
     (frI i).designate 0 0 0 = some i ∧ i.window < 9 ∧ 8 ≤ i.window ∧ i.state = .open ∧ i.waits = [] ∧ i.grants? 8 = true ∧
     (stF (frI i) F2).halted 0 = false ∧ (frI i).inst 0 = some i) ∧
    (inst8 1).grants? 8 = false ∧ (frI (inst8 1)).inst 0 = some (inst8 1) ∧ (0 : BitVec 16) ∈ (inst8 1).live ∧ (0 : BitVec 16) ∉ (inst8 0).live ∧
    (inst8 1).state ≠ .closing ∧ (inst8 1).live ≠ [] ∧ (inst8 0).live = [] ∧ (inst8 0).parent = some (0, 0) ∧ ∀ o ∈ (stF frame0 F2).ops, o.id < (stF frame0 F2).fresh :=
  ⟨loaded_stF, by decide, rfl, ⟨_, _, rfl⟩, by decide⟩

/-- No free instance number: 255 instances are open. -/
theorem witness_TagSpacesFollowTheWindow_full : (st F2).freeInsts {} { frame0 with insts := (List.range 256).map fun k => { inst8 0 with num := k } } = [] := by
  decide +kernel

/-- Slots 62 and 63 of a frame of 64: present and absent; slot 64 is outside; a frame that has ended; a firing that moves its data, and a jet
that a K of 0 stops. -/
theorem witness_FrameSlotsHoldTheirElements :
    let fr := { frame0 with slots := [(63, some 9)] }
    let s := stF fr F2
    (∀ o n, Loaded o n s F2) ∧ s.frame F2.tag = some fr ∧ fr.size = 64 ∧ (Assoc.get none fr.slots 63).isSome = true ∧
    Assoc.get none fr.slots 62 = none ∧
    (let p : Op := { id := 5, kind := .slotRead, fir := F2, instr := nI 1 0x20 63, opc := 0x0E4, cap := {} }
     ({ s with ops := [p] } : State).findOp p.id = some p ∧ ({ s with ops := [p] } : State).halted F2.tag.ctx = false) ∧
    s.retired F2.tag = false ∧ (stF { fr with ended := true } F2).retired F2.tag = true ∧ Moves 0x0E5 (nI 1) s F2 ∧
    ¬Moves 0x0E5 (nJ 1 0) (st FJet) FJet := by
  refine ⟨loaded_stF _, ?_⟩
  unfold Moves
  decide

/-! ### A kernel instance and its group -/

def kern0 : Kernel := { first := 0, count := 1, framesz := 8, spaces := [{ wlog := 3, parent := none, func := false }],
                        ports := [{ out := false, rate := 1, pipe := 0, node := 0, port := 0 }, { out := true, rate := 1, pipe := 1, node := 0, port := 0 }],
                        exc := 0xF955, excv := false, cls := 3, jord := 0, unchecked := false, main := 0, aff := false, lowat := 1, hiwat := 2, repl := 2, enabled := [0], dirty := true }

def kinst0 : KInst := { kernel := 0, replica := 0, n := 0, state := .resident, nodes := [(0, 0, 0)] }

/-- An entry of a pipe, of 4-byte elements. -/
def ent (seq replica v : Nat) : PEntry := { seq := seq, tok := tokI 0 v, replica := replica, since := 0 }

def pipe0 : Pipe := { state := .open, cap := 4, prod := 1, entries := [ent 3 0 7, ent 4 1 8] }

def group0 : Group := { serial := 1, die := 0, number := 0, ctx := 0, words := List.replicate 16 0, state := .running, base := 1, cls := 2,
                        kernels := [kern0], insts := [kinst0], pipes := [pipe0, { state := .empty, cap := 4, prod := 2 }] }

/-- A matched set at a slot of that instance, in frame 0. -/
def stG (g : Group) (f : Firing) : State := { st f with groups := [g], cycle := 300 }

theorem loaded_stG (g : Group) (o : Nat) (n : Node) : Loaded o n (stG g F2) F2 := loaded_of o n rfl (by decide) rfl

/-- A frame that frame 0 called. -/
def callee0 : Frame := { frame0 with ret := some (0, 0, 0), root := 0 }

/-- Free frames and a core whose every frame is reserved by others; a live callee's frame, one that has ended and one that is none; a firing
that moves its data; room at an instance, and sixteen requests. -/
theorem witness_CalleeFramesCarryTheReturnTag : (∃ k ks, (st F2).consumed.freeFrames 0 = k :: ks) ∧ (∀ fr o n, Loaded o n (stF fr F2) F2) ∧
    (st F2).consumed.mayCall 0 frame0 = true ∧ ({ st F2 with cores := [(0, { core0 with fcount := 1 })] } : State).consumed.mayCall 0 frame0 = false ∧
    Moves 0x0E8 (nI 2) (st F2) F2 ∧ Moves 0x0E9 (nI 1) (st F2) F2 ∧ Moves 0x0ED (nI 1 0) (stG group0 F2) F2 ∧
    (let s := { st F2 with cores := [(0, { core0 with frames := [(0, some frame0), (1, some callee0)] })] }
     s.frame { frame := 1 } = some callee0 ∧ callee0.ended = false ∧ callee0.ret = some (0, 0, 0) ∧ s.frame { frame := 2 } = none ∧
     Tag.ofBits (({ frame := 1 : Tag }).bits * 65536 >>> 16) = { frame := 1 }) ∧
    frame0.ret = none ∧ (stF callee0 F2).frame F2.tag = some callee0 ∧
    (Fires (stG group0 F2) F2 ∧ ((stG group0 F2).fireOf 0x0ED (nI 1 0) F2).own (stG group0 F2).consumed = some (group0, kern0, kinst0) ∧
      kinst0.fires.length < 16 ∧
      (let i := { kinst0 with fires := List.replicate 16 (0, 0, tokI 0 0) }
       let g := { group0 with insts := [i] }
       ((stG g F2).fireOf 0x0ED (nI 1 0) F2).own (stG g F2).consumed = some (g, kern0, i) ∧ 16 ≤ i.fires.length)) :=
  ⟨⟨_, _, rfl⟩, loaded_stF, by decide, by decide, by unfold Moves; decide, by unfold Moves; decide, by unfold Moves; decide, by decide, rfl,
    by decide, { set := rfl, run := by decide }, by decide⟩

/-- An activation that ends, one of a callee, one armed; an instance that is ready through a request of FIRE, and one that is not. -/
theorem witness_ActivationsStartAndEndOnce : (∀ fr o n, Loaded o n (stF fr F2) F2) ∧ (∀ fr, (stF fr F2).frame F2.tag = some fr) ∧ frame0.ended = false ∧ frame0.ret = none ∧ frame0.root = F2.tag.fnum ∧
    F2.tag.core = F2.n ∧ F2.placed ∧ callee0.ret ≠ none ∧ ({ frame0 with armed := some 5 } : Frame).armed = some 5 ∧
    (let i := { kinst0 with fires := [(0, 0, tokI 0 0)] }
     let k := { kern0 with ports := [] }
     let g := { group0 with kernels := [k], insts := [i] }
     let id : InstId := { serial := 1, kernel := 0, replica := 0 }
     (stG g F2).group id.serial = some g ∧ (g.insts.find? fun j => j.kernel == id.kernel && j.replica == id.replica) = some i ∧
     g.kernels[i.kernel]? = some k ∧ (stG g F2).ready? g i = true ∧ (∃ f fs, (stG g F2).freeFrames i.n = f :: fs) ∧
     (stG group0 F2).ready? { group0 with pipes := [{ pipe0 with entries := [] }] } kinst0 = false) :=
  ⟨loaded_stF, fun _ => rfl, rfl, rfl, rfl, rfl, ⟨by decide, by decide⟩, nofun, rfl, rfl, rfl, rfl, by decide, ⟨_, _, rfl⟩, by decide⟩

/-! ### Tiles -/

/-- A reference token. -/
def tokT (fmt : Fmt) (port w0 w1 : Nat) : Tok := { port := BitVec.ofNat 2 port, fmt := fmt, data := leBytes 8 w0 ++ leBytes 8 w1 }

/-- One accumulator block at the start of the store, and one in the last place of its two granules (blocks 0 and 15). -/
def accR (port off : Nat) : Tok := tokT .D port (2 ^ 62 + off) 0

/-- An operand of 4 rows by 4 columns of binary64, a row every 32 bytes. -/
def opdR (port base : Nat) : Tok := tokT .D port (3 * 2 ^ 46 + 3 * 2 ^ 36 + base) 32

def nT (arity : Nat) (mod : Nat := 0) (imm : Nat := 0) : Node := { nF .D arity mod imm with lane := .tile }

def FAcc : Firing := fir [accR 0 (15 * 8192), tokF .D 1 (2 ^ 64 - 1)]
def FOpd : Firing := fir [opdR 0 (4 * 65536 - 128)]
def FMma : Firing := fir [opdR 0 0, opdR 1 128, accR 2 0]

theorem witness_TileReferencesAreMadeAndCut : (∀ o n, Loaded o n (st F2) F2) ∧ verdict {} (flag clsFMT 0) = .halt 0x000D ∧
    verdict {} 0 = .go ∧ Loaded 0x109 (nT 1) (st FOpd) FOpd ∧
    (let r := Ref.ofTok (opdR 0 (4 * 65536 - 128))
     bitOf r.w0 62 = false ∧ r.fmt = (nT 1).fmt ∧ r.operandForm (spltElems (nT 1)) = true ∧ (st FOpd).consumed.outside 0 r (spltElems (nT 1)) = none ∧
     bitOf (md (nT 1)) 0 = false ∧ bitOf (md (nT 1 1)) 0 = true ∧ (im (nT 1 1 63) + 1) % 64 = 0) ∧
    Loaded 0x109 (nT 1 0 31) (st FAcc) FAcc ∧
    (let r := Ref.ofTok (accR 0 (15 * 8192))
     bitOf r.w0 62 = true ∧ r.accForm = true ∧ (st FAcc).consumed.accOutside 0 r = false ∧ field ((st FAcc).core 0).partw.toNat 14 8 ≤ 2 ∧
     (im (nT 1 0 31) + 1) % 32 = 0 ∧ (im (nT 1 0 32) + 1) % 32 ≠ 0) :=
  ⟨loaded_F2, by decide, by decide, ld _ _ _ (by decide) rfl, by decide, ld _ _ _ (by decide) rfl, by decide⟩

/-- The last block of the store; a row marked and one not; a row past the tile; a block that an ACCZ zeroes last; the first and the last block
of a row of two that an ACCRD reads. -/
theorem witness_AccumulatorTilesAreReadAndWritten :
    let r := Ref.ofTok (accR 0 (15 * 8192))
    Loaded 0x106 (nT 2) (st FAcc) FAcc ∧ Loaded 0x107 (nT 2) (st FAcc) FAcc ∧ Loaded 0x105 (nT 2) (st FAcc) FAcc ∧
    r.accForm = true ∧ r.fmt = (nT 2).fmt ∧ (st FAcc).consumed.accOutside 0 r = false ∧ im (nT 2) ≤ r.jet ∧
    (({ marks := 1 } : AccBlock).marks.getLsbD 0 = true ∧ ({ marks := 1 } : AccBlock).marks.getLsbD 31 = false) ∧
    (field (im (nT 2 0 31)) 6 0 < 32 * r.mb ∧ field (im (nT 2 0 31)) 8 7 < r.nb ∧ field (im (nT 2 0 31)) 11 9 ≤ r.jet) ∧ 32 * r.mb ≤ field (im (nT 2 0 32)) 6 0 ∧
    (let o : Op := { id := 5, kind := .matrix, fir := FAcc, instr := nT 2, opc := 0x105, cap := {}, st := .active }
     let s := { st FAcc with ops := [o] }
     s.findOp o.id = some o ∧ o.outs = [] ∧ s.opRuns o = true ∧ r.blocks[o.book]? = some 15 ∧ r.blocks.length ≤ o.book + 1 ∧
     (s.accBlock 0 15).state ≠ .draining) ∧
    (let o (b : Nat) (vs : List Nat) : Op := { id := 5, kind := .matrix, fir := FAcc, instr := nT 2, opc := 0x106, cap := {}, st := .active, book := b, vals := vs }
     let s (b : Nat) (vs : List Nat) : State := { st FAcc with ops := [o b vs] }
     (s 0 []).opRuns (o 0 []) = true ∧ (o 0 []).book = 0 * 2 + 0 ∧ (o 0 []).vals.length = 1056 * 0 ∧ 0 + 1 < 2 ∧
     (o 1 (List.replicate 1056 0)).book = 0 * 2 + 1 ∧ (o 1 (List.replicate 1056 0)).vals.length = 1056 * 1 ∧ 1 + 1 = 2) := by
  refine ⟨ld _ _ _ (by decide) rfl, ld _ _ _ (by decide) rfl, ld _ _ _ (by decide) rfl, ?_⟩
  decide +kernel

/-- Good references, a form that fails, bounds that fail, and one pass of a binary64 product and of an integer one. -/
theorem witness_MatrixPassesAccumulate :
    (Loaded 0x101 (nT 3) (st FMma) FMma ∧ ((st FMma).fireOf 0x101 (nT 3) FMma).matrixCheck (st FMma).consumed = .good) ∧
    (let f := fir [opdR 0 0, opdR 1 128, opdR 2 0]
     Loaded 0x101 (nT 3) (st f) f ∧ ((st f).fireOf 0x101 (nT 3) f).matrixCheck (st f).consumed = .form) ∧
    (let f := fir [opdR 0 0, opdR 1 (4 * 65536), accR 2 0]
     Loaded 0x101 (nT 3) (st f) f ∧ ((st f).fireOf 0x101 (nT 3) f).matrixCheck (st f).consumed = .bounds (2 ^ 63 + 262144)) ∧
    (((st FMma).fireOf 0x104 (nT 3) FMma).port 0).jet = 0 ∧ (((st FMma).fireOf 0x104 (nT 3) FMma).port 1).jet = 0 ∧
    (let f := fir [accR 0 0, accR 1 8192]
     let s := { st f with cores := [(0, core0), (1, core0)] }
     Loaded 0x10A (nT 2 1) s f ∧ (s.core (0 - 0 % 4 + field (md (nT 2 1)) 1 0)).owner = some 0 ∧
     s.consumed.accOutside 0 (Ref.ofTok (accR 0 0)) = false ∧ s.consumed.accOutside 1 (Ref.ofTok (accR 1 8192)) = false) ∧
    (Loaded 0x108 (nT 1) (st FAcc) FAcc ∧
      field (wordAt (((st FAcc).fireOf 0x108 (nT 1) FAcc).pool (st FAcc).consumed 0 16) 0) 51 44 ≤ 32 * (Ref.ofTok (accR 0 (15 * 8192))).mb) ∧
    (let o (opc : Nat) : Op := { id := 5, kind := .matrix, fir := FMma, instr := nT 3, opc := opc, cap := {}, st := .active }
     let s (opc : Nat) := { st FMma with ops := [o opc] }
     (s 0x101).findOp 5 = some (o 0x101) ∧ (s 0x101).opRuns (o 0x101) = true ∧ isQuad (nT 3) = false ∧
     (matrixUnits (o 0x101))[0]? = some (0, 0, 0, 0) ∧ (matrixUnits (o 0x102))[0]? = some (0, 0, 0, 0) ∧
     ((s 0x101).elem 0 84).halted = none ∧ (o 0x101).accs = [] ∧ (o 0x101).nums.getD 0 0 = (o 0x101).book) :=
  ⟨⟨ld _ _ _ (by decide) rfl, by decide⟩, ⟨ld _ _ _ (by decide) rfl, by decide⟩, ⟨ld _ _ _ (by decide) rfl, by decide⟩, by decide, by decide,
    ⟨loaded_of _ _ rfl (by decide) rfl, by decide, by decide, by decide⟩, ⟨ld _ _ _ (by decide) rfl, by decide⟩, by decide⟩

/-! ### Memory and transfers -/

/-- A run where one address is due, and one address; plain data that a store moves, and a jet that a K of 0 stops. -/
theorem witness_LoadsAndStoresIssueTheirAccesses : (∀ o n, Loaded o n (st F3) F3) ∧ (∀ o n, Loaded o n (st FRun) FRun) ∧
    Moves 0x121 (nI 2 0x10) (st F2) F2 ∧ ¬Moves 0x121 (nJ 2 0) (st FJet) FJet ∧
    ((st FRun).fireOf 0 (nI 1 0) FRun).port 0 ≠ {} ∧ (((st FRun).fireOf 0 (nI 1 0) FRun).port 0).run ≠ 0 ∧
    ¬(((st F3).fireOf 0 (nI 1 0) F3).port 0).run ≠ 0 ∧ verdict {} (flag clsFMT 0) ≠ .go ∧ verdict { exc := 0 } (flag clsFMT 0) = .go ∧
    ((st FJet).fireOf 0x121 (nJ 2 0) FJet).capK = 0 ∧ ((stF { frame0 with jord := 2 } FJet).fireOf 0x121 (nJ 2 0) FJet).capK ≠ 0 := by
  refine ⟨loaded_F3, loaded_FRun, ?_⟩
  unfold Moves
  decide

/-- A write of two bytes at 8, which its own core sees. -/
def w0 : Write := { id := 7, own := 2, addr := 8, data := [1, 2], issuer := .core 0, path := 0, levels := [1, 0, 0, 0, 0, 0, 0] }

def req0 (kind : AccKind) (data : List Byte) : Req := { ctx := 0, n := 0, iss := .core 0, path := 0, va := 8, size := 2, kind := kind, data := data }

/-- A read, a write and an addition at the place of a pending write; bytes 10 on are apart from it. -/
theorem witness_AccessesTouchOnlyTheirBytes :
    let s := { st F2 with pend := [w0] }
    s.poisoned 8 2 = false ∧ (req0 .read []).kind = .read ∧ (req0 .read []).solo = false ∧ ({ req0 .read [] with solo := true } : Req).solo = true ∧ w0.issuer ≠ .host ∧ (req0 .write [3, 4]).data.length = (req0 .write [3, 4]).size ∧
    (req0 (.rmw 0) [1, 0]).modify 0 [1, 2] ≠ none ∧ w0.addr + w0.data.length ≤ 10 ∧ ¬(w0.addr + w0.data.length ≤ 9 ∨ 9 + 1 ≤ w0.addr) := by decide

/-- A byte just below and just above the report area, and a write that does not cover it. -/
theorem witness_MemoryChangesOnlyByPerformedWrites : (∃ t, step { State.reset with agenda := [.tick 1], pend := [w0] } = .next t) ∧
    (State.reset.plat.report = 0 ∧ State.reset.plat.report + 65536 ≤ 65536) ∧ (∀ w ∈ [w0], w.covers 7 = false ∧ w.covers 10 = false ∧ w.covers 9 = true) ∧
    (∃ t, step { State.reset with agenda := [.tick 1], pend := [w0], plat := { stage := 6, up := true } } = .next t) ∧
    (∃ t, step { State.reset with agenda := [.tick 1], pend := [w0], plat := { failed := true } } = .next t) :=
  ⟨⟨_, rfl⟩, ⟨rfl, by decide⟩, by decide, ⟨_, rfl⟩, ⟨_, rfl⟩⟩

/-- An access of `size` bytes at an offset of the scratchpad, with a state. -/
def acc0 (va size : Nat) (x : AccState1) : Access := { e := 0, j := 0, spm := true, va := va, size := size, kind := .read, st := x }

def opMem (as : List Access) : Op := { id := 5, kind := .mem, fir := F2, instr := nI 1 0x18, opc := 0x135, cap := {}, st := .active, accs := as }

/-- The last access of an operation and one of two; the last word of the scratchpad granules and one past them; one that is not aligned; one
that has its answer; one that stalled; the watchdog a cycle early and in time; a load of 32 accesses. -/
theorem witness_ResponsesPerformTheirAccess :
    let s (as : List Access) (c : Nat) : State := { st F2 with ops := [opMem as], cycle := c }
    let end_ := 4 * 65536
    (s [acc0 0 4 .pending] 0).findOp (opMem [acc0 0 4 .pending]).id = some (opMem [acc0 0 4 .pending]) ∧ (opMem [acc0 0 4 .pending]).kind = .mem ∧
    field ((st F2).core 0).partw.toNat 22 16 * 65536 = end_ ∧ (end_ - 4) % 4 = 0 ∧ end_ - 4 + 4 ≤ end_ ∧ end_ < end_ + 4 ∧ 2 % 4 ≠ 0 ∧
    (s [] 0).poisoned (spmKey 0 (end_ - 4)) 4 = false ∧
    (∃ y ∈ (opMem [acc0 0 4 .done, acc0 4 4 .pending]).accs, y.st = .pending ∨ y.st = .stalled) ∧ (∀ y ∈ (opMem [acc0 0 4 .done]).accs, y.st = .done) ∧
    (acc0 0 4 .done).st ≠ .pending ∧ (s [acc0 0 4 .stalled] 0).opRuns (opMem [acc0 0 4 .stalled]) = true ∧
    2 ^ 26 - 1 - (opMem []).since < 2 ^ 26 ∧ 2 ^ 26 ≤ 2 ^ 26 - (opMem []).since ∧
    (let as : List Access := (List.range 32).map fun i => { acc0 (4 * i) 4 .done with e := i, res := [0, 0, 0, 0] }
     0 < as.length ∧ as.length ≤ 32 ∧ ∀ i y, (y, i) ∈ as.zipIdx → y.e = i ∧ y.j = 0 ∧ y.res.length = y.size) := by
  refine ⟨rfl, rfl, rfl, rfl, by decide, by decide, by decide, by decide, ⟨_, List.mem_cons_of_mem _ (List.mem_singleton.2 rfl), by decide⟩, ?_⟩
  refine ⟨by decide, by decide, rfl, by decide, by decide, ?_⟩
  simp [acc0, List.mem_zipIdx_iff_getElem?, List.getElem?_map]
  intro i a hi
  obtain ⟨h, rfl⟩ := List.getElem?_eq_some_iff.mp hi
  simp

/-- An output that waits for the write `w0` at CORE and at QUAD: it has reached the first and not the second. -/
theorem witness_OutputsWaitForCertification : (∀ o n, Loaded o n (st F2) F2) ∧
    (let q (sc : Nat) : PendOut := { out := 0, tok := tokI 0 0, paths := 1, scope := sc }
     let p (sc : Nat) : Op := { id := 2, kind := .mem, fir := F2, instr := nI 1 0x18, opc := 0x136, cap := {}, st := .complete, outs := [q sc] }
     (p 1).outs = [q 1] ∧ ((p 1).kind = .fence → bitOf ((p 1).nums.getD 0 0) 4 = false) ∧ (w0.own = (p 1).id ∧ w0.path < 7) ∧
     w0.reached (q 0).paths (q 0).scope = true ∧ w0.reached (q 1).paths (q 1).scope = false ∧
     (p 1).st = .complete ∧ ({ p 1 with st := .active } : Op).st ≠ .complete ∧
     (p 1).fire.emitsAll (st F2) (one 0 (tokI 0 0)) = true ∧
     ({ p 1 with instr := { nI 1 0x18 with tagop := .enter } } : Op).fire.emitsAll (st F2) (one 0 (tokI 0 0)) = false ∧
     (OpKind.page = .page ∧ bitOf 1 0 = true) ∧ bitOf 0 0 = false) ∧
    (let p : Op := { id := 9, kind := .fence, fir := F2, instr := nI 1 0, opc := 0x12A, cap := {}, st := .complete, nums := [1], deps := [2],
                     outs := [{ out := 0, tok := tokI 0 0, paths := 1, scope := 1 }] }
     bitOf (p.nums.getD 0 0) 4 = false ∧ w0.own ∈ p.deps ∧ bitOf (p.nums.getD 0 0) w0.path = true) ∧ w0.addr < 2 ^ 64 ∧ F2.elem < 128 :=
  ⟨loaded_F2, by decide⟩

/-- The word of a shape record: binary32 in the scratchpad, dimension 0 of `count` elements of 4 bytes, limit `count`. -/
def shape0 (count limit : Nat) : List Byte :=
  leBytes 8 (2 * 2 ^ 61 + 2 ^ 53) ++ leBytes 8 0 ++ leBytes 8 (count - 1 + limit * 2 ^ 17) ++ leBytes 8 4 ++ List.replicate 64 0

/-- A copy of three elements of which the source clips the last. -/
def opCpy : Op := { id := 5, kind := .xfer, fir := fir [tok8 0 0, tok8 1 1024], instr := nI 2 0, opc := 0x12D, cap := {}, st := .active,
                    desc := shape0 3 2 ++ shape0 3 3 }

theorem witness_TransfersCopyUnitByUnit : (∀ o n, Loaded o n (st F2) F2) ∧ (∀ o n, Loaded o n (st FRun) FRun) ∧ F2.len = 1 ∧ 1 < FRun.len ∧
    verdict {} (flag clsFMT 0) ≠ .go ∧ verdict { exc := 0 } (flag clsFMT 0) = .go ∧
    Moves 0x132 (nI 2 0x10) (st F2) F2 ∧ ¬Moves 0x132 (nJ 2 0) (st FJet) FJet ∧
    (let x := (st F2).fireOf 0 (nI 2 0) F2
     ¬64 ≤ ((st F2).consumed.unperformed ((st F2).consumed.dieq (dqOf x))).length ∧ ∀ k ∈ ((st F2).consumed.dieq (dqOf x)).ops, k ≠ (st F2).fresh) ∧
    (let s := { st opCpy.fir with ops := [opCpy] }
     let a := opCpy.desc.take 96
     let b := (opCpy.desc.drop 96).take 96
     s.findOp opCpy.id = some opCpy ∧ s.opRuns opCpy = true ∧ opCpy.mask = [] ∧ opCpy.bad = [] ∧ opCpy.accs = [] ∧
     opCpy.vals = [] ∧ ({ opCpy with vals := [0] } : Op).vals ≠ [] ∧ opCpy.fire.i64 0 0 < 2 ^ 23 ∧ opCpy.fire.i64 1 0 < 2 ^ 23 ∧ opCpy.fail = none ∧ opCpy.miss = none ∧
     s.poison = [] ∧ bitOf (md opCpy.instr) 3 = false ∧ opCpy.book < shapeRows a ∧ shapeFmt a ≠ .G ∧ 0 < shapeSize a ∧ shapeRemote a = false ∧
     shapeRemote b = false ∧ bitOf (wordAt a 0) 53 = true ∧ bitOf (wordAt b 0) 53 = true ∧ dimCount a 0 = 3 ∧
     (∀ i < 3, clipped a (tuple a 0 i) = decide (i = 2) ∧ clipped b (tuple a 0 i) = false) ∧
     (∀ i < 3, shapeAddr a (opCpy.fire.i64 0 0) (tuple a 0 i) % 4 = 0 ∧ shapeAddr b (opCpy.fire.i64 1 0) (tuple a 0 i) % 4 = 0 ∧
       shapeAddr b (opCpy.fire.i64 1 0) (tuple a 0 i) + 4 ≤ field (s.core 0).partw.toNat 22 16 * 65536)) :=
  ⟨loaded_F2, loaded_FRun, rfl, by decide, by decide, by decide, by unfold Moves; decide, by unfold Moves; decide, by decide, by decide +kernel⟩

/-- A queue with 64 entries whose DQPUTs still run. -/
theorem witness_TransfersCopyUnitByUnit_full :
    let op (k : Nat) : Op := { id := k, kind := .dq, fir := F2, instr := nI 2 0, opc := 0x132, cap := {}, st := .active }
    let s : State := { st F2 with fresh := 100, ops := (List.range 64).map op, dieqs := [{ ctx := 0, src := 0, dst := 0, q := 0, ops := List.range 64 }] }
    Loaded 0x132 (nI 2 0) s F2 ∧ 64 ≤ (s.consumed.unperformed (s.consumed.dieq (dqOf (s.fireOf 0 (nI 2 0) F2)))).length ∧
    ∀ k ∈ (s.consumed.dieq (dqOf (s.fireOf 0 (nI 2 0) F2))).ops, k ≠ s.fresh := ⟨loaded_of _ _ rfl (by decide) rfl, by decide +kernel, by decide +kernel⟩

/-! ### Pipes, groups, barriers -/

/-- Pipe 0 open with entries, 1 empty, 2 full, 3 closed and empty, 4 after its end. -/
def group5 : Group := { group0 with pipes := [pipe0, { state := .empty, cap := 1 }, { state := .full, cap := 1 }, { state := .closed, cap := 1 },
                        { state := .eosSeen, cap := 1, entries := [ent 9 0 1] }] }

/-- A live activation and one that has ended; room, none and a breach of CAP (pipe 1 holds a token of this activation); an entry, none, and
none ever; a firing that stands behind others in line. -/
theorem witness_PipeInstructionsKeepTheirPlaces : (∀ g o n, Loaded o n (stG g F2) F2) ∧ (stG group5 F2).frame F2.tag = some frame0 ∧
    (stG group5 F2).alive F2.tag frame0 = true ∧ (stF { frame0 with ended := true } F2).alive F2.tag frame0 = false ∧
    Moves 0x160 (nI 1 0 1) (stG group5 F2) F2 ∧ ({} : Pipe).state = .unbound ∧ ({ pipe0 with waits := [7] } : Pipe).waits = 7 :: [] ∧ 7 ≠ F2.id ∧
    ({ pipe0 with takes := [(0, 7)] } : Pipe).takes.find? (·.1 == kinst0.replica) = some (0, 7) ∧ Fires (stG group5 F2) F2 ∧
    ((stG group5 F2).fireOf 0 (nI 1 0 1) F2).own (stG group5 F2).consumed = some (group5, kern0, kinst0) ∧ (stG group5 F2).group 1 = some group5 ∧
    (∀ p ∈ [(0, PState.open), (1, .empty), (2, .full), (3, .closed), (4, .eosSeen)], (group5.pipes[p.1]?).map (·.state) = some p.2) ∧
    (let held (p : Pipe) := (p.staged.filter fun y => y.kernel == kinst0.kernel && y.replica == kinst0.replica && y.frame == frame0.root).length
     held pipe0 < pipe0.cap ∧ 1 ≤ held { cap := 1, staged := [{ kernel := 0, replica := 0, frame := 0, seq := 1, tok := tokI 0 1 }] }) ∧
    (kern0.inputs.findIdx? fun q => q.pipe == 0) = some 0 ∧ group5.queue kinst0 0 = [(3, tokI 0 7)] ∧ group0.queue kinst0 1 = [] ∧ group5.queue kinst0 1 = [] ∧
    (group5.queue { kinst0 with gotEos := [3] } 3 = []) ∧ ({ state := .closed } : Pipe).ended = true ∧ ({ state := .eosSeen } : Pipe).ended = true ∧
    ({ state := .eosSeen, entries := [ent 9 0 1] } : Pipe).ended = false ∧ pipe0.ended = false ∧ (st F2).frame { F2.tag with frame := BitVec.ofNat 14 (coreIn 0 * 512 + frame0.root) } = some frame0 ∧
    ((st F2).ctx 0).csrs.nqbase = 0 ∧ ({ nqbase := 64 } : Csrs).nqbase ≠ 0 := by
  refine ⟨loaded_stG, by decide, rfl, rfl, by unfold Moves; decide, rfl, rfl, nofun, rfl, { set := rfl, run := by decide }, ?_⟩
  decide

/-- A commit, a mark (the last of PROD 1 and one of 2), a thief, a kernel to scale up and one to scale down; the codes of GPRI at the ends of
their range. -/
theorem witness_GroupsAndPipesAreScheduled :
    let id : InstId := { serial := 1, kernel := 0, replica := 1 }
    let thief : KInst := { kinst0 with replica := 1, n := 1 }
    let g := { group0 with kernels := [{ kern0 with enabled := [0, 1], lowat := 1 }], insts := [kinst0, thief], pipes := [{ pipe0 with entries := [ent 3 0 7] }, {}] }
    let c : Commit := { id := 8, serial := 1, items := [(1, { kernel := 0, replica := 0, frame := 0, seq := 1, tok := tokI 0 1 })], ends := [], deps := [] }
    let s := { stG group0 F2 with commits := [c], marks := [{ id := 9, serial := 1, pipe := 0 }, { id := 10, serial := 1, pipe := 1 }] }
    (s.commits.find? (·.id == c.id) = some c ∧ s.group c.serial = some group0 ∧ s.halted group0.ctx = false ∧
      (∀ q ∈ c.items, ∀ y, group0.pipes[q.1]? = some y → y.state ≠ .eosSeen ∧ y.state ≠ .closed ∧ y.state ≠ .unbound) ∧ c.armed = none) ∧
    (s.marks.find? (·.id == 9) = some { id := 9, serial := 1, pipe := 0 } ∧ s.markWaits { id := 9, serial := 1, pipe := 0 } = false ∧
      s.markWaits { id := 10, serial := 1, pipe := 1 } = true ∧ pipe0.state = .open ∧ pipe0.prod = 1 ∧ pipe0.entries ≠ [] ∧ ({} : Pipe).state = .unbound ∧
      ({ state := .full, cap := 1 } : Pipe).entries = [] ∧ ({ state := .empty } : Pipe).entries = [] ∧ ¬1 < ({ state := .empty, prod := 1 } : Pipe).prod) ∧
    ((stG g F2).group id.serial = some g ∧ (g.insts.find? fun j => j.kernel == id.kernel && j.replica == id.replica) = some thief ∧
      ({ kern0 with enabled := [0, 1], lowat := 1 } : Kernel).inputs = [{ out := false, rate := 1, pipe := 0, node := 0, port := 0 }] ∧
      g.thief { kern0 with enabled := [0, 1] } thief = true ∧ g.thief { kern0 with enabled := [0, 1] } kinst0 = false ∧ dieOf thief.n = dieOf kinst0.n ∧
      (g.pipes[0]?).map (fun y => y.entries.filter fun e => e.replica != 1 && dieOf (g.coreOf 0 e.replica) == 0 && decide (g.age ≤ 2048 - e.since)) = some [ent 3 0 7] ∧
      (stG g F2).halted g.ctx = false) ∧
    (kern0.hiwat ≠ 0 ∧ kern0.dirty = true ∧ kern0.evalAt = none ∧ kern0.hiwat ≤ pipe0.entries.length ∧
      (¬∃ o ∈ kern0.outputs, ∃ z ∈ group0.pipes[o.pipe]?, z.state = .full) ∧ (List.range kern0.repl).filter (fun r => !kern0.enabled.contains r) = [1] ∧
      [ent 3 0 7].length < kern0.hiwat ∧ [ent 3 0 7].length ≤ 1 ∧ 1 < [0, 1].length ∧ (pipe0.entries.map (·.seq)).Nodup ∧ group0.state = .running) ∧
    ((st F2).fireOf 0 (nI 1 0) F2).own (st F2).consumed = none ∧
    (let f (v : Nat) := fir [tokI 0 0, tokI 1 v]
     ((stG group0 (f 3)).fireOf 0 (nI 2 0) (f 3)).own (stG group0 (f 3)).consumed = some (group0, kern0, kinst0) ∧
     ((stG group0 (f 3)).fireOf 0x165 (nI 2 0) (f 3)).argI32 1 0 = 3 ∧ ((stG group0 (f 3)).fireOf 0x165 (nI 2 0) (f 4)).argI32 1 0 = 4 ∧
     ((stG group0 (f 3)).fireOf 0x165 (nI 2 0) (f (2 ^ 32 - 1))).argI32 1 0 = -1) := by decide

/-- A commit with an armed frame and a token for a pipe that has seen EOS. -/
theorem witness_GroupsAndPipesAreScheduled_armed :
    let c : Commit := { id := 8, serial := 1, items := [(4, { kernel := 0, replica := 0, frame := 0, seq := 1, tok := tokI 0 1 })], ends := [], deps := [],
                        armed := some ({ cause := 0x000B, code := 7, count := 1 }, opMem []) }
    let s := { stG group5 F2 with commits := [c] }
    s.commits.find? (·.id == c.id) = some c ∧ s.group c.serial = some group5 ∧ s.halted group5.ctx = false ∧ c.armed.isSome = true ∧
      (c.items.filter fun q => (group5.pipes[q.1]?).any fun y => y.state == .eosSeen || y.state == .closed).length = 1 := by decide

theorem witness_GroupsAndPipesAreScheduled_loaded : ∀ o n, Loaded o n (stG group0 F2) F2 := loaded_stG group0

def bar0 : BarId := { coll := false, ctx := 0, scope := 0, inst := 0, ident := 0 }

/-- The operation of a firing that has arrived at a barrier, and its arrival. -/
def opBar (opc : Nat) : Op := { id := 5, kind := .barArrive, fir := F2, instr := nI 1 0 0x100, opc := opc, cap := {}, st := .active }

def arr0 (gen : Option Nat) : Arrival := { id := 6, bar := bar0, n := 0, op := 5, party := 2, p5 := false, deps := [], value := none, src := false, who := none, gen := gen }

def gen0 (party count : Nat) : Gen := { gen := 0, party := party, count := count, deps := [], p5 := [], values := [], ops := [], who := [] }

def stB (g : List Gen) (released : Nat) : State :=
  { st F2 with ops := [opBar 0x167], arrivals := [arr0 none], bars := [{ id := bar0, gens := g, released := released }] }

/-- Tickets at both ends of the circle; the first arrival of a generation, its last, one after it is complete, one with another N; a release. -/
theorem witness_BarriersCountTheirGenerations : (∀ o n, Loaded o n (st F2) F2) ∧
    (let d (released g : Nat) := (released + 2 ^ 32 - g % 2 ^ 32) % 2 ^ 32
     1 ≤ d 1 0 ∧ d 1 0 ≤ 2 ^ 31 ∧ d (2 ^ 31) 0 ≤ 2 ^ 31 ∧ 2 ^ 31 < d (2 ^ 31 + 1) 0 ∧ d 7 7 = 0) ∧
    (st F2).halted F2.tag.ctx = false ∧
    (let s := stB [gen0 2 1] 0
     s.arrivals.find? (fun y => y.id == 6 && y.gen.isNone) = some (arr0 none) ∧ (arr0 none).bar.coll = false ∧ s.findOp 5 = some (opBar 0x167) ∧
     (s.bar bar0).gens.getLast? = some (gen0 2 1) ∧ (gen0 2 1).count < (gen0 2 1).party ∧ (gen0 2 1).party = (arr0 none).party ∧
     (s.bar bar0).last = none ∧ ({ id := bar0, last := some (7, 1) } : Bar).last = some (7, 1) ∧ ¬1 ≤ (arr0 none).n) ∧
    ((gen0 3 1).party ≠ (arr0 none).party ∧ verdict (opBar 0x167).cap (flag clsFMT 0) = .halt 0x000D ∧ verdict { exc := 0 } (flag clsFMT 0) = .go) ∧
    (((stB [] 0).bar bar0).gens = [] ∧ ((stB [gen0 2 2] 0).bar bar0).gens.getLast? = some (gen0 2 2) ∧ (gen0 2 2).party ≤ (gen0 2 2).count) ∧
    (({ st F2 with arrivals := [arr0 (some 4)], ops := [opBar 0x167] } : State).arrivals.find? (fun y => y.id == 6 && y.gen.isSome) = some (arr0 (some 4)) ∧
      ∀ u ∈ (opBar 0x167).fir.inputs, u.isErr = false) ∧
    (((stB [gen0 2 2] 0).bar bar0).gens = [gen0 2 2] ∧ (gen0 2 2).count = (gen0 2 2).party ∧ (stB [] 0).certifies (gen0 2 2).deps false 0 = true ∧
      (stB [] 0).certifies (gen0 2 2).p5 true 0 = true ∧ (stB [] 0).halted 0 = false ∧
      (gen0 2 1).count ≠ (gen0 2 1).party ∧ ticketDone 1 0 = true) ∧
    ({ gen0 2 2 with values := [tokI 0 9] } : Gen).values = [tokI 0 9] ∧ (tokI 0 9).isErr = false ∧ (tokErr 0).isErr = true ∧ 2 ≤ [tokI 0 9, tokI 0 8].length ∧
    (∀ u ∈ (opBar 0x169).fir.inputs, u.isErr = false) := by
  refine ⟨loaded_F2, ?_⟩
  decide

def coll0 : BarId := { coll := true, ctx := 0, scope := 0, inst := 0, ident := 0 }

/-- A collective over two ranks of two elements, with a timeout of one unit. -/
def desc0 (ranks time : Nat) : List Byte := leBytes 8 ((ranks - 1) * 2 ^ 46 + time * 2 ^ 32 + 1)

def opColl (id rank ranks time : Nat) : Op :=
  { id := id, kind := .coll, fir := fir [tok8 0 0, tok8 1 0, tokI 2 rank], instr := nI 3 0, opc := 0x16A, cap := {}, st := .active, desc := desc0 ranks time }

def arrC (op : Nat) : Arrival := { arr0 none with bar := coll0, op := op }

def ctr (rank op : Nat) (ranks : Nat := 2) : Contrib := { rank := rank, op := op, err := none, desc := leNat (desc0 ranks 1), time := 0 }

/-- A first, a last, a second and an out-of-range contribution; one for a use whose ranks are all there while another runs; a use that expires
and one that has not waited long enough; a use of one party that has ended. -/
theorem witness_CollectivesGatherTheirRanks : (∀ o n, Loaded o n (st F3) F3) ∧ Fires (st F3) F3 ∧
    (let s := { st F2 with ops := [opColl 5 1 2 1, opColl 6 0 2 1], arrivals := [arrC 5], bars := [{ id := coll0, contribs := [ctr 0 6] }] }
     s.arrivals.find? (fun y => y.id == 6 && y.gen.isNone) = some (arrC 5) ∧ (arrC 5).bar.coll = true ∧ s.findOp 5 = some (opColl 5 1 2 1) ∧
     ((opColl 5 1 2 1).fire.port 2).isErr = false ∧ ((opColl 5 1 2 1).fire.port 2).elem 4 0 0 = 1 ∧ field (leNat (desc0 2 1)) 51 46 + 1 = 2 ∧
     (arrC 5).op ≠ 0 ∧ (s.bar coll0).later = [] ∧ (∀ c ∈ (s.bar coll0).contribs, c.rank ≠ 1 ∧ c.desc = leNat (desc0 2 1)) ∧
     collFull (s.bar coll0).contribs = false ∧ collFull ((s.bar coll0).contribs ++ [ctr 1 5]) = true ∧ (s.bar coll0).running = [] ∧
     ((opColl 5 2 2 1).fire.port 2).elem 4 0 0 = 2 ∧ [ctr 0 6].find? (·.rank == 0) = some (ctr 0 6) ∧
     collFull [ctr 0 6, ctr 1 7] = true ∧ [ctr 0 8] ≠ [] ∧ (s.bar coll0).expired = [] ∧ ({ id := coll0, expired := [[ctr 0 6]] } : Bar).expired ≠ []) ∧
    (let s (c : Nat) : State := { st F2 with cycle := c, ops := [opColl 6 0 2 1], bars := [{ id := coll0, contribs := [ctr 0 6], first := 0 }] }
     collDesc ((s 65536).bar coll0).contribs = some (leNat (desc0 2 1)) ∧ field (leNat (desc0 2 1)) 41 32 = 1 ∧ ¬65536 ≤ 65535 - 0 ∧
     collFull ((s 65536).bar coll0).contribs = false ∧ ((s 65536).bar coll0).running = [] ∧ ((s 65536).bar coll0).expired = []) ∧
    (let s : State := { st F2 with ops := [opColl 6 0 2 1], bars := [{ id := coll0, expired := [[ctr 0 6], [ctr 1 7]] }] }
     (s.bar coll0).expired = [ctr 0 6] :: [[ctr 1 7]] ∧ s.halted 0 = false ∧ s.findOp (ctr 0 6).op = some (opColl 6 0 2 1) ∧
     (match verdict (opColl 6 0 2 1).cap (flag clsPOISON 0) with | .halt _ => false | _ => true) = true ∧ (opColl 6 0 2 1).fir.len = 1) ∧
    (let o := { opColl 6 0 1 0 with st := .complete }
     let s : State := { st F2 with ops := [o], bars := [{ id := coll0, running := [ctr 0 6] }] }
     (s.bar coll0).expired = [] ∧ (s.bar coll0).running = [ctr 0 6] ∧ (ctr 0 6).rank = 0 ∧ (ctr 0 6).op ≠ 0 ∧ (ctr 0 6).err = none ∧ o.fir.len = 1 ∧ s.findOp 6 = some o ∧ s.halted 0 = false ∧ s.reached 6 127 95 0 = true ∧ o.fail = none ∧
     field (leNat o.desc) 63 61 ≠ 4 ∧ verdict o.cap o.flags = .go) := by
  refine ⟨loaded_F3, { set := rfl, run := by decide }, ?_⟩
  decide

/-! ### The system instructions -/

/-- An 8-byte value on port 0. -/
def F8 (v : Nat) : Firing := fir [tok8 0 v]

theorem loaded_F8 (v o : Nat) (n : Node) : Loaded o n (st (F8 v)) (F8 v) :=
  loaded_of o n rfl (by simp [F8, fir, tok8, Tok.isErr]) rfl

/-- RMODE at both ends of its legal values and past them; CNTTHR of 0 and of 65535; NQBASE aligned and not; a log with an entry and without. -/
theorem witness_ContextRegistersReadAndWrite : (∀ v o n, Loaded o n (st (F8 v)) (F8 v)) ∧ (∀ o n, Loaded o n (st FRun) FRun) ∧ (F8 0).len = 1 ∧ 1 < FRun.len ∧
    (∀ v ∈ [1, 6], ((((st (F8 v)).fireOf 0x183 (nI 1 0 0x010) (F8 v)).port 0).elem 8 0 0) = v ∧ (1 ≤ v && v ≤ 6) = true) ∧ (1 ≤ 0 && 0 ≤ 6) = false ∧
    (1 ≤ 7 && 7 ≤ 6) = false ∧ (1 ≤ 65535 && 65535 ≤ 65535) = true ∧ (64 % 64 == 0) = true ∧ (63 % 64 == 0) = false ∧ im (nI 1 0 0x020) = 0x020 ∧
    ((st F2).ctx 0).violog = [] ∧ ({ violog := [(true, 5)] } : Context).violog = (true, 5) :: [] ∧ ((st F2).ctx 0).sup = true ∧
    (({ st F2 with ctxs := [(0, { state := .running })] } : State).ctx 0).sup = false ∧
    ¬(({ st F2 with ctxs := [(0, { state := .running })] } : State).fireOf 0x183 (nI 1 0 0x020) F2).needsSup = true ∧
    csrSup 0x016 = false ∧ verdict {} (flag clsFMT 0) ≠ .go := by
  refine ⟨loaded_F8, loaded_FRun, ?_⟩
  decide

/-- A running context; an operation that PROGI shows behind one that it does not; the first and the last capability and one past it. -/
theorem witness_TrapsAndSnapshots : (∀ o n, Loaded o n (st F2) F2) ∧ F2.placed ∧ ((st F2).ctx 0).state = .running ∧ ((st F2).elem 0 0).cause = 0 ∧
    (st F2).frame F2.tag = some frame0 ∧
    (let shown (o : Op) (k : Nat) : Bool := o.kind.progress && (o.st == .issued || o.st == .active || o.st == .stopped) && o.fir.img.nodeid.toNat == k && o.fir.tag.sameFrame {}
     shown opCpy 0 = true ∧ shown (opMem []) 0 = true ∧ shown { opCpy with kind := .ctxOp } 0 = false ∧ shown opCpy 1 = false) ∧
    (∀ k ∈ [1, 14], 1 ≤ k ∧ k ≤ 14 ∧ im (nI 0 0 k) = k) ∧ 15 ≤ im (nI 0 0 15) ∧ field (im (nI 0 0 49)) 5 0 < 50 ∧ ¬field (im (nI 0 0 50)) 5 0 < 50 := by
  refine ⟨loaded_F2, ⟨by decide, by decide⟩, ?_⟩
  decide

def count0 : Count := { ctx := 0, va := 64, n := 0, ev0 := 1, ev1 := 2, per := 1, ring := 4096, log := 1, starts := [elemKey 0 5], stops := [], own := 7 }

/-- A target that is not there, the own context and another; a start, a stop and a trace of one element, and of none; a count of the
present start of the record and of an earlier one. -/
theorem witness_ContextOperationsAndCounters :
    (∀ t ∈ [0, 1, 64], (((st (fir [tokI 0 t, tok8 1 0])).fireOf 0 (nI 2 0) (fir [tokI 0 t, tok8 1 0])).port 0).elem 4 0 0 = t) ∧
    BitVec.ofNat 6 0 = (fir [tokI 0 0]).tag.ctx ∧ BitVec.ofNat 6 1 ≠ (fir [tokI 0 0]).tag.ctx ∧
    (let s (r : Count) (e : Elem) : State := { st F2 with counts := [r], elems := [(elemKey 0 5, e)], cycle := 512 }
     ((s count0 {}).counts.find? fun r => r.starts.contains (elemKey 0 5)) = some count0 ∧ (∀ r ∈ (s count0 {}).counts, elemKey 0 6 ∉ r.starts) ∧
     (let r := { count0 with starts := [], stops := [elemKey 0 5] }
      ((s r {}).counts.find? fun r => r.stops.contains (elemKey 0 5) && !r.starts.contains (elemKey 0 5)) = some r ∧
      (∀ q ∈ (s r {}).counts, q.ctx = r.ctx → q.va = r.va → q = r) ∧ ((s r { armed := some (64, 1, 2, 7) }).elem 0 5).armed = some (r.va, 1, 2, 7) ∧
      ((s r {}).elem 0 5).traced.any (·.1 == r.va) = false ∧ ((s r { traced := [(64, 0, 0, 0)] }).elem 0 5).traced.any (·.1 == r.va) = true ∧
      ((s r {}).core 0).owner = some r.ctx ∧ r.own = 7 ∧ r.own ≠ 6)) := by decide

theorem witness_ContextOperationsAndCounters_trace :
    (let s (r : Count) (e : Elem) : State := { st F2 with counts := [r], elems := [(elemKey 0 5, e)], cycle := 512 }
     (let e : Elem := { armed := some (64, 1, 2, 7), firedAt := some (512, 0, 0), traced := [(64, 0, 0, 0)] }
      ((s count0 e).elem 0 5).armed = some (64, 1, 2, count0.own) ∧ ((s count0 e).elem 0 5).firedAt = some (512, 0, 0) ∧
      (s count0 e).findCount 0 64 = some count0 ∧ count0.per ≠ 0 ∧ count0.ring ≠ 0 ∧ (s count0 e).halted 0 = false ∧
      512 % 2 ^ (count0.per + 8) = 0 ∧ (s count0 e).firesAt 0 5 512 = true ∧ (s count0 e).firesAt 0 5 1024 = false ∧
      ((s count0 e).elem 0 5).traced = (64, 0, 0, 0) :: [] ∧ count0.written < 2 ^ count0.log ∧ 2 ^ count0.log ≤ ({ count0 with written := 2 } : Count).written)) := by decide

theorem witness_ContextOperationsAndCounters_loaded : (∀ t o n, Loaded o n (st (fir [tokI 0 t, tok8 1 0])) (fir [tokI 0 t, tok8 1 0])) :=
  fun t o n => loaded_of o n rfl (by simp [fir, tok8, tokI, Tok.isErr]) rfl

/-- Page tables at 0: 32 GiB of HBM under one leaf of level 2, readable and writable, that is accessed and dirty. -/
def pages : List Host.Cell := [(1, 0x10), (6, 0x60), (7, 0x80), (0x1001, 0x20), (0x1006, 0x60), (0x1007, 0x80), (0x2006, 0xC0), (0x2007, 0xA1)]

def opPage (kind : OpKind) (opc target : Nat) : Op :=
  { id := 5, kind := kind, fir := fir [tok8 0 0, tokI 1 target, tokI 2 target], instr := nI 2 0, opc := opc, cap := {}, st := .active, nums := [0] }

/-- A page with a leaf and one without; a target that is bound, one that is not, one that is not there; each reason to refuse a leaf. -/
theorem witness_PageInstructionsAct : (∀ o n, Loaded o n (st F2) F2) ∧
    (let f := fir [tok8 0 0, tokR 1 [1, 2, 3, 4, 5, 6]]
     (((st f).fireOf 0x18A (nI 2 0) f).port 1).run = 5 ∧ (((st F2).fireOf 0x18A (nI 2 0) F2).port 1).run ≠ 5) ∧
    (let s (k : OpKind) (opc t : Nat) (m : List Host.Cell) : State := { st F2 with ops := [opPage k opc t], mem := m }
     (s .page 0x188 0 pages).findOp 5 = some (opPage .page 0x188 0) ∧ (s .page 0x188 0 pages).opRuns (opPage .page 0x188 0) = true ∧
     (opPage .page 0x188 0).fire.i64 0 0 < 2 ^ 56 ∧ ((s .page 0x188 0 []).walk 0 0 0 5).1 = .miss ∧ ((s .pwb 0x189 0 []).walk 0 0 0).1 = .miss ∧
     (match ((s .page 0x188 0 pages).walk 0 0 0 5).1 with | .leaf e => e.pte == 0xA1C0000000000000 | _ => false) = true ∧
     (s .pwb 0x189 0 []).pageTarget (((opPage .pwb 0x189 0).fire.port 1).elem 4 0 0) = true ∧
     (s .pwb 0x189 1 []).pageTarget (((opPage .pwb 0x189 1).fire.port 1).elem 4 0 0) = false ∧
     (s .pmig 0x187 64 []).pageTarget (((opPage .pmig 0x187 64).fire.port 2).elem 4 0 0) = false) ∧
    wbRefused 0 = some 2 ∧ wbRefused (2 ^ 63 + 2 ^ 57) = some 4 ∧ wbRefused (2 ^ 63 + 2 ^ 59) = some 1 ∧ wbRefused (2 ^ 63 + 2 ^ 52) = some 3 := by
  refine ⟨loaded_F2, ?_⟩
  decide +kernel

/-- Nothing selected and something; a grant, a breach and a wait; slot 63 free and taken; the temperatures of SAMPLE. -/
theorem witness_CompressionAndRowSelections : (∀ o n, Loaded o n (st F2) F2) ∧
    bitOf (md (nI 2 0x20)) 0 = false ∧ bitOf (md (nI 2 0x21)) 0 = true ∧
    (let f := fir [tokI 0 9, tokI 1 0]
     ((List.range f.len).filter fun k => (((st f).fireOf 0 (nI 2) f).port 1).elem 4 0 k ≠ 0) = []) ∧
    ((List.range F2.len).filter fun k => (((st F2).fireOf 0 (nI 2) F2).port 1).elem 4 0 k ≠ 0) = [0] ∧
    (frI (inst8 0)).designate 0 0 0 = some (inst8 0) ∧ (inst8 0).grants? 1 = true ∧ (frI (inst8 0)).inst 0 = some (inst8 0) ∧ (inst8 8).grants? 1 = false ∧
    ({ inst8 0 with window := 0 } : Inst).window < 1 ∧
    (∀ k < F2.len, im (nI 2 0x21 63) + k < frame0.size ∧ Assoc.get none frame0.slots (63 + k) = none) ∧ ¬im (nI 2 0x21 64) < frame0.size ∧
    tempBad .S 0x3F80_0000 = none ∧ tempOf .S 0x7F80_0000 = .infinite ∧ tempBad .S 0xBF80_0000 = some true ∧ verdict { exc := 0 } (flag clsIV 0) = .go := by
  refine ⟨loaded_F2, ?_⟩
  decide

/-! ### The stream, launches, the world outside -/

/-- A stream from bindery 0 to core 0 with a word being run. -/
def stW (x : Feed) : State := { State.reset with stream := some (0, 0), feeds := [(0, x)], cycle := 5 }

/-- Outside and inside a region; a core that is there (core 19 of die 7) and one that is not; a legal field, one that is not, the greatest slot
of element 0 and one past it; a core at rest; a quota; the overlays; a report that is due; a word that may be sent, the window at its end, and a word
that has arrived. -/
theorem witness_CommandWordsActInTheirRegion : (stW {}).stream = some (0, 0) ∧ ((stW {}).feed 0 0).region = none ∧
    (let x : Feed := { region := some 3, sel := some (7, 19), touched := [159] }
     ((stW x).feed 0 0).region = some 3 ∧ ((stW x).feed 0 0).sel = some (7, 19) ∧ (7 < 8 ∧ 19 < 20) ∧ ¬(8 < 8 ∧ 0 < 20) ∧
     ((stW x).feed 0 0).touched = [159] ∧ ((stW x).feed 0 0).odd = false ∧ ((stW { x with odd := true }).feed 0 0).odd = true ∧
     3 ∉ ((stW x).core 159).bad ∧ 90 ∈ ({ bad := [3, 90] } : Core).bad ∧ (∀ o, ((stW x).core 159).owner = some o → (stW x).halted o = true) ∧ (∀ g ∈ (stW x).groups, g.state ≠ .placing) ∧
     (∀ e, e < 90 → ((stW x).elem 159 e).armed = none ∧ ((stW x).elem 159 e).ctr0 = 0 ∧ ((stW x).elem 159 e).ctr1 = 0) ∧
     ∀ w ∈ ((stW x).core 159).staged, w.1 < 90) ∧
    (∀ f ∈ [0x0D, 0x10, 0x18], f ≤ 0x0D ∨ 0x10 ≤ f ∧ f ≤ 0x18) ∧ ¬(0x0E ≤ 0x0D ∨ 0x10 ≤ 0x0E ∧ 0x0E ≤ 0x18) ∧ 31 % 32 < slotCount 0 ∧ ¬16 % 32 < slotCount 89 ∧
    (({ stW {} with cores := [(0, core0)], ctxs := [(0, { state := .saving })] } : State).core 0).owner = some 0 ∧
    (({ stW {} with cores := [(0, core0)], ctxs := [(0, { state := .saving })] } : State).ctx 0).state = .saving ∧
    (let s : State := { stG group0 F2 with stream := some (0, 0) }
     s.groups[0]? = some group0 ∧ group0.insts[0]? = some kinst0 ∧ group0.ctx = 0 ∧ kinst0.n = 0 ∧ kinst0.cut = false ∧ kinst0.state ∈ [KState.resident, .parked, .firing] ∧
     group0.kernels[0]? = some kern0 ∧ ((group0.queue kinst0 0).getLast?).map (·.1) = some 3) ∧
    ((stW { unsaid := 1 }).feed 0 0).unsaid ≠ 0 ∧ ((stW {}).feed 0 0).unsaid = 0 ∧
    (let s (x : Feed) : State := { stW x with binderies := [(0, { stream := [(0, 0xC000_0001)] })] }
     ((s {}).bind 0).stream = (0, 0xC000_0001) :: [] ∧ (s {}).maySend 0 = true ∧ (s { unsaid := 256 }).maySend 0 = false ∧
     256 ≤ ((s { unsaid := 256 }).feed 0 0).flight.length + ((s { unsaid := 256 }).feed 0 0).unsaid ∧
     ((s { flight := [(0, 5, true)] }).takeWord 0 0).isSome = true ∧ (s { flight := [(0, 5, false)] }).takeWord 0 0 = none) := by
  refine ⟨rfl, rfl, ⟨rfl, rfl, by decide, by decide, rfl, rfl, rfl, by decide, by decide, ?_, by decide, fun e _ => ⟨rfl, rfl, rfl⟩, by decide⟩, ?_⟩
  · intro o h
    cases h
  · decide

def launch0 (words : List Word) : Launch := { serial := 4, number := 0, ctx := 0, words := words, source := none }

/-- Sixteen words: version 1, a digest at an aligned address, DSCALE of 16 and COMPL at 0. -/
def words0 : List Word := BitVec.ofNat 64 (2 ^ 56) :: List.replicate 15 0

/-- A submission queue at 64 of two entries of 64 bytes each two lines, HEAD 0, TAIL 1, running. -/
def queue0 : List Host.Cell := [(71, 0x10), (72, 2), (73, 1), (88, 1)]

/-- A record that waits, one with too few words, one with another version, one that is well made; a queue that has an entry, is empty, stops. -/
theorem witness_LaunchesAreReadCheckedAndBound :
    (let s : State := { State.reset with binderies := [(0, { launches := [launch0 words0] })], plat := { up := true }, ctxs := [(0, { state := .running })] }
     s.plat.up = true ∧ (s.bind 0).launches = [] ++ launch0 words0 :: [] ∧ (s.ctx 0).state ∉ [CState.binding, .saving, .saved, .savefail, .restoring] ∧
     words0.length = 16 ∧ (words0.getD 10 0).toNat % 64 = 0 ∧ (words0.getD 0 0).toNat / 2 ^ 56 = 1 ∧ (words0.getD 12 0).toNat = 0 ∧ bitOf (words0.getD 0 0).toNat 41 = false ∧
     (words0.drop 1).length ≠ 16 ∧ ((List.replicate 16 (0 : Word)).getD 0 0).toNat / 2 ^ 56 ≠ 1) ∧
    (let s : State := { State.reset with mem := queue0, plat := { up := true }, links := [(48, { state := .up })] }
     let w (s : State) (i : Nat) : Nat := leNat ((s.seen (.core 0) 6 64 64).drop (8 * i) |>.take 8)
     let mine (s : State) : Bool := (s.rd (.core 0) 6 64 64).2.pend.any fun u => u.issuer == .core 0 && u.overlaps (64 + 16) 8 && !u.seenBy (.core 0) 6
     mine s = false ∧ mine { s with pend := [newWrite 1 0 80 (leBytes 8 0) (.core 0) 6 false] } = true ∧
     fieldKey 64 64 = some 64 ∧ s.poison = [] ∧ s.tether = true ∧ (s.bind 0).launches.length < 16 ∧ bitOf (w s 4) 2 = false ∧
     sqBad ((List.range 8).map (w s)) 0 = false ∧ w s 3 % 2 ^ 32 = 1 ∧ 2 ≤ w s 1 % 2 ^ 8 ∧ (Assoc.get none (s.bind 0).queues 64).getD (w s 2 % 2 ^ 32) = 0 ∧
     fieldKey (sqBase (w s 0) + 0 % 2 ^ (w s 1 / 2 ^ 8 % 2 ^ 5) * 64 * (w s 1 % 2 ^ 8)) 128 = some 0 ∧
     sqBad ((List.range 8).map (w { s with mem := [(71, 0x20)] })) 0 = true ∧ bitOf (w { s with mem := [(96, 4)] } 4) 2 = true) := by decide

def rem0 : RemoteReq := { pkg := 2047, via := 15, unit := 2, rctx := 0, job := 3, pod := true, write := true, va := 0, size := 0, data := [1] }

/-- The same as an add of integers. -/
def rem1 : RemoteReq := { rem0 with add := some .I }

/-- What that request asks, and the operation of its unit. -/
def accOut (kind : AccKind) : Access := { e := 0, j := 0, spm := false, va := 0, size := 1, kind := kind, data := [1] }

def opRem (as : List Access) : Op :=
  { id := 5, kind := .remote, fir := { F2 with elem := 90 }, instr := nI 0, opc := 0, cap := {}, st := .active, accs := as, nums := [2047, 2, 0], vals := [1] }

/-- A pod job's write under a leaf that permits it, alone in its unit and behind another access, and one that write-blocking stalls; a companion
processor's access to memory, to a place that is not there, to REQ, and to a byte of the report area that it only reads. -/
theorem witness_OutsideAccessesAreCheckedAndPerformed :
    (let s (o : List Op) (m : List Host.Cell) : State :=
       { State.reset with mem := m, links := [(47, { state := .degraded }), (48, { state := .up })], ctxs := [(0, { state := .running, pod := true, job := 3 })], ops := o, fresh := 6 }
     let blocked := pages.map fun c => if c.1 = 0x2007 then (c.1, 0xA9) else c
     rem0.via < 16 ∧ ((s [] pages).link (32 + rem0.via)).state ∈ [LState.up, .degraded] ∧ rem0.pkg < 2048 ∧ rem0.rctx < 64 ∧ ((s [] pages).ctx 0).state ≠ .free ∧
     ((s [] pages).ctx 0).state ≠ .destroyed ∧ ((s [] pages).ctx 0).pod = true ∧ ((s [] pages).ctx 0).job.toNat = rem0.job ∧
     rem0.pod = true ∧ rem0.add = none ∧ rem1.add = some .I ∧ rem0.data.length ∈ [1, 2, 4, 8] ∧
     (∀ o ∈ (s [] pages).ops, ¬(o.kind = .remote ∧ o.nums = [2047, 2, 0])) ∧ (s [opRem []] pages).ops = [] ++ opRem [] :: [] ∧ (opRem []).nums = [rem0.pkg, rem0.unit, rem0.rctx] ∧
     (s [opRem []] pages).ops.Pairwise (fun p q => p.id ≠ q.id) ∧ (∀ o ∈ (s [opRem []] pages).ops, o.id < (s [opRem []] pages).fresh) ∧
     (let o := opRem [accOut .write]
      (s [o] pages).findOp o.id = some o ∧ o.fir.elem = 90 ∧ o.accs[0]? = some (accOut .write) ∧ o.pins = [] ∧ (accOut .write).spm = false ∧
      o.accs.eraseIdx 0 = [] ∧ (opRem [accOut (.rmw 0), accOut .read]).accs.eraseIdx 0 ≠ [] ∧ o.vals ≠ [] ∧ ({ accOut .read with size := 8, va := 4 } : Access).va % 8 ≠ 0 ∧
      (Config.capBase + 2 ^ 16 ≤ (accOut .write).va ∨ (accOut .write).va + 1 ≤ Config.capBase) ∧ (accOut .write).va < 2 ^ 56 ∧ (s [o] pages).poison = [] ∧
      (match ((s [o] pages).walk 0 0 0 5).1 with
       | .leaf e => let p := e.pte.toNat
         !bitOf p 57 && bitOf p 61 && !bitOf p 52 && !bitOf p 59 && !bitOf p 60 && bitOf p 56 && bitOf p 55 && !bitOf p 58
       | _ => false) = true ∧
      (match ((s [o] blocked).walk 0 0 0 5).1 with
       | .leaf e => let p := e.pte.toNat
         !bitOf p 57 && bitOf p 61 && !bitOf p 52 && bitOf p 59
       | _ => false) = true ∧
      ((s [o] blocked).access { ctx := 0, n := 0, iss := .remote 2047, path := 1, va := 0, size := 1, kind := .write, fmt := .I, data := [1], own := 5, count := true } ([], [])).1 = .stall)) ∧
    (let s : State := { State.reset with links := [(48, { state := .up })], plat := { stage := 6, report := 4096 } }
     let ro (b : Nat) : Bool := 3 ≤ s.plat.stage && s.plat.report ≤ b && reportRo (b - s.plat.report)
     s.tether = true ∧ State.reset.tether = false ∧ fieldKey (hbmEnd - 1) 1 = some (hbmEnd - 1) ∧ fieldKey hbmEnd 1 = none ∧ s.poisoned (hbmEnd - 1) 1 = false ∧ ¬(bitOf hbmEnd 63 = true) ∧
     ro 4096 = false ∧ ro 4097 = true ∧ ro (4096 + 63) = false ∧ ro (4096 + 64) = true) := by decide +kernel

/-! ### Contexts -/

/-- At 64 a save descriptor of one extent, at 4096, of one page; at 512 a dump descriptor with AUTO; at 1024 bindings; at 1088 bindings that break
their form. -/
def descs : List Host.Cell := [(68, 1), (89, 1), (257, 0x10), (264, 1), (521, 0x10), (528, 1), (1136, 1)]

/-- Context 0 without cores. -/
def stC (x : Context) : State := { State.reset with ctxs := [(0, x)], mem := descs, cycle := 70000 }

def cop (op : COp) (arg : Nat) : CtxOp := { op := op, arg := BitVec.ofNat 64 arg }

/-- An operation in each state that takes it and in one that does not; descriptors that stand their checks and ones that do not. -/
theorem witness_OperationsFollowTheStateTable :
    (((stC { queue := [cop .halt 0] }).ctx 0).holding = none ∧ ((stC { queue := [cop .halt 0] }).ctx 0).queue = cop .halt 0 :: []) ∧
    CState.free ∉ [CState.running] ∧ (cop .halt 0).source ≠ some 0 ∧ ({ cop .halt 0 with source := some 0 } : CtxOp).source = some 0 ∧
    (let s := stC { state := .halted, csrs := { savedesc := 64, dumpdesc := 512 } }
     (s.saveDesc (s.masterCore 0) 64 6).1 = some ([2 ^ 32, 0, 0, 256, 0, 0, 0, 0], [(4096, 1)]) ∧ (s.saveDesc (s.masterCore 0) 0 6).1 = none ∧
     (s.dumpDesc (s.masterCore 0) 512).1.isSome = true ∧ (s.dumpDesc (s.masterCore 0) 0).1 = none ∧ s.ops = [] ∧ s.groups = [] ∧ Assoc.wf {} s.elems = true ∧
     s.partition 0 = [] ∧ (({ s with poison := [64] } : State).readImage (s.masterCore 0) [(4096, 2 ^ 29 + 1)]).1 = none) ∧
    (let im : Image := { desc := 64 }
     ((stC { state := .savefail, image := some im }).ctx 0).image = some im ∧ extUsed (4096, 1) = 0) ∧
    (let s := stC { state := .binding, holding := some (cop .bind 1024) }
     (s.ctx 0).holding = some (cop .bind 1024) ∧ (s.devRead (s.masterCore 0) 1024 64).1.isSome = true ∧ 1024 % 64 = 0 ∧ 1025 % 64 ≠ 0 ∧
     (({ s with poison := [16] } : State).devRead (s.masterCore 0) 1024 64).1 = none ∧
     (let w (b : List Byte) (i : Nat) : Nat := leNat (b.drop (8 * i) |>.take 8)
      ∀ i < 8, (s.devRead (s.masterCore 0) 1024 64).1.map (fun b => w b i) = some 0 ∧ (s.devRead (s.masterCore 0) 1088 64).1.map (fun b => w b 6) = some 1)) ∧
    ({ cop .query 0 with compl := some 64 } : CtxOp).compl = some 64 ∧
    (let o : Op := { id := 5, kind := .ctxOp, fir := F2, instr := nI 1 0, opc := 0x18D, cap := {} }
     (st F2).halted F2.tag.ctx = false ∧ ({ st F2 with ops := [o] } : State).ops.filter (·.named 5) = [o]) := by decide +kernel

/-- The header of an image of no core: its mark, version 1, byte 7 at 1, 80 bytes; an empty section of CSRs. -/
def image0 : List Byte := [0x50, 0x57, 0x53, 0x49, 1, 0, 0, 1] ++ List.replicate 8 0 ++ [80] ++ List.replicate 53 0 ++ [1]

/-- A restore from it: one extent of one page, one byte of memory after another. The second, of an image with the mark cut off. -/
theorem witness_OperationsFollowTheStateTable_restore :
    (let s (m : List Host.Cell) : State := stC { state := .free, csrs := {} } |> fun s => { s with mem := [(68, 1), (89, 1), (257, 0x10), (264, 1), (267, 0x20)] ++ m }
     let good := s [(4096, 0x50), (4097, 0x57), (4098, 0x53), (4099, 0x49), (4100, 1), (4103, 1), (4112, 80), (4166, 1)]
     let x := good.readImage (good.masterCore 0) [(4096, 2 ^ 29 + 1)]
     let bytes := x.1.getD []
     x.1.isSome = true ∧ (x.2.shapeOk 0 bytes = true) ∧ (shelfOf bytes).isSome = true ∧
     (∀ h ∈ shelfOf bytes, (x.2.foliosMatch 0 h).1 = true ∧ (x.2.placesOf h (numAt bytes 28 4)).isSome = true ∧ (x.2.placesOf h 1).isSome = true) ∧
     (good.saveDesc (good.masterCore 0) 64 1).1.map (·.2) = some [(4096, 2 ^ 29 + 1)]) ∧
    State.reset.shapeOk 0 (image0.drop 1) = false ∧ shelfOf (List.replicate 70 0 ++ [4] ++ List.replicate 9 0) = none := by decide +kernel

/-- A core whose context's line is up, an element that has stopped and one that has not, with and without a request under way; a context at each
end of a save, a restore and a dump; a fault token on its way and at the root; the least clock. -/
theorem witness_HaltsAndSavesComeToTheirEnds :
    (let s (e : Elem) (os : List Op) : State := { st F2 with ctxs := [(0, { state := .halting, halt := some 3 })], elems := [(elemKey 0 89, e)], ops := os }
     (s {} []).lineUp 0 = some (0, 3) ∧ (s {} []).lineUp 1 = none ∧ ((s {} []).elem 0 89).halted = none ∧ ((s { halted := some 4 } []).elem 0 89).halted = some 4 ∧
     (∀ o ∈ ((s {} []).elem 0 89).out, o.late = none) ∧ (∀ o ∈ (s {} []).ops, o.at 0 89 = true → ∀ p, (s {} []).findOp o.id = some p → p.st ≠ .active) ∧
     (∃ o ∈ (s {} [{ opMem [acc0 0 4 .pending] with fir := { F2 with elem := 89 } }]).ops, o.kind = .mem ∧ o.fir.n = 0 ∧ o.fir.elem = 89 ∧ ∃ a ∈ o.accs, a.st = .pending) ∧
     (let e : Elem := { slots := [(0, { iw := 0x9014_0000_0000_0008 })], emitq := [{ id := 1, tok := {}, dests := [(0, 0, 3)], sent := [] }] }
      ∃ o ∈ e.out ++ e.emitq, e.requests o.slot = true) ∧
     ((s { halted := some 4 } []).elem 0 89).culprit = none ∧ ((s { halted := some 4 } []).elem 0 89).stop = none ∧ ((s { halted := some 4 } []).elem 0 89).out = [] ∧
     ((s { halted := some 4 } []).elem 0 89).emitq = [] ∧ (∀ o ∈ (s { halted := some 4 } []).ops, o.at 0 89 = true → o.st = .complete)) ∧
    ((stC { state := .halting }).allStopped 0 = true ∧ (stC { state := .halting, holding := some (cop .halt 0) }).allStopped 0 = true ∧ (cop .halt 0).waiter = none ∧
      ((stC { csrs := { savedesc := 64 } }).saveDesc ((stC {}).masterCore 0) 64 6).1.isSome = true ∧
      ((stC { csrs := { dumpdesc := 512 } }).dumpDesc ((stC {}).masterCore 0) 512).1.isSome = true ∧
      ((stC { state := .halting, byFault := true, csrs := { dumpdesc := 512 } }).autoDump 0).1 = true) ∧
    ((stC { state := .destroyed }).naming (fun t => t.ctx == 0) = false ∧ ({ stC {} with net := [{ id := 1, tok := {}, n := 0, elem := 0, slot := 0, src := none, since := 0, router := 0, lane := false }] } : State).naming (fun t => t.ctx == 0) = true) ∧
    (({ stC { state := .running, pod := true } with links := [(32, { state := .up })] } : State).strand = true ∧ (stC {}).strand = false) ∧
    (let im : Image := { desc := 64, bytes := [1], wmark := 1, extent := 1 }
     let s : State := { stC { state := .saving, image := some im } with links := [(49, { state := .up })] }
     (s.ctx 0).image = some im ∧ im.bytes ≠ [] ∧ im.bytes.length ≤ im.wmark ∧ (s.ctx 0).holding = none ∧ fieldKey im.desc.toNat 24 = some 64 ∧ s.tether = true ∧ s.poison = [] ∧
     ({ im with wmark := 0, failed := true } : Image).wmark < im.bytes.length) ∧
    (let im : Image := { bytes := image0 ++ List.replicate 9 0 }
     let s : State := stC { state := .restoring, image := some im }
     (s.ctx 0).image = some im ∧ im.failed = false ∧ s.shifting 0 2 = true ∧ im.run = false ∧
     ∃ h, shelfOf im.bytes = some h ∧ (s.placesOf h (numAt im.bytes 28 4)).isSome = true) ∧
    (let s : State := { stC { state := .dumping, image := some {} } with binderies := [(0, { dumps := [0] })] }
     (s.bind 0).dumps = 0 :: [] ∧ (s.ctx 0).state = .dumping ∧ (s.ctx 0).image = some {}) ∧
    (let f (l : Nat) : FaultTok := { id := 2, ctx := 0, level := l, recd := { cause := 3, count := 1 } }
     ({ stC {} with faults := [f 2] } : State).faults.find? (fun t => t.id == 2) = some (f 2) ∧ (f 2).level < 3 ∧ 3 ≤ (f 3).level ∧ ((stC {}).ctx 0).frec.cause = 0 ∧
     ((stC { frec := { cause := 1, arrived := 5 } }).ctx 0).frec.arrived ≠ (stC {}).cycle) ∧
    ({} : Platform).mayStep = true ∧ ({ clock := 4 } : Platform).mayStep = false := by
  refine ⟨by decide +kernel, by decide +kernel, by decide +kernel, by decide +kernel, by decide +kernel, ⟨rfl, rfl, rfl, rfl, _, rfl, rfl⟩, ?_⟩
  decide +kernel

/-! ### Packets and links -/

/-- Slot 0 holds an IADD that takes every format, with room in its buffer. -/
def elAdd : Elem := { slots := [(0, { iw := 0x2008_0020_0000_0000, sfmt := 0xFF })], equota := 10 }

/-- One entry of room, and the last Emit of a firing that holds its flags back. -/
def elLate : Elem := { emitq := [{ id := 5, tok := tokI 0 1, dests := [(0, 0, 3)], sent := [], late := some { ff := 1, jf := 0, tag := {}, slots := [] } }] }

/-- Slot 0 holds a MERGE, which fires each token. -/
def elMerge : Elem := { slots := [(0, { iw := 0x0204_0000_0000_0000, sfmt := 0xFF })], equota := 10 }

def entry0 (spilled : Bool) : Entry := { slot := 0, spilled := spilled, seq := 3, tok := tokI 0 5 }

/-- A packet at core 0 that stands at the head of its input from the cycle of its Inject. -/
def packet0 (cls since : Nat) : Packet :=
  { id := 9, tok := { tokI 0 5 with cls := BitVec.ofNat 2 cls }, n := 0, elem := 0, slot := 0, src := some (0, 1, 4, 0), since := since, router := 0, lane := false,
    headAt := some since }

def out0 : OutEntry := { id := 4, tok := tokI 0 5, dests := [(0, 0, 3), (1, 8 * 2 ^ 17, 0)], sent := [] }

/-- A state in which context 0 halts, so that no firing starts. -/
def stP (e : Elem) (net : List Packet) (cycle : Nat) : State :=
  { st F2 with elems := [(elemKey 0 0, e)], net := net, cycle := cycle, ctxs := [(0, { state := .halting, halt := some 1 })] }

theorem witness_PacketsMoveAndAreRecovered :
    -- INJECT: a destination that exists and one that does not; class 0 after 31 and after 32 cycles; a P0 output under the halt line; a late one
    (((stP { out := [out0] } [] 40).elem 0 0).out.find? (fun x => x.id == 4) = some out0 ∧ out0.dests.find? (fun x => x.1 == 0) = some (0, 0, 3) ∧
      out0.dests.find? (fun x => x.1 == 1) = some (1, 8 * 2 ^ 17, 0) ∧ routeOk 0 = true ∧ routeOk (8 * 2 ^ 17) = false ∧ out0.tok.tag.die.toNat < 8 ∧
      (0 < 160 ∧ 0 < 90 ∧ ((stP {} [] 0).elem 0 0).halted = none) ∧ 32 ≤ 32 - 0 ∧ ¬32 ≤ 31 - 0 ∧ out0.late = none ∧
      ({ halted := some 4, slots := [(0, { iw := 0x9014_0000_0000_0008 })] } : Elem).requests out0.slot = true ∧ ∀ o ∈ elLate.emitq, o.late.isSome = true) ∧
    -- a packet between two cores of a die, and at the edge of a die with its modules UP and FAILED
    (let p := { packet0 3 0 with n := 5 }
     (stP {} [p] 0).net.find? (fun x => x.id == 9) = some p ∧ 1 ∈ (stP {} [p] 0).nexts p ∧ 40 ∉ (stP {} [p] 0).nexts p ∧ p.lane = false) ∧
    (let p := { packet0 3 0 with n := 25, router := 160 }
     let s (l : LState) : State := { stP {} [p] 0 with links := (List.range 32).map fun m => (m, { state := l }) }
     160 ≤ p.router ∧ routerDie p.router ≠ dieOf p.n ∧ (s .up).nexts p ≠ [] ∧ (s .failed).nexts p = []) ∧
    -- ACCEPT: to a destroyed context, and to a slot of a halted one; past its bound
    (let s := stP elAdd [packet0 3 0] 40
     s.net.find? (fun x => x.id == 9) = some (packet0 3 0) ∧ (packet0 3 0).router = (packet0 3 0).n ∧ s.overdue (packet0 3 0) = false ∧
     (stP elAdd [packet0 0 0] 257).overdue (packet0 0 0) = true ∧ (s.ctx 0).state = .halting ∧ s.halted 0 = true ∧ s.retired {} = false ∧
     (match ((s.elem 0 0).slot 0).info with
       | some (opc, r, nd) => decide (matchRule opc nd = .pairs) && opc == 0x040 && (tokenPorts r nd).any (fun q => q.1 == 0 &&
           (match portTakes ((s.elem 0 0).slot 0) nd q.2 (packet0 3 0).tok with | .take t => t == (packet0 3 0).tok | _ => false))
       | none => false) = true ∧
     (s.setElem 0 0 { s.elem 0 0 with conc := [{ slot := 0, spilled := false, seq := s.fresh, tok := (packet0 3 0).tok }] }).fits 0 0 false = true ∧
     (({ s with ctxs := [(0, { state := .destroyed })] } : State).ctx 0).state = .destroyed) ∧
    -- REFILL and SPILLED_MATCH
    (let s (e : Elem) : State := { st F2 with elems := [(elemKey 0 0, e)] }
     let x := entry0 true
     ({ elAdd with conc := [x] } : Elem).oldestSpilled = some x ∧ (∀ x ∈ ({ elAdd with conc := [entry0 false] } : Elem).conc, x.spilled = false) ∧
      (let back (q : BitVec 9) : State := (s { elAdd with conc := [x], equota := q }).modElem 0 0 fun y => y.refilled x
       (back 10).occupancy 0 0 ≤ min 256 10 ∧ (back 10).fits 0 0 false = true ∧ (back 600).occupancy 0 0 ≤ min 256 600 ∧ ¬(back 0).occupancy 0 0 ≤ min 256 0) ∧
      (st F2).halted 0 = false ∧
      (({} : Elem).slot 0).info = none ∧ (match (elMerge.slot 0).info with | some (opc, _, nd) => decide (matchRule opc nd = .each) | none => false) = true ∧
      ({ elMerge with conc := [entry0 true] } : Elem).conc.filter (fun y => y.slot == 0) = [entry0 true]) ∧
    -- EMIT_RESUME with and without what a firing held back
    ((∃ o l, elLate.emitq = [o] ∧ o.late = some l) ∧ elLate.out.length < 14 ∧ (∀ o ∈ elLate.out, o.late = none) ∧ (∀ o ∈ elAdd.emitq, o.late = none)) ∧
    -- FIRING_PROMOTION: 255, 256 and 512 cycles; BLOCKED_TIMER and CLASS0_TIMEOUT at their limits
    (({ State.reset with cycle := 256 } : State).firingClass { F2 with promo := 0 } = 2 ∧ State.reset.firingClass { F2 with promo := 0 } = 3 ∧ 256 * (0 + 1) ≤ 256 - F2.ready ∧ ¬256 * (0 + 1) ≤ 255 - F2.ready ∧ 256 * (1 + 1) ≤ 512 - F2.ready) ∧
    ((packet0 3 0).router = 0 ∧ (packet0 3 0).lane = false ∧ (packet0 3 0).waits = false ∧ (packet0 3 0).tok.cls ≠ 0 ∧ (packet0 3 0).headAt = some 0 ∧ State.reset.plat.limit ≤ 4096 - 0 ∧
      ¬State.reset.plat.limit ≤ 4095 - 0 ∧ (packet0 0 0).tok.cls = 0 ∧ (packet0 0 0).late = false ∧ 256 < 257 - (packet0 0 0).since ∧ ¬256 < 256 - (packet0 0 0).since ∧
      dieOf (packet0 0 0).home = dieOf (packet0 0 0).n ∧ dieOf ({ packet0 0 0 with home := 20 } : Packet).home ≠ dieOf (packet0 0 0).n ∧
      ({ State.reset with links := (List.range 32).map fun m => (m, { state := .up, ready := 7 }) } : State).pathReady 8 1 0 = some 7)  := by
  refine ⟨by decide, by decide, by decide +kernel, by decide, by decide, ⟨⟨_, _, rfl, rfl⟩, by decide⟩, ?_⟩
  decide +kernel

/-- A free slip that a waiting packet takes, before and after it passes; one that is held; one that a router has missed for 65,536 cycles and one that
none has; a lost one, with and without a context that still runs. -/
theorem witness_PacketsMoveAndAreRecovered_slip :
    (let p : Packet := { packet0 3 0 with waits := true, router := 7 }
     let s : State := { stP {} [p] 40 with slips := [(0, {})] }
     p ∈ s.net ∧ ringOf p.router = 0 ∧ p.wantsSlip = true ∧ (∀ q ∈ s.net, q = p) ∧ (s.slip 0).held = none ∧ (s.slip 0).lost = false ∧ (s.slip 0).gone = false ∧
     (s.slip 0).firstPass 0 (ringPos 7) p.waitsAt ≤ s.cycle ∧ ¬(s.slip 0).firstPass 0 (ringPos 7) p.waitsAt ≤ 0) ∧
    (({ State.reset with slips := [(0, { held := some 19 })] } : State).slip (ringOf 19)).held = some 19 ∧ (stP {} [] 0).net = [] ∧
    (let x : Slip := { held := some 3, carry := 9 }
     65536 ≤ 65536 - x.lastPass 0 4 65536 ∧ ¬∃ q < 20, 65536 ≤ 65535 - x.lastPass 0 q 65535) ∧
    (({ State.reset with slips := [(8, { lost := true, lostBy := [0] })] } : State).slip 8).lost = true ∧ (stP {} [] 0).halted 0 = true ∧
    (st F2).halted 0 = false ∧ ((st F2).ctx 0).state = .running := by decide +kernel

/-- A link in each state, the last one and the first number that is none; attempts 2 and 3; replays that make a burst and that do not; each stage of
the boot; the ends of the clock; a line of memory and one past it. -/
theorem witness_LinksBootAndPlatformChange :
    (∀ k ∈ [LState.down, .training, .up, .degraded, .recovering, .failed], (({ State.reset with links := [(49, { state := k })] } : State).link 49).state = k) ∧
    (49 : BitVec 6).toNat < 50 ∧ ¬(50 : BitVec 6).toNat < 50 ∧ 2 < 3 ∧ 3 ≤ ({ attempts := 3 } : Link).attempts ∧ State.reset.bars = [] ∧
    (let count (l : List Nat) : Nat := (l.filter fun t => 5 - t ≤ 1000 * 1300 * 16 / 16).length
     64 < count (5 :: List.replicate 64 5) ∧ ¬64 < count (5 :: List.replicate 63 5) ∧ 8 ≤ (List.replicate 8 5).length ∧ ¬8 ≤ (List.replicate 7 5).length) ∧
    (32 ≤ (47 : BitVec 6).toNat ∧ (47 : BitVec 6).toNat < 48) ∧ CState.running ∉ [CState.free, .binding, .destroyed] ∧
    State.reset.plat.failed = false ∧ State.reset.plat.stage = 0 ∧ (∀ g < 6, ({ stage := g } : Platform).stage = g) ∧ 6 ≤ ({ stage := 6 } : Platform).stage ∧
    ({ stage := 6 } : Platform).up = false ∧ (∀ j < 48, (State.reset.link j).state ≠ .training) ∧
    (1000 ≤ ({ power := 1000, limit := 1024 } : Platform).power ∧ 1024 ≤ ({ power := 1000, limit := 1024 } : Platform).limit ∧ 1024 % 256 = 0 ∧ ¬1000 ≤ ({ power := 999 } : Platform).power) ∧
    (State.reset.link 48).state = .down ∧ State.reset.tether = false ∧ ({ State.reset with links := [(48, { state := .up })] } : State).tether = true ∧
    State.reset.serves = false ∧ ({ pending := true } : Platform).pending = true ∧ Assoc.wf {} State.reset.links = true ∧
    (let s : State := { State.reset with links := [(48, { state := .up })], mem := [(4096, 1)], plat := { stage := 3, report := 4096, keyed := true } }
     ¬s.plat.stage < 3 ∧ ({ stage := 2 } : Platform).stage < 3 ∧ (s.seen (.core 0) 6 s.plat.report 1).head? = some 1 ∧ (State.reset.seen (.core 0) 6 4096 1).head? ≠ some 1) ∧
    ({ keyed := true } : Platform).measure.length = 48 ∧
    325 * 16 ≤ (({ clock := 5 } : Platform).clock - 1) * 1300 ∧ ¬325 * 16 ≤ (({ clock := 4 } : Platform).clock - 1) * 1300 ∧ ({ clock := 15 } : Platform).clock < 16 ∧ ¬({} : Platform).clock < 16 ∧
    (hbmEnd / 64 - 1) * 64 < hbmEnd ∧ ¬(hbmEnd / 64 * 64 < hbmEnd ∨ 2 ^ 64 ≤ hbmEnd / 64 * 64 ∧ hbmEnd / 64 * 64 < spmKey 160 0) ∧
    (2 ^ 64 ≤ 2 ^ 64 / 64 * 64 ∧ 2 ^ 64 / 64 * 64 < spmKey 160 0) := by decide +kernel

/-- R363: the sections of an image, read back, give what they were made of: pipes with entries, a token on the stacks, an operation that holds
accesses, a collective. -/
theorem test_image_reads_back :
    let e : Elem := { elAdd with conc := [entry0 true], out := [out0] }
    let s := { stG group5 F2 with ops := [opMem [acc0 0 4 .stalled]], elems := [(elemKey 0 5, e)], bars := [{ id := coll0, contribs := [ctr 0 6] }] }
    let h := { s.toShelf 0 with stamp := 3 }
    shelfOf (List.replicate 64 0 ++ (([4, 5, 6, 7, 8, 9, 10] : List Nat).flatMap (s.sections 0 h)).flatten) = some h := by decide +kernel

/-! ### pwasm -/

/-- A kernel around the worked line of spec 03_assembly; `x` is the immediate of the FMUL. -/
def listing (x : String) : String :=
  ".folio t\n.pipe xs\n.kernel k\n.port in xs -> scale:0\nscale: FMUL.s.rne " ++ x ++ " -> acc:0, chk:0 // worked line\n" ++
  "acc: SINK.s\nchk: SINK.s\n.end"

/-- The two words of a node of a listing. -/
def asmWords (text : String) (i : Nat) : Option (Nat × Nat) :=
  ((assembleNodes [] "t" text).1.nodes[i]?).map fun n => (encodeIw n.opc n.node, encodeLw n.node.dests)

/-- The reports of a listing. -/
def asmReports (text : String) : List Report := (assembleNodes [] "t" text).2.1

/-- The instruction word that 03_assembly writes out for `FMUL.s.rne 2.5`, and the linkage word of nodes 1 and 2 by R41. -/
theorem test_assemble_fmul : asmWords (listing "2.5") 0 = some (0x3928044040200000, 0x8000040000800000) := by decide +kernel

/-- 2.4 has no exact binary32 encoding: A07 on its line (03_assembly). -/
theorem test_assemble_inexact : asmReports (listing "2.4") = [{ place := { file := "t", line := 5 }, code := .a07 }] := by decide +kernel

end Sys2Proof.Tests
end

section
/-! The decoder names an instruction of the record's own opcode and node. -/

namespace Sys2Proof
open Sys2Proof.Machine

/-- What the decoder names at an opcode has that opcode and holds the node. -/
def NamesBack (o : Nat) : Prop := ∀ n i, ofOpcode n o = some i → opcode i = some o ∧ nodeOf i = some n

theorem fabricRows_namesBack : ∀ r ∈ fabricRows, NamesBack r.opc := by
  simp only [fabricRows, List.forall_mem_cons, List.not_mem_nil, false_imp_iff, implies_true, and_true]
  (repeat' apply And.intro)
  all_goals
    intro n i h
    cases h
    exact ⟨rfl, rfl⟩

theorem integerRows_namesBack : ∀ r ∈ integerRows, NamesBack r.opc := by
  simp only [integerRows, List.forall_mem_cons, List.not_mem_nil, false_imp_iff, implies_true, and_true]
  (repeat' apply And.intro)
  all_goals
    intro n i h
    cases h
    exact ⟨rfl, rfl⟩

theorem floatRows_namesBack : ∀ r ∈ floatRows, NamesBack r.opc := by
  simp only [floatRows, List.forall_mem_cons, List.not_mem_nil, false_imp_iff, implies_true, and_true]
  (repeat' apply And.intro)
  all_goals
    intro n i h
    cases h
    exact ⟨rfl, rfl⟩

theorem convertRows_namesBack : ∀ r ∈ convertRows, NamesBack r.opc := by
  simp only [convertRows, List.forall_mem_cons, List.not_mem_nil, false_imp_iff, implies_true, and_true]
  (repeat' apply And.intro)
  all_goals
    intro n i h
    cases h
    exact ⟨rfl, rfl⟩

theorem specialRows_namesBack : ∀ r ∈ specialRows, NamesBack r.opc := by
  simp only [specialRows, List.forall_mem_cons, List.not_mem_nil, false_imp_iff, implies_true, and_true]
  (repeat' apply And.intro)
  all_goals
    intro n i h
    cases h
    exact ⟨rfl, rfl⟩

theorem jetRows_namesBack : ∀ r ∈ jetRows, NamesBack r.opc := by
  simp only [jetRows, List.forall_mem_cons, List.not_mem_nil, false_imp_iff, implies_true, and_true]
  (repeat' apply And.intro)
  all_goals
    intro n i h
    cases h
    exact ⟨rfl, rfl⟩

theorem kernelRows_namesBack : ∀ r ∈ kernelRows, NamesBack r.opc := by
  simp only [kernelRows, List.forall_mem_cons, List.not_mem_nil, false_imp_iff, implies_true, and_true]
  (repeat' apply And.intro)
  all_goals
    intro n i h
    cases h
    exact ⟨rfl, rfl⟩

theorem tileRows_namesBack : ∀ r ∈ tileRows, NamesBack r.opc := by
  simp only [tileRows, List.forall_mem_cons, List.not_mem_nil, false_imp_iff, implies_true, and_true]
  (repeat' apply And.intro)
  all_goals
    intro n i h
    cases h
    exact ⟨rfl, rfl⟩

theorem memoryRows_namesBack : ∀ r ∈ memoryRows, NamesBack r.opc := by
  simp only [memoryRows, List.forall_mem_cons, List.not_mem_nil, false_imp_iff, implies_true, and_true]
  (repeat' apply And.intro)
  all_goals
    intro n i h
    cases h
    exact ⟨rfl, rfl⟩

theorem queueRows_namesBack : ∀ r ∈ queueRows, NamesBack r.opc := by
  simp only [queueRows, List.forall_mem_cons, List.not_mem_nil, false_imp_iff, implies_true, and_true]
  (repeat' apply And.intro)
  all_goals
    intro n i h
    cases h
    exact ⟨rfl, rfl⟩

theorem systemRows_namesBack : ∀ r ∈ systemRows, NamesBack r.opc := by
  simp only [systemRows, List.forall_mem_cons, List.not_mem_nil, false_imp_iff, implies_true, and_true]
  (repeat' apply And.intro)
  all_goals
    intro n i h
    cases h
    (repeat' split) <;> exact ⟨rfl, rfl⟩

theorem selectRows_namesBack : ∀ r ∈ selectRows, NamesBack r.opc := by
  simp only [selectRows, List.forall_mem_cons, List.not_mem_nil, false_imp_iff, implies_true, and_true]
  (repeat' apply And.intro)
  all_goals
    intro n i h
    cases h
    exact ⟨rfl, rfl⟩

/-- The row of an opcode is one of R44, and it has that opcode. -/
theorem mem_rows_of_rowOf {o : Nat} {r : Row} (h : rowOf o = some r) : r ∈ rows ∧ r.opc = o :=
  ⟨List.mem_of_find?_eq_some h, by simpa using List.find?_some h⟩

theorem namesBack_of_rowOf {o : Nat} {r : Row} (h : rowOf o = some r) : NamesBack o := by
  obtain ⟨hr, rfl⟩ := mem_rows_of_rowOf h
  simp only [rows, List.mem_append] at hr
  obtain (((((((((((hr | hr) | hr) | hr) | hr) | hr) | hr) | hr) | hr) | hr) | hr) | hr) := hr
  · exact fabricRows_namesBack r hr
  · exact integerRows_namesBack r hr
  · exact floatRows_namesBack r hr
  · exact convertRows_namesBack r hr
  · exact specialRows_namesBack r hr
  · exact jetRows_namesBack r hr
  · exact kernelRows_namesBack r hr
  · exact tileRows_namesBack r hr
  · exact memoryRows_namesBack r hr
  · exact queueRows_namesBack r hr
  · exact systemRows_namesBack r hr
  · exact selectRows_namesBack r hr

/-- R30 to R43: what a node record that decodes is made of. -/
theorem decodeNode_ok {iw lw : Nat} {i : Instr} (h : decodeNode iw lw = .ok i) :
    ∃ ds n, destsOf lw = some ds ∧ fieldsOf iw ds = some n ∧ checkNode (field iw 63 55) n = none ∧
      ofOpcode n (field iw 63 55) = some i ∧ opcode i = some (field iw 63 55) ∧ nodeOf i = some n := by
  unfold decodeNode at h
  split at h
  next => cases h
  next r hr =>
    split at h
    next => cases h
    next n hn =>
      split at h
      next => cases h
      next hc =>
        split at h <;> cases h
        next ds hd ho =>
          rw [hd] at hn
          exact ⟨ds, n, hd, hn, hc, ho, namesBack_of_rowOf hr n i ho⟩

end Sys2Proof
end

section
/-! The frame of memory: every operation below the instructions leaves the cells of memory as they are. The writes that it makes
wait in `pend`; only a write's becoming visible and the boot change the cells. One lemma for each operation, in the order of the model. -/

namespace Sys2Proof.Machine

/-- A fold whose steps all keep what `p` reads of the state keeps it. -/
theorem foldl_keeps {α β γ : Type} (p : β → γ) (g : β → α → β) (h : ∀ b a, p (g b a) = p b) : ∀ (l : List α) (b : β),
    p (l.foldl g b) = p b
  | [], _ => rfl
  | a :: l, b => (foldl_keeps p g h l (g b a)).trans (h b a)

@[simp] theorem foldl_mem {α : Type} (g : State → α → State) (h : ∀ s a, (g s a).mem = s.mem) (l : List α) (s : State) :
    (l.foldl g s).mem = s.mem := foldl_keeps State.mem g h l s

@[simp] theorem foldl_snd_mem {α β : Type} (g : β × State → α → β × State) (h : ∀ p a, (g p a).2.mem = p.2.mem) (l : List α)
    (p : β × State) : (l.foldl g p).2.mem = p.2.mem := foldl_keeps (fun p => p.2.mem) g h l p

/-- What a pair's state keeps, its second part keeps under the name that a match gives it. -/
theorem mem_of_eq {α : Type} {r : α × State} {a : α} {t u : State} (h : r = (a, t)) (hr : r.2.mem = u.mem) : t.mem = u.mem := by
  rw [← hr, h]

@[simp] theorem foldl_modElem_mem {α : Type} (n e : State → α → Nat) (f : State → α → Elem → Elem) (l : List α) (s : State) :
    (l.foldl (fun s a => s.modElem (n s a) (e s a) (f s a)) s).mem = s.mem := foldl_mem _ (fun _ _ => by rfl) l s

@[simp] theorem foldl_modCore_mem {α : Type} (n : State → α → Nat) (f : State → α → Core → Core) (l : List α) (s : State) :
    (l.foldl (fun s a => s.modCore (n s a) (f s a)) s).mem = s.mem := foldl_mem _ (fun _ _ => by rfl) l s

@[simp] theorem foldl_modBind_mem {α : Type} (b : State → α → Nat) (f : State → α → Bindery → Bindery) (l : List α) (s : State) :
    (l.foldl (fun s a => s.modBind (b s a) (f s a)) s).mem = s.mem := foldl_mem _ (fun _ _ => by rfl) l s

@[simp] theorem foldl_modLink_mem {α : Type} (n : State → α → Nat) (f : State → α → Link → Link) (l : List α) (s : State) :
    (l.foldl (fun s a => s.modLink (n s a) (f s a)) s).mem = s.mem := foldl_mem _ (fun _ _ => by rfl) l s

@[simp] theorem foldl_modFrame_mem {α : Type} (n : State → α → Tag) (f : State → α → Frame → Frame) (l : List α) (s : State) :
    (l.foldl (fun s a => s.modFrame (n s a) (f s a)) s).mem = s.mem := foldl_mem _ (fun _ _ => by rfl) l s

@[simp] theorem State.faultEvent_mem (s : State) (c) : (s.faultEvent c).mem = s.mem := by simp [State.faultEvent]

@[simp] theorem State.raise_mem (s : State) (c level r who) : (s.raise c level r who).mem = s.mem := by
  simp only [State.raise]
  (repeat' split) <;> simp

@[simp] theorem State.raiseAt_mem (s : State) (c n cause) : (s.raiseAt c n cause).mem = s.mem := by simp [State.raiseAt]

@[simp] theorem State.addPacket_mem (s : State) (p) : (s.addPacket p).mem = s.mem := by simp [State.addPacket]

@[simp] theorem State.dropPacket_mem (s : State) (p) : (s.dropPacket p).mem = s.mem := by simp [State.dropPacket]

@[simp] theorem State.emitTo_mem (s : State) (n elem slot t dests) : (s.emitTo n elem slot t dests).mem = s.mem := by
  unfold State.emitTo
  split <;> rfl

@[simp] theorem Late.apply_mem (l : Late) (s : State) : (l.apply s).mem = s.mem := by simp [Late.apply]

@[simp] theorem State.flushElem_mem (s : State) (n elem) : (s.flushElem n elem).mem = s.mem := by simp [State.flushElem]

@[simp] theorem State.payLate_mem (s : State) (n elem entry) : (s.payLate n elem entry).mem = s.mem := by
  unfold State.payLate
  (repeat' split) <;> rfl

@[simp] theorem State.keepBack_mem (s : State) (t : State) (f last hold) : (s.keepBack t f last hold).mem = t.mem := by
  simp only [State.keepBack]
  (repeat' split) <;> simp

@[simp] theorem State.splitOrs_mem (s : State) (t : State) (f first) : (s.splitOrs t f first).mem = t.mem := by
  simp only [State.splitOrs]
  (repeat' split) <;> simp

@[simp] theorem State.lastEmit_mem (s : State) (t : State) (f hold) : (s.lastEmit t f hold).mem = t.mem := by
  simp only [State.lastEmit]
  (repeat' split) <;> simp

@[simp] theorem State.requeue_mem (s : State) (f) : (s.requeue f).mem = s.mem := by simp [State.requeue]

@[simp] theorem State.count_mem (s : State) (ctx n elem code k) : (s.count ctx n elem code k).mem = s.mem := by
  unfold State.count
  split <;> rfl

@[simp] theorem State.setFlags_mem (s : State) (c cap jetLane fl) : (s.setFlags c cap jetLane fl).mem = s.mem := by
  unfold State.setFlags
  split <;> rfl

@[simp] theorem State.owes_mem (s : State) (t : State) (f cap jetLane fl) : (s.owes t f cap jetLane fl).mem = t.mem := by
  simp only [State.owes]
  (repeat' split) <;> simp

@[simp] theorem Fire.fault_mem (x : Fire) (s : State) (cause addr async code book fl) :
    (x.fault s cause addr async code book fl).mem = s.mem := by simp [Fire.fault]

@[simp] theorem Fire.put_mem (x : Fire) (s : State) (out t) : (x.put s out t).mem = s.mem := by
  simp only [Fire.put]
  (repeat' split) <;> simp

@[simp] theorem Fire.emitAll_mem (x : Fire) (s : State) (os) : (x.emitAll s os).mem = s.mem := by
  induction os generalizing s with
  | nil => rfl
  | cons o os ih =>
    simp only [Fire.emitAll]
    split <;> simp [ih]

@[simp] theorem Fire.ends_mem (x : Fire) (s : State) (os fl addr) : (x.ends s os fl addr).mem = s.mem := by
  unfold Fire.ends
  split <;> simp

@[simp] theorem Fire.finish_mem (x : Fire) (s : State) (os fl addr) : (x.finish s os fl addr).mem = s.mem := by simp [Fire.finish]

@[simp] theorem Fire.failEnds_mem (x : Fire) (s : State) (cls addr) : (x.failEnds s cls addr).mem = s.mem := by
  unfold Fire.failEnds
  split <;> simp

@[simp] theorem Fire.fail_mem (x : Fire) (s : State) (cls addr) : (x.fail s cls addr).mem = s.mem := by simp [Fire.fail]

@[simp] theorem Fire.forward_mem (x : Fire) (s : State) (e) : (x.forward s e).mem = s.mem := by simp [Fire.forward]

@[simp] theorem Fire.moved_mem (x : Fire) (s : State) (body : Fire → State → State) (h : ∀ x u, (body x u).mem = u.mem) :
    (x.moved s body).mem = s.mem := by
  simp only [Fire.moved]
  (repeat' split) <;> simp [h]

@[simp] theorem State.slotFault_mem (s : State) (n elem slot t cause) : (s.slotFault n elem slot t cause).mem = s.mem :=
  by simp [State.slotFault]

@[simp] theorem State.settle_mem (s : State) (n elem big k) : (s.settle n elem big k).mem = s.mem := by
  induction k generalizing s with
  | zero => rfl
  | succ k ih =>
    simp only [State.settle]
    (repeat' split) <;> simp [ih]

@[simp] theorem State.settleAll_mem (s : State) (n elem big) : (s.settleAll n elem big).mem = s.mem := by simp [State.settleAll]

@[simp] theorem State.addEntry_mem (s : State) (n elem slot t) : (s.addEntry n elem slot t).mem = s.mem := by simp [State.addEntry]

@[simp] theorem State.acceptTok_mem (s : State) (n elem slot t) : (s.acceptTok n elem slot t).mem = s.mem := by simp [State.acceptTok]

@[simp] theorem State.cutEntries_mem (s : State) (n elem slot cuts) : (s.cutEntries n elem slot cuts).mem = s.mem := by simp [State.cutEntries]

@[simp] theorem State.ready_mem (s : State) (n elem slot tag len inputs part seq) :
    (s.ready n elem slot tag len inputs part seq).mem = s.mem := by simp [State.ready]

@[simp] theorem State.form_mem (s : State) (n elem slot es it k) : (s.form n elem slot es it k).mem = s.mem := by
  simp only [State.form]
  (repeat' split) <;> simp

@[simp] theorem State.formWhole_mem (s : State) (n elem slot es tag len part) :
    (s.formWhole n elem slot es tag len part).mem = s.mem := by simp [State.formWhole]

theorem State.formReord_mem (s : State) (n elem slot nd key base) :
    ∀ t, s.formReord n elem slot nd key base = some t → t.mem = s.mem := by
  simp only [State.formReord]
  split
  · simp
  · rintro t ⟨⟩
    simp only [State.ready_mem]
    split <;>
      simp only [State.modElem_mem] <;>
      exact foldl_mem _ (fun s a => by split <;> simp) _ _

@[simp] theorem State.formMatch_mem (s : State) (n elem slot opc rule ports it es) :
    (s.formMatch n elem slot opc rule ports it es).mem = s.mem := by
  simp only [State.formMatch]
  (repeat' split) <;> simp

theorem State.formBlock_mem (s : State) (n elem slot opc z ports usable key base) :
    ∀ t, s.formBlock n elem slot opc z ports usable key base = some t → t.mem = s.mem := by
  simp only [State.formBlock]
  (repeat' split) <;> simp

theorem State.formScan_mem (s : State) (n elem slot z usable key base) :
    ∀ t, s.formScan n elem slot z usable key base = some t → t.mem = s.mem := by
  simp only [State.formScan]
  (repeat' split) <;> simp

theorem State.formNext_mem (s : State) (n elem slot opc r nd key spilled) :
    ∀ t, s.formNext n elem slot opc r nd key spilled = some t → t.mem = s.mem := by
  intro t
  simp only [State.formNext]
  (repeat' split) <;> intro h
  · obtain ⟨b, _, hb⟩ := List.exists_of_findSome?_eq_some h
    exact s.formBlock_mem _ _ _ _ _ _ _ _ _ t hb
  · obtain ⟨b, _, hb⟩ := List.exists_of_findSome?_eq_some h
    exact s.formScan_mem _ _ _ _ _ _ _ t hb
  · cases h
    simp
  · cases h
  · obtain ⟨b, _, hb⟩ := List.exists_of_findSome?_eq_some h
    exact s.formReord_mem _ _ _ _ _ _ t hb
  · obtain ⟨c, _, rfl⟩ := Option.map_eq_some_iff.mp h
    simp

@[simp] theorem State.formAll_mem (s : State) (n elem slot opc r nd key spilled k) :
    (s.formAll n elem slot opc r nd key spilled k).mem = s.mem := by
  induction k generalizing s with
  | zero => rfl
  | succ k ih =>
    simp only [State.formAll]
    split
    next t h => rw [ih, s.formNext_mem _ _ _ _ _ _ _ _ t h]
    next => rfl

@[simp] theorem State.formSlot_mem (s : State) (n elem slot spilled) : (s.formSlot n elem slot spilled).mem = s.mem := by
  simp only [State.formSlot]
  (repeat' split) <;> simp

@[simp] theorem State.rematchSlot_mem (s : State) (n elem slot) : (s.rematchSlot n elem slot).mem = s.mem := by simp [State.rematchSlot]

@[simp] theorem State.rematchElem_mem (s : State) (n elem) : (s.rematchElem n elem).mem = s.mem := by simp [State.rematchElem]

@[simp] theorem State.acceptAll_mem (s : State) (n elem slot alone ps) : (s.acceptAll n elem slot alone ps).mem = s.mem := by
  exact foldl_mem _ (fun s p => by split <;> simp) _ _

@[simp] theorem State.enter_mem (s : State) (n elem slot opc r nd t) : (s.enter n elem slot opc r nd t).mem = s.mem := by
  simp only [State.enter]
  (repeat' split) <;> simp

@[simp] theorem State.arrive_mem (s : State) (n elem slot t) : (s.arrive n elem slot t).1.mem = s.mem := by
  simp only [State.arrive]
  (repeat' split) <;> simp

@[simp] theorem State.rd_mem (s : State) (iss path k len) : (s.rd iss path k len).2.mem = s.mem := by simp [State.rd]

@[simp] theorem State.placeFor_mem (s : State) (iss path k len inOrder) : (s.placeFor iss path k len inOrder).2.mem = s.mem :=
  by simp [State.placeFor]

@[simp] theorem State.wr_mem (s : State) (own iss path k data inOrder loose) : (s.wr own iss path k data inOrder loose).mem = s.mem :=
  by simp [State.wr]

@[simp] theorem State.rdLast_mem (s : State) (iss path k len) : (s.rdLast iss path k len).2.mem = s.mem := by simp [State.rdLast]

@[simp] theorem State.wrLast_mem (s : State) (own iss path k data) : (s.wrLast own iss path k data).mem = s.mem :=
  by simp [State.wrLast]

@[simp] theorem State.rmw_mem (s : State) (own iss path k len f) : (s.rmw own iss path k len f).2.mem = s.mem := by
  simp only [State.rmw]
  (repeat' split) <;> simp

@[simp] theorem State.rmwLast_mem (s : State) (own iss path k len f) : (s.rmwLast own iss path k len f).mem = s.mem :=
  by simp [State.rmwLast]

@[simp] theorem State.notify_mem (s : State) (c n type va rest own) : (s.notify c n type va rest own).mem = s.mem :=
  by simp [State.notify]

@[simp] theorem walk_mem (c n own va iss lvl table) (s : State) : (walk c n own va iss lvl table s).2.mem = s.mem := by
  induction lvl generalizing table s
  all_goals
    unfold walk
    extract_lets addr page old
    split
    next i s1 h1 =>
    have k1 : s1.mem = s.mem := mem_of_eq h1 (by split <;> rfl)
    rw [← k1]
    split
    next e s2 h2 =>
    have k2 : s2.mem = s1.mem := mem_of_eq h2 (by
      split
      · rfl
      · split
        · rfl
        · dsimp only
          split <;> simp)
    clear h2
    dsimp only
    (repeat' split) <;> simp [*]

@[simp] theorem State.walk_mem (s : State) (c n va own) : (s.walk c n va own).2.mem = s.mem := by simp [State.walk]

@[simp] theorem State.dropStale_mem (s : State) (c n scope since) : (s.dropStale c n scope since).mem = s.mem :=
  by simp [State.dropStale]

@[simp] theorem State.touchLeaf_mem (s : State) (c n own va e write count) : (s.touchLeaf c n own va e write count).2.mem = s.mem := by
  simp only [State.touchLeaf]
  (repeat' split) <;> simp

@[simp] theorem State.perform_mem (s : State) (r k) : (s.perform r k).2.mem = s.mem := by
  simp only [State.perform]
  (repeat' split) <;> simp

@[simp] theorem State.translate_mem (s : State) (r l) : (s.translate r l).2.2.mem = s.mem := by
  simp only [State.translate]
  (repeat' split) <;> simp

theorem State.untranslated_mem (s : State) (r) : ∀ t, s.untranslated r = some t → t.2.mem = s.mem := by
  simp only [State.untranslated]
  (repeat' split) <;> simp

@[simp] theorem State.performAt_mem (s : State) (r l p) : (s.performAt r l p).2.2.mem = s.mem := by simp [State.performAt]

@[simp] theorem State.access_mem (s : State) (r l) : (s.access r l).2.2.mem = s.mem := by
  simp only [State.access]
  have ht := s.translate_mem r l
  cases h : s.untranslated r with
  | some p => exact s.untranslated_mem r p h
  | none =>
    dsimp only
    (repeat' split) <;> simp_all

@[simp] theorem State.pinAhead_mem (s : State) (r l) : (s.pinAhead r l).2.2.mem = s.mem := by
  have ht := s.translate_mem r l
  simp only [State.pinAhead]
  (repeat' split) <;> simp_all

@[simp] theorem State.devRead_mem (s : State) (n addr len path) : (s.devRead n addr len path).2.mem = s.mem := by
  simp only [State.devRead]
  (repeat' split) <;> simp

theorem State.devWrite_mem (s : State) (own n addr data) : ∀ t, s.devWrite own n addr data = some t → t.mem = s.mem := by
  simp only [State.devWrite]
  (repeat' split) <;> simp

@[simp] theorem State.setPipe_mem (s : State) (serial p f) : (s.setPipe serial p f).mem = s.mem := by simp [State.setPipe]

@[simp] theorem State.refreshPipe_mem (s : State) (serial p occ) : (s.refreshPipe serial p occ).mem = s.mem := by
  unfold State.refreshPipe
  (repeat' split) <;> rfl

@[simp] theorem State.publishOne_mem (s : State) (serial p t) : (s.publishOne serial p t).mem = s.mem := by
  simp only [State.publishOne]
  (repeat' split) <;> simp

@[simp] theorem State.modInst_mem (s : State) (id f) : (s.modInst id f).mem = s.mem := by simp [State.modInst]

@[simp] theorem State.takeEntry_mem (s : State) (serial kernel replica p seq bare) :
    (s.takeEntry serial kernel replica p seq bare).mem = s.mem := by
  unfold State.takeEntry
  split <;> simp

@[simp] theorem State.sendMark_mem (s : State) (id p deps) : (s.sendMark id p deps).mem = s.mem := by
  simp only [State.sendMark]
  (repeat' split) <;> simp

@[simp] theorem State.markPipe_mem (s : State) (serial p deps) : (s.markPipe serial p deps).mem = s.mem := by
  unfold State.markPipe
  (repeat' split) <;> rfl

@[simp] theorem State.drainInst_mem (s : State) (g i) : (s.drainInst g i).mem = s.mem := by
  simp only [State.drainInst]
  (repeat' split) <;> simp

@[simp] theorem State.record_mem (s : State) (c n virt addr data stamp from_) :
    (s.record c n virt addr data stamp from_).mem = s.mem := by simp [State.record]

@[simp] theorem State.reportLaunch_mem (s : State) (g status err node) : (s.reportLaunch g status err node).mem = s.mem :=
  by simp [State.reportLaunch]

@[simp] theorem State.releaseCores_mem (s : State) (c) : (s.releaseCores c).mem = s.mem := by simp [State.releaseCores]

@[simp] theorem State.evict_mem (s : State) (i) : (s.evict i).mem = s.mem := by simp [State.evict]

@[simp] theorem State.settleGroup_mem (s : State) (serial) : (s.settleGroup serial).mem = s.mem := by
  simp only [State.settleGroup]
  (repeat' split) <;> simp

@[simp] theorem State.settleGroups_mem (s : State) : s.settleGroups.mem = s.mem := by simp [State.settleGroups]

@[simp] theorem State.addOp_mem (s : State) (o) : (s.addOp o).mem = s.mem := by
  simp only [State.addOp]
  (repeat' split) <;> simp

@[simp] theorem Op.access_mem (o : Op) (s : State) (r) : (o.access s r).2.2.mem = s.mem := by
  simp only [Op.access]
  (repeat' split) <;> simp

@[simp] theorem Op.pin_mem (o : Op) (s : State) (r) : (o.pin s r).2.2.mem = s.mem := by simp [Op.pin]

@[simp] theorem State.stopOp_mem (s : State) (o cause addr) : (s.stopOp o cause addr).mem = s.mem := by simp [State.stopOp]

@[simp] theorem State.showExcs_mem (s : State) (o) : (s.showExcs o).mem = s.mem := by simp [State.showExcs]

@[simp] theorem State.closeOp_mem (s : State) (o fl) (act : State → State) (h : ∀ u, (act u).mem = u.mem) :
    (s.closeOp o fl act).mem = s.mem := by
  simp [State.closeOp, h]

@[simp] theorem State.failClose_mem (s : State) (o cls) : (s.failClose o cls).mem = s.mem := by simp [State.failClose]

@[simp] theorem State.settleOp_mem (s : State) (o) : (s.settleOp o).mem = s.mem := by
  simp only [State.settleOp]
  (repeat' split) <;> simp

@[simp] theorem State.settleOps_mem (s : State) : s.settleOps.mem = s.mem := by
  exact foldl_mem _ (fun s o => by split <;> simp) _ _

@[simp] theorem State.complete_mem (s : State) (o outs) : (s.complete o outs).mem = s.mem := by
  unfold State.complete
  split <;> simp

@[simp] theorem State.failOp_mem (s : State) (o) : (s.failOp o).mem = s.mem := by
  simp only [State.failOp]
  (repeat' split) <;> simp

@[simp] theorem Fire.fmtGuard_mem (x : Fire) (s : State) (bad) (act : State → State) (h : ∀ u, (act u).mem = u.mem) :
    (x.fmtGuard s bad act).mem = s.mem := by
  simp only [Fire.fmtGuard]
  (repeat' split) <;> simp [h]

@[simp] theorem Fire.issue_mem (x : Fire) (s : State) (accs) : (x.issue s accs).mem = s.mem := by simp [Fire.issue]

@[simp] theorem execLoad_mem (x) (s : State) (spm) : (execLoad x s spm).mem = s.mem := by simp [execLoad]

@[simp] theorem State.endMem_mem (s : State) (o) : (s.endMem o).mem = s.mem := by
  simp only [State.endMem]
  (repeat' split) <;> simp

@[simp] theorem State.memAccess_mem (s : State) (o i) : (s.memAccess o i).mem = s.mem := by
  simp only [State.memAccess]
  (repeat' split) <;> simp

@[simp] theorem Fire.awaitWrites_mem (x : Fire) (s : State) (t before after scope discard) :
    (x.awaitWrites s t before after scope discard).mem = s.mem := by simp [Fire.awaitWrites]

@[simp] theorem State.retireWhere_mem (s : State) (c p) : (s.retireWhere c p).mem = s.mem := by
  simp only [State.retireWhere]
  rw [foldl_mem _ fun s o => by split <;> simp]
  exact foldl_mem _ (fun s p => by split <;> simp) _ _

@[simp] theorem State.retireFrames_mem (s : State) (c p) : (s.retireFrames c p).mem = s.mem := by simp [State.retireFrames]

@[simp] theorem Fire.stranded_mem (x : Fire) (s : State) : (x.stranded s).mem = s.mem := by simp [Fire.stranded]

@[simp] theorem State.endFrames_mem (s : State) (c n root owner) : (s.endFrames c n root owner).mem = s.mem := by simp [State.endFrames]

@[simp] theorem State.endInst_mem (s : State) (id root) : (s.endInst id root).mem = s.mem := by simp [State.endInst]

@[simp] theorem Fire.endActivation_mem (x : Fire) (s : State) (commit) : (x.endActivation s commit).mem = s.mem := by
  simp only [Fire.endActivation]
  (repeat' split) <;> simp

@[simp] theorem State.deliver_mem (s : State) (i node port t) : (s.deliver i node port t).mem = s.mem := by
  unfold State.deliver
  split <;> rfl

@[simp] theorem State.deliverInputs_mem (s : State) (i tag cls rec p ts) : (s.deliverInputs i tag cls rec p ts).mem = s.mem := by simp [State.deliverInputs]

@[simp] theorem State.activate_mem (s : State) (g k i) : (s.activate g k i).mem = s.mem := by
  simp only [State.activate]
  (repeat' split) <;> simp

@[simp] theorem State.serveGrants_mem (s : State) (tag inst k) : (s.serveGrants tag inst k).mem = s.mem := by
  induction k generalizing s with
  | zero => rfl
  | succ k ih =>
    simp only [State.serveGrants]
    (repeat' split) <;> simp [ih]

@[simp] theorem State.closeInst_mem (s : State) (tag inst) : (s.closeInst tag inst).mem = s.mem := by
  simp only [State.closeInst]
  (repeat' split) <;> simp

@[simp] theorem Fire.request_mem (x : Fire) (s : State) (m e last) : (x.request s m e last).1.mem = s.mem := by
  simp only [Fire.request]
  (repeat' split) <;> simp

@[simp] theorem Fire.unwait_mem (x : Fire) (s : State) : (x.unwait s).mem = s.mem := by
  unfold Fire.unwait
  (repeat' split) <;> rfl

@[simp] theorem Fire.await_mem (x : Fire) (s : State) (g f) : (x.await s g f).mem = s.mem := by simp [Fire.await]

@[simp] theorem State.readWords_mem (s : State) (c n own va k acc) : (s.readWords c n own va k acc).2.mem = s.mem := by
  induction k generalizing s va acc with
  | zero => rfl
  | succ k ih =>
    simp only [State.readWords]
    split <;> simp [ih]

@[simp] theorem State.rmwWord_mem (s : State) (c n own va f) : (s.rmwWord c n own va f).2.mem = s.mem := by
  simp only [State.rmwWord]
  (repeat' split) <;> simp

@[simp] theorem State.writeWords_mem (s : State) (c n own va ws) : (s.writeWords c n own va ws).2.mem = s.mem := by
  induction ws generalizing s va with
  | nil => rfl
  | cons w ws ih =>
    simp only [State.writeWords]
    split <;> simp [ih]

@[simp] theorem State.notifyStep_mem (s : State) (o) : (s.notifyStep o).mem = s.mem := by
  unfold State.notifyStep
  extract_lets c n own base first lose host
  split
  · rfl
  · split
    · simp
    · split
      · split
        next t h => simp [mem_of_eq h (s.readWords_mem _ _ _ _ _ _)]
        next w t h =>
          rw [← mem_of_eq h (s.readWords_mem _ _ _ _ _ _)]
          extract_lets tail head words
          have hlose (s bits) : (lose s bits).mem = s.mem := by
            simp only [lose]
            split <;> simp
          clear_value lose
          have hw := t.writeWords_mem c n own (nqEntry w tail) words
          (repeat' split) <;> simp_all
      · dsimp only
        (repeat' split) <;> simp

@[simp] theorem State.recordStep_mem (s : State) (o) : (s.recordStep o).mem = s.mem := by
  unfold State.recordStep
  repeat' split
  all_goals grind only [!State.writeWords_mem, → State.devWrite_mem, State.putOp_mem, State.dropOp_mem]

@[simp] theorem State.nqgetStep_mem (s : State) (o) : (s.nqgetStep o).mem = s.mem := by
  unfold State.nqgetStep
  extract_lets x c base failed out
  have hfailed (s e) : (failed s e).mem = s.mem := by
    simp only [failed]
    (repeat' split) <;> simp
  have hout (s ws) : (out s ws).mem = s.mem := by simp [out]
  clear_value failed out
  split
  next e t h => rw [hfailed, mem_of_eq h (s.readWords_mem _ _ _ _ _ _)]
  next w t h =>
    rw [← mem_of_eq h (s.readWords_mem _ _ _ _ _ _)]
    split
    · simp
    · split
      · split <;> simp [hout]
      · extract_lets head
        split
        next e u h => rw [hfailed, mem_of_eq h (t.readWords_mem _ _ _ _ _ _)]
        next entry u h =>
          rw [← mem_of_eq h (t.readWords_mem _ _ _ _ _ _)]
          split
          next h =>
            have hu := mem_of_eq (congrArg (·.2) h) (u.access_mem _ _)
            split <;> simp [hout, hu]
          next h => exact mem_of_eq (congrArg (·.2) h) (u.access_mem _ _)
          next h => rw [hfailed, mem_of_eq (congrArg (·.2) h) (u.access_mem _ _)]

@[simp] theorem State.farAccess_mem (s : State) (size write) : (s.farAccess size write).2.mem = s.mem := by
  simp only [State.farAccess]
  (repeat' split) <;> simp

@[simp] theorem Op.side_mem (o : Op) (s : State) (path d size kind fmt data whole) :
    (o.side s path d size kind fmt data whole).2.2.mem = s.mem := by
  simp only [Op.side]
  (repeat' split) <;> simp

@[simp] theorem Op.sideAhead_mem (o : Op) (s : State) (path d size kind) : (o.sideAhead s path d size kind).2.mem = s.mem := by
  unfold Op.sideAhead
  split <;> simp

@[simp] theorem Op.pieceRead_mem (o : Op) (s : State) (path p d) : (o.pieceRead s path p d).2.2.mem = s.mem := by
  simp only [Op.pieceRead]
  (repeat' split) <;> simp

@[simp] theorem Op.pieceWrite_mem (o : Op) (s : State) (path p whole b) : (o.pieceWrite s path p whole b).2.2.mem = s.mem := by
  simp only [Op.pieceWrite]
  (repeat' split) <;> simp

@[simp] theorem Op.piece_mem (o : Op) (s : State) (path p whole got) : (o.piece s path p whole got).2.2.mem = s.mem := by
  unfold Op.piece
  split <;> simp

@[simp] theorem Op.onePiece_mem (o : Op) (s : State) (path p i whole) : (o.onePiece s path p i whole).2.mem = s.mem := by
  simp only [Op.onePiece]
  (repeat' split) <;> simp

@[simp] theorem Op.doPiece_mem (o : Op) (s : State) (path ps i) : (o.doPiece s path ps i).2.mem = s.mem := by
  simp only [Op.doPiece]
  repeat' split
  any_goals simp
  exact foldl_snd_mem _ (fun p j => by (repeat' split) <;> simp) _ _

@[simp] theorem Op.pieceAhead_mem (o : Op) (s : State) (path ps i) : (o.pieceAhead s path ps i).2.mem = s.mem := by
  simp only [Op.pieceAhead]
  (repeat' split) <;> simp

@[simp] theorem Op.doPieces_mem (o : Op) (s : State) (path ps) : (o.doPieces s path ps).2.mem = s.mem := by simp [Op.doPieces]

@[simp] theorem Fire.startXfer_mem (x : Fire) (s : State) (desc nums) : (x.startXfer s desc nums).mem = s.mem :=
  by simp [Fire.startXfer]

@[simp] theorem Op.words_mem (o : Op) (s : State) (path va k acc) : (o.words s path va k acc).2.2.mem = s.mem := by
  induction k generalizing o s va acc with
  | zero => rfl
  | succ k ih =>
    simp only [Op.words]
    split <;> simp [ih]

@[simp] theorem Op.index_mem (o : Op) (s : State) : (o.index s).2.2.mem = s.mem := by
  simp only [Op.index]
  (repeat' split) <;> simp

@[simp] theorem State.endXfer_mem (s : State) (o) : (s.endXfer o).mem = s.mem := by simp [State.endXfer]

@[simp] theorem State.readAhead_mem (s : State) (o) : (s.readAhead o).mem = s.mem := by
  exact (foldl_mem _ (fun s a => by split <;> simp) _ _).trans (s.choice_mem 65)

@[simp] theorem Op.begin_mem (o : Op) (s : State) : (o.begin s).2.mem = s.mem := by
  simp only [Op.begin]
  (repeat' split) <;> simp

@[simp] theorem State.afterUnit_mem (s : State) (o last) : (s.afterUnit o last).mem = s.mem := by
  simp only [State.afterUnit]
  (repeat' split) <;> simp

@[simp] theorem State.writeFlag_mem (s : State) (o) : (s.writeFlag o).mem = s.mem := by
  simp only [State.writeFlag]
  (repeat' split) <;> simp

@[simp] theorem State.xferUnit_mem (s : State) (o) : (s.xferUnit o).mem = s.mem := by
  simp only [State.xferUnit]
  (repeat' split) <;> simp

@[simp] theorem State.xferElem_mem (s : State) (o i) : (s.xferElem o i).mem = s.mem := by
  simp only [State.xferElem]
  (repeat' split) <;> simp

@[simp] theorem State.putDieq_mem (s : State) (d) : (s.putDieq d).mem = s.mem := by simp [State.putDieq]

@[simp] theorem State.dqNumber_mem (s : State) (o) : (s.dqNumber o).mem = s.mem := by
  simp only [State.dqNumber]
  (repeat' split) <;> simp

@[simp] theorem State.dqEnd_mem (s : State) (o) : (s.dqEnd o).mem = s.mem := by
  simp only [State.dqEnd]
  (repeat' split) <;> simp

@[simp] theorem State.dqUnit_mem (s : State) (o) : (s.dqUnit o).mem = s.mem := by
  simp only [State.dqUnit]
  (repeat' split) <;> simp

@[simp] theorem Fire.dqStart_mem (x : Fire) (s : State) : (x.dqStart s).mem = s.mem := by simp [Fire.dqStart]

@[simp] theorem State.modBlock_mem (s : State) (n b f) : (s.modBlock n b f).mem = s.mem := by simp [State.modBlock]

@[simp] theorem State.markTile_mem (s : State) (n r k plane) : (s.markTile n r k plane).mem = s.mem := by simp [State.markTile]

@[simp] theorem Op.readList_mem (o : Op) (s : State) (slice u q) : (o.readList s slice u q).2.mem = s.mem := by
  simp only [Op.readList]
  (repeat' split) <;> simp

@[simp] theorem Op.pass_mem (o : Op) (s : State) (core slice u) : (o.pass s core slice u).2.mem = s.mem := by
  simp only [Op.pass]
  (repeat' split) <;> simp

@[simp] theorem State.markAll_mem (s : State) (c cores cause) : (s.markAll c cores cause).mem = s.mem := by
  exact foldl_mem _ (fun _ _ => foldl_mem _ (fun _ _ => foldl_mem _ (fun _ _ => by simp) _ _) _ _) _ _

@[simp] theorem State.endMatrix_mem (s : State) (o c cores out) : (s.endMatrix o c cores out).mem = s.mem := by
  simp only [State.endMatrix]
  (repeat' split) <;> simp

@[simp] theorem State.matrixUnitOn_mem (s : State) (o core slice) : (s.matrixUnitOn o core slice).mem = s.mem := by
  unfold State.matrixUnitOn
  repeat' split
  all_goals grind only [!Op.pass_mem, State.markTile_mem, State.endMatrix_mem, State.putOp_mem]

@[simp] theorem State.matrixUnit_mem (s : State) (o) : (s.matrixUnit o).mem = s.mem := by
  simp only [State.matrixUnit]
  (repeat' split) <;> simp

@[simp] theorem State.matrixRead_mem (s : State) (o k) : (s.matrixRead o k).mem = s.mem := by
  simp only [State.matrixRead]
  (repeat' split) <;> simp

@[simp] theorem Fire.matrix_mem (x : Fire) (s : State) : (x.matrix s).mem = s.mem := by
  unfold Fire.matrix
  repeat' split
  all_goals grind only [Fire.emitAll_mem, State.count_mem, Fire.forward_mem, Fire.fmtGuard_mem, Fire.fail_mem, !State.newId_mem,
      State.addOp_mem]

@[simp] theorem Fire.checked_mem (x : Fire) (s : State) (c) (act : State → State) (h : ∀ u, (act u).mem = u.mem) :
    (x.checked s c act).mem = s.mem := by
  cases c <;> simp [Fire.checked, h]

@[simp] theorem Fire.blockOp_mem (x : Fire) (s : State) : (x.blockOp s).mem = s.mem := by simp [Fire.blockOp]

@[simp] theorem State.acczUnit_mem (s : State) (o) : (s.acczUnit o).mem = s.mem := by
  simp only [State.acczUnit]
  (repeat' split) <;> simp

@[simp] theorem State.accrdUnit_mem (s : State) (o) : (s.accrdUnit o).mem = s.mem := by
  simp only [State.accrdUnit]
  (repeat' split) <;> simp

@[simp] theorem State.accpsRow_mem (s : State) (o r) : (s.accpsRow o r).mem = s.mem := by
  unfold State.accpsRow
  (repeat' split) <;> rfl

@[simp] theorem State.accpsUnit_mem (s : State) (o) : (s.accpsUnit o).mem = s.mem := by
  simp only [State.accpsUnit]
  (repeat' split) <;> simp

@[simp] theorem State.drainRead_mem (s : State) (o r) : (s.drainRead o r).2.mem = s.mem := by
  simp only [State.drainRead]
  (repeat' split) <;> simp

@[simp] theorem State.drainDone_mem (s : State) (o) : (s.drainDone o).mem = s.mem := by
  exact foldl_mem _ (fun _ _ => foldl_mem _ (fun s _ => by split <;> simp) _ _) _ _

@[simp] theorem State.endDrain_mem (s : State) (o) : (s.endDrain o).mem = s.mem := by
  simp only [State.endDrain]
  (repeat' split) <;> simp

@[simp] theorem State.drainUnit_mem (s : State) (o) : (s.drainUnit o).mem = s.mem := by
  simp only [State.drainUnit]
  (repeat' split) <;> simp

@[simp] theorem State.arrayRead_mem (s : State) (o k) : (s.arrayRead o k).mem = s.mem := by
  simp only [State.arrayRead]
  (repeat' split) <;> simp

@[simp] theorem State.arrayFinish_mem (s : State) (o n) : (s.arrayFinish o n).mem = s.mem := by
  simp only [State.arrayFinish]
  (repeat' split) <;> simp

@[simp] theorem State.arrayUnit_mem (s : State) (o) : (s.arrayUnit o).mem = s.mem := by
  simp only [State.arrayUnit]
  (repeat' split) <;> simp

@[simp] theorem State.load_mem (s : State) (f) : (s.load f).mem = s.mem := by
  simp only [State.load]
  (repeat' split) <;> simp

theorem State.holdBack_mem (s t : State) (f) (h : t.mem = s.mem) : (s.holdBack t f).mem = s.mem := by
  simp only [State.holdBack]
  (repeat' split) <;> simp [h]

@[simp] theorem Op.readRecord_mem (o : Op) (s : State) (va k) : (o.readRecord s va k).2.mem = s.mem := by
  simp only [Op.readRecord]
  (repeat' split) <;> simp

@[simp] theorem State.launchStep_mem (s : State) (o) : (s.launchStep o).mem = s.mem := by
  unfold State.launchStep
  repeat' split
  all_goals grind only [State.closeOp_mem, Fire.emitAll_mem, State.putOp_mem, State.dropOp_mem, !Op.readRecord_mem, State.stopOp_mem,
      State.showExcs_mem, !State.newId_mem, State.modBind_mem]

theorem Fire.absorbGroup_mem (x : Fire) (s : State) (ts) : ∀ t, x.absorbGroup s ts = some t → t.mem = s.mem := by
  unfold Fire.absorbGroup
  split <;> simp

@[simp] theorem State.scanNext_mem (s : State) (x t acc jet err deps) : (s.scanNext x t acc jet err deps).mem = s.mem := by
  simp only [State.scanNext]
  (repeat' split) <;> simp

@[simp] theorem State.endSelect_mem (s : State) (o) : (s.endSelect o).mem = s.mem := by
  simp only [State.endSelect]
  (repeat' split) <;> simp

@[simp] theorem State.startRow_mem (s : State) (k o row) : (s.startRow k o row).mem = s.mem := by
  induction k generalizing o row with
  | zero => simp [State.startRow]
  | succ k ih =>
    simp only [State.startRow]
    (repeat' split) <;> simp [ih]

@[simp] theorem State.endRow_mem (s : State) (o r) : (s.endRow o r).mem = s.mem := by simp [State.endRow]

@[simp] theorem State.failRow_mem (s : State) (o) : (s.failRow o).mem = s.mem := by simp [State.failRow]

@[simp] theorem State.endGranule_mem (s : State) (o) : (s.endGranule o).mem = s.mem := by
  simp only [State.endGranule]
  (repeat' split) <;> simp

@[simp] theorem Op.selTry_mem (o : Op) (s : State) (k) : (o.selTry s k).2.mem = s.mem := by
  simp only [Op.selTry]
  (repeat' split) <;> simp

@[simp] theorem State.selectStep_mem (s : State) (o k) : (s.selectStep o k).mem = s.mem := by
  simp only [State.selectStep]
  (repeat' split) <;> simp

@[simp] theorem State.putBar_mem (s : State) (b) : (s.putBar b).mem = s.mem := by simp [State.putBar]

@[simp] theorem Fire.arriveAt_mem (x : Fire) (s : State) (b kind value desc) : (x.arriveAt s b kind value desc).mem = s.mem :=
  by simp [Fire.arriveAt]

@[simp] theorem State.wakeBarw_mem (s : State) (o) : (s.wakeBarw o).mem = s.mem := by
  simp only [State.wakeBarw]
  (repeat' split) <;> simp

@[simp] theorem State.number_mem (s : State) (a) : (s.number a).mem = s.mem := by
  simp only [State.number]
  (repeat' split) <;> simp

@[simp] theorem State.bartOut_mem (s : State) (g o) : (s.bartOut g o).mem = s.mem := by
  unfold State.bartOut
  repeat' split
  all_goals grind only [State.closeOp_mem, Fire.forward_mem, Fire.ends_mem, Fire.failEnds_mem]

@[simp] theorem State.refuseContrib_mem (s : State) (op) : (s.refuseContrib op).mem = s.mem := by
  unfold State.refuseContrib
  split <;> simp

@[simp] theorem State.startColl_mem (s : State) (bar) : (s.startColl bar).mem = s.mem := by
  simp only [State.startColl]
  (repeat' split) <;> simp

@[simp] theorem State.contribute_mem (s : State) (a) : (s.contribute a).mem = s.mem := by
  simp only [State.contribute]
  (repeat' split) <;> simp

@[simp] theorem State.farArrival_mem (s : State) (a) : (s.farArrival a).mem = s.mem := by
  unfold State.farArrival
  split <;> rfl

@[simp] theorem State.collGranuleEnd_mem (s : State) (o) : (s.collGranuleEnd o).mem = s.mem := by
  simp only [State.collGranuleEnd]
  (repeat' split) <;> simp

@[simp] theorem State.collTask_mem (s : State) (b o k) : (s.collTask b o k).2.mem = s.mem := by
  simp only [State.collTask]
  (repeat' split) <;> simp

@[simp] theorem State.collUnit_mem (s : State) (o which) : (s.collUnit o which).mem = s.mem := by
  simp only [State.collUnit]
  (repeat' split) <;> simp

@[simp] theorem State.collGive_mem (s : State) (cs fl force addr book first) : (s.collGive cs fl force addr book first).mem = s.mem :=
  by
  simp only [State.collGive]
  refine foldl_mem _ (fun s c => ?_) _ _
  split
  · rfl
  · refine State.closeOp_mem _ _ _ _ fun u => ?_
    (repeat' split) <;> simp

@[simp] theorem State.collAfar_mem (s : State) (cs) : (s.collAfar cs).mem = s.mem := by
  simp only [State.collAfar]
  (repeat' split) <;> simp

@[simp] theorem State.deliverPartial_mem (s : State) (bar) : (s.deliverPartial bar).mem = s.mem := by
  simp only [State.deliverPartial]
  (repeat' split) <;> simp

@[simp] theorem State.expireBar_mem (s : State) (bar) : (s.expireBar bar).mem = s.mem := by simp [State.expireBar]

@[simp] theorem Fire.writeCsr_mem (x : Fire) (s : State) : (x.writeCsr s).mem = s.mem := by
  simp only [Fire.writeCsr]
  (repeat' split) <;> simp

@[simp] theorem Fire.raiseOp_mem (x : Fire) (s : State) (op arg run) : (x.raiseOp s op arg run).mem = s.mem := by
  simp only [Fire.raiseOp]
  (repeat' split) <;> simp

@[simp] theorem State.pageLeaf_mem (s : State) (c n va) : (s.pageLeaf c n va).2.mem = s.mem := by
  unfold State.pageLeaf
  split <;> simp

@[simp] theorem State.rmwLeaf_mem (s : State) (own n addr f) : (s.rmwLeaf own n addr f).2.mem = s.mem := by simp [State.rmwLeaf]

@[simp] theorem State.endPmig_mem (s : State) (o status old) : (s.endPmig o status old).mem = s.mem := by simp [State.endPmig]

@[simp] theorem State.tellPmig_mem (s : State) (o status old) : (s.tellPmig o status old).mem = s.mem := by simp [State.tellPmig]

theorem State.copyLine_mem (s : State) (own n src dst) : ∀ t, s.copyLine own n src dst = some t → t.mem = s.mem := by
  simp only [State.copyLine]
  (repeat' split) <;> simp

@[simp] theorem State.pmigStep_mem (s : State) (o) : (s.pmigStep o).mem = s.mem := by
  unfold State.pmigStep
  repeat' split
  all_goals grind only [State.endPmig_mem, !State.pageLeaf_mem, !State.rmwLeaf_mem, State.putOp_mem, State.dropStale_mem,
      → State.copyLine_mem, State.tellPmig_mem, State.dropOp_mem]

@[simp] theorem State.pmigUnit_mem (s : State) (o) : (s.pmigUnit o).mem = s.mem := by
  simp only [State.pmigUnit]
  split
  · rfl
  · exact foldl_mem _ (fun s _ => by (repeat' split) <;> simp) _ _

@[simp] theorem State.abandonPmigs_mem (s : State) (c) : (s.abandonPmigs c).mem = s.mem := by simp [State.abandonPmigs]

@[simp] theorem State.pwbStep_mem (s : State) (o) : (s.pwbStep o).mem = s.mem := by
  simp only [State.pwbStep]
  (repeat' split) <;> simp

@[simp] theorem State.pcntStep_mem (s : State) (o) : (s.pcntStep o).mem = s.mem := by
  simp only [State.pcntStep]
  (repeat' split) <;> simp

@[simp] theorem Op.readRun_mem (s : State) (w solo va k o acc) : (Op.readRun s w solo va k o acc).2.2.mem = s.mem := by
  induction k generalizing s va o acc with
  | zero => rfl
  | succ k ih =>
    simp only [Op.readRun]
    split <;> simp [ih]

@[simp] theorem Op.pinRun_mem (s : State) (w ws ok o) : (Op.pinRun s w ws ok o).2.2.mem = s.mem := by
  induction ws generalizing s ok o with
  | nil => rfl
  | cons p ws ih =>
    simp only [Op.pinRun]
    split <;> simp [ih]

@[simp] theorem Op.writeRun_mem (s : State) (w ws o) : (Op.writeRun s w ws o).2.2.mem = s.mem := by
  induction ws generalizing s o with
  | nil => rfl
  | cons p ws ih =>
    simp only [Op.writeRun]
    split <;> simp [ih]

@[simp] theorem Op.probe_mem (base logn h k i p o) (s : State) : (Op.probe base logn h k i p o s).2.2.mem = s.mem := by
  induction k generalizing i p o s with
  | zero => rfl
  | succ k ih =>
    have hr := Op.readRun_mem s 8 true (base + 64 * (i % 2 ^ logn)) 8 o []
    simp only [Op.probe]
    (repeat' split) <;> simp_all

@[simp] theorem State.shareLeaf_mem (s : State) (o addr f) : (s.shareLeaf o addr f).mem = s.mem := by simp [State.shareLeaf]

@[simp] theorem State.endPhash_mem (s : State) (o status pa count h) : (s.endPhash o status pa count h).mem = s.mem :=
  by simp [State.endPhash]

@[simp] theorem State.catalogueStep_mem (s : State) (o e page h) : (s.catalogueStep o e page h).mem = s.mem := by
  unfold State.catalogueStep
  extract_lets
  repeat' split
  all_goals grind only [!State.rdLast_mem, State.endPhash_mem, !Op.readRun_mem, State.putOp_mem, !Op.probe_mem, !Op.pinRun_mem,
      !Op.writeRun_mem, State.shareLeaf_mem]

@[simp] theorem State.phashStep_mem (s : State) (o) : (s.phashStep o).mem = s.mem := by
  unfold State.phashStep
  grind only [State.endPhash_mem, !State.pageLeaf_mem, !Op.readRun_mem, State.putOp_mem, State.catalogueStep_mem]

@[simp] theorem Op.readBeams_mem (s : State) (base nk bs o acc) : (Op.readBeams s base nk bs o acc).2.2.mem = s.mem := by
  induction bs generalizing s o acc with
  | nil => rfl
  | cons b bs ih =>
    have hr := Op.readRun_mem s 4 true (base + 64 + 4 * (b * nk)) nk o []
    simp only [Op.readBeams]
    split <;> simp_all

@[simp] theorem State.bmapStep_mem (s : State) (o) : (s.bmapStep o).mem = s.mem := by
  unfold State.bmapStep
  extract_lets
  repeat' split
  all_goals grind only [State.complete_mem, State.stopOp_mem, State.failOp_mem, !Op.readRun_mem, State.putOp_mem, !Op.readBeams_mem,
      !Op.pinRun_mem, !Op.writeRun_mem]

@[simp] theorem State.pageStep_mem (s : State) (o) : (s.pageStep o).mem = s.mem := by
  simp only [State.pageStep]
  (repeat' split) <;> simp

@[simp] theorem State.countCycles_mem (s : State) (n elem k) : (s.countCycles n elem k).mem = s.mem := by
  simp only [State.countCycles]
  (repeat' split) <;> simp

@[simp] theorem State.sample_mem (s : State) (n elem k) : (s.sample n elem k).mem = s.mem := by
  simp only [State.sample]
  (repeat' split) <;> simp

@[simp] theorem State.countAll_mem (s : State) (k) : (s.countAll k).mem = s.mem := by simp [State.countAll]

@[simp] theorem State.putCount_mem (s : State) (r) : (s.putCount r).mem = s.mem := by simp [State.putCount]

@[simp] theorem State.latch_mem (s : State) (n elem) : (s.latch n elem).mem = s.mem := by
  simp only [State.latch]
  (repeat' split) <;> simp

@[simp] theorem State.totalsStep_mem (s : State) (o) : (s.totalsStep o).mem = s.mem := by
  unfold State.totalsStep
  grind only [State.dropOp_mem, !State.writeWords_mem, State.putCount_mem]

@[simp] theorem State.counterFail_mem (s : State) (o cause addr) : (s.counterFail o cause addr).mem = s.mem := by
  unfold State.counterFail
  split <;> simp

@[simp] theorem State.counterStart_mem (s : State) (o va) : (s.counterStart o va).mem = s.mem := by
  unfold State.counterStart
  grind only [!Op.readRun_mem, State.putOp_mem, State.counterFail_mem, !Op.writeRun_mem, State.complete_mem,
      State.putCount_mem]

@[simp] theorem State.counterStop_mem (s : State) (o va) : (s.counterStop o va).mem = s.mem := by
  unfold State.counterStop
  repeat' split
  all_goals grind only [!Op.readRun_mem, State.putOp_mem, State.counterFail_mem, State.complete_mem, State.putCount_mem,
      State.dropOp_mem, !Op.writeRun_mem]

@[simp] theorem State.counterStep_mem (s : State) (o) : (s.counterStep o).mem = s.mem := by
  simp only [State.counterStep]
  (repeat' split) <;> simp

@[simp] theorem State.illegalAt_mem (s : State) (n) : (s.illegalAt n).mem = s.mem := by
  unfold State.illegalAt
  split <;> rfl

@[simp] theorem State.illegalElem_mem (s : State) (n e) : (s.illegalElem n e).mem = s.mem := by
  unfold State.illegalElem
  split <;> rfl

@[simp] theorem State.outOfRegion_mem (s : State) (n) : (s.outOfRegion n).mem = s.mem := by
  unfold State.outOfRegion
  split <;> simp

@[simp] theorem State.unstage_mem (s : State) (cores) : (s.unstage cores).mem = s.mem := by simp [State.unstage]

@[simp] theorem State.commitCore_mem (s : State) (n odd) : (s.commitCore n odd).mem = s.mem := by
  unfold State.commitCore
  extract_lets c es s1 wrote s2 s3 bad s4 s5
  have h1 : s1.mem = s.mem := foldl_mem _ (fun s e => by split <;> simp) _ _
  have h5 : s5.mem = s4.mem := by
    simp only [s5]
    split <;> simp
  clear_value s5
  (repeat' split) <;> simp [h5, s4, s3, s2, h1]

@[simp] theorem State.regionDone_mem (s : State) (b c) : (s.regionDone b c).mem = s.mem := by
  simp only [State.regionDone]
  (repeat' split) <;> simp

@[simp] theorem State.reservedWord_mem (s : State) (b k) : (s.reservedWord b k).mem = s.mem := by
  unfold State.reservedWord
  split <;> rfl

@[simp] theorem State.sendWord_mem (s : State) (b) : (s.sendWord b).mem = s.mem := by
  unfold State.sendWord
  (repeat' split) <;> rfl

@[simp] theorem State.commandCame_mem (s : State) (b n number) : (s.commandCame b n number).mem = s.mem := by simp [State.commandCame]

theorem State.takeWord_mem (s : State) (b n) : ∀ t, s.takeWord b n = some t → t.2.mem = s.mem := by
  simp only [State.takeWord]
  (repeat' split) <;> simp

@[simp] theorem State.dropWords_mem (s : State) (c cores) : (s.dropWords c cores).mem = s.mem := by simp [State.dropWords]

@[simp] theorem State.reportCmd_mem (s : State) (c die addr status code result) :
    (s.reportCmd c die addr status code result).mem = s.mem := by
  unfold State.reportCmd
  split <;> rfl

@[simp] theorem State.takeCommand_mem (s : State) (die ws) : (s.takeCommand die ws).mem = s.mem := by
  simp only [State.takeCommand]
  (repeat' split) <;> simp

@[simp] theorem State.declare_mem (s : State) (die ws source) : (s.declare die ws source).mem = s.mem := by simp [State.declare]

@[simp] theorem State.fetchBytes_mem (s : State) (virt c die addr len) : (s.fetchBytes virt c die addr len).2.mem = s.mem := by
  simp only [State.fetchBytes]
  (repeat' split) <;> simp

@[simp] theorem State.readTables_mem (s : State) (l die) : (s.readTables l die).2.mem = s.mem := by
  simp only [State.readTables]
  (repeat' split) <;> simp

@[simp] theorem State.refuseLaunch_mem (s : State) (l die err node) : (s.refuseLaunch l die err node).mem = s.mem := by
  simp only [State.refuseLaunch]
  (repeat' split) <;> simp

@[simp] theorem State.readFolio_mem (s : State) (l die) : (s.readFolio l die).2.mem = s.mem := by
  simp only [State.readFolio]
  (repeat' split) <;> simp

@[simp] theorem State.measure_mem (s : State) (digest) : (s.measure digest).mem = s.mem := by
  unfold State.measure
  split <;> rfl

@[simp] theorem State.bindLaunch_mem (s : State) (l die f t plan pipes keys) : (s.bindLaunch l die f t plan pipes keys).mem = s.mem :=
  by
  simp only [State.bindLaunch]
  (repeat' split) <;> simp

@[simp] theorem State.checkLaunch_mem (s : State) (l die) : (s.checkLaunch l die).mem = s.mem := by
  simp only [State.checkLaunch]
  (repeat' split) <;> simp

@[simp] theorem State.emitCtxOp_mem (s : State) (w) : (s.emitCtxOp w).mem = s.mem := by
  simp only [State.emitCtxOp]
  (repeat' split) <;> simp

@[simp] theorem State.answer_mem (s : State) (id v) : (s.answer id v).mem = s.mem := by simp [State.answer]

@[simp] theorem State.endOp_mem (s : State) (c o code result) : (s.endOp c o code result).mem = s.mem := by
  unfold State.endOp
  split <;> simp

@[simp] theorem State.endHeld_mem (s : State) (c code result) : (s.endHeld c code result).mem = s.mem := by
  unfold State.endHeld
  split <;> simp

theorem State.takeOp_mem (s : State) (c op) : ∀ t, s.takeOp c op = some t → t.2.mem = s.mem := by
  unfold State.takeOp
  split <;> simp

@[simp] theorem State.raiseLine_mem (s : State) (c o) : (s.raiseLine c o).mem = s.mem := by simp [State.raiseLine]

@[simp] theorem State.finishUnit_mem (s : State) (o n) : (s.finishUnit o n).mem = s.mem := by
  unfold State.finishUnit
  repeat' split
  any_goals simp
  exact foldl_mem _ (fun s k => by (repeat' split) <;> simp) _ _

@[simp] theorem State.resume_mem (s : State) (c) : (s.resume c).mem = s.mem := by
  unfold State.resume
  extract_lets cores s1 s2 s3 s4 s5
  have h4 : s4.mem = s.mem := by simp [s4, s3, s2, s1]
  rw [State.settleGroups_mem, State.settleOps_mem, ← h4]
  refine foldl_mem _ (fun s n => ?_) _ _
  refine (foldl_mem _ (fun s e => by split <;> simp) _ _).trans (foldl_mem _ (fun s p => ?_) _ _)
  obtain ⟨f, _ | x⟩ := p <;> simp

@[simp] theorem State.destroy_mem (s : State) (c) : (s.destroy c).mem = s.mem := by
  unfold State.destroy
  extract_lets cores s1 s2 s3 serials drop s4 s5 s6 s7
  have h3 : s3.mem = s2.mem := foldl_mem _ (fun s p => foldl_mem _ (fun s l => by split <;> simp) _ _) _ _
  simp [s7, s6, s5, s4, h3, s2, s1]

@[simp] theorem State.leaveFabric_mem (s : State) (c) : (s.leaveFabric c).mem = s.mem := by simp [State.leaveFabric]

@[simp] theorem State.unreord_mem (s : State) (n elem f) : (s.unreord n elem f).mem = s.mem := by
  unfold State.unreord
  (repeat' split) <;> rfl

@[simp] theorem State.unmatch_mem (s : State) (n elem) : (s.unmatch n elem).mem = s.mem := by
  simp [State.unmatch, -List.foldl_reverse]

@[simp] theorem State.rename_mem (s : State) (h r) : (s.rename h r).mem = s.mem := by
  unfold State.rename
  split <;> rfl

@[simp] theorem State.loadShelf_mem (s : State) (h r) : (s.loadShelf h r).mem = s.mem := by
  unfold State.loadShelf
  extract_lets again s1 s2 s3 s4
  have h4 : s4.mem = s3.mem := foldl_mem _ (fun s p => by split <;> simp) _ _
  simp [h4, s3, s2, s1]

@[simp] theorem State.saveDesc_mem (s : State) (n addr path) : (s.saveDesc n addr path).2.mem = s.mem := by
  simp only [State.saveDesc]
  (repeat' split) <;> simp

@[simp] theorem State.devPut_mem (s : State) (n addr b) : (s.devPut n addr b).mem = s.mem := by
  simp only [State.devPut]
  cases h : s.devWrite 0 n addr b with
  | none => rfl
  | some t => exact s.devWrite_mem _ _ _ _ t h

@[simp] theorem State.overlay_mem (s : State) (c cores cmd) : (s.overlay c cores cmd).mem = s.mem := by simp [State.overlay]

@[simp] theorem State.modImage_mem (s : State) (c f) : (s.modImage c f).mem = s.mem := by simp [State.modImage]

@[simp] theorem State.startSave_mem (s : State) (c o was) : (s.startSave c o was).mem = s.mem := by
  simp only [State.startSave]
  (repeat' split) <;> simp

@[simp] theorem State.saveUnit_mem (s : State) (o) : (s.saveUnit o).mem = s.mem := by
  unfold State.saveUnit
  extract_lets
  repeat' split
  all_goals grind only [State.modCtx_mem, State.modOp_mem, !State.saveDesc_mem, State.devPut_mem, → State.devWrite_mem]

@[simp] theorem State.markImage_mem (s : State) (c im status) : (s.markImage c im status).mem = s.mem := by
  simp only [State.markImage]
  (repeat' split) <;> simp

@[simp] theorem State.continueSave_mem (s : State) (c o im) : (s.continueSave c o im).mem = s.mem := by
  simp only [State.continueSave]
  (repeat' split) <;> simp

@[simp] theorem State.readImage_mem (s : State) (n es) : (s.readImage n es).2.mem = s.mem := by
  exact foldl_snd_mem _ (fun p a => by split <;> simp) _ _

@[simp] theorem State.foliosMatch_mem (s : State) (c h) : (s.foliosMatch c h).2.mem = s.mem := by
  refine foldl_snd_mem _ (fun p g => ?_) _ _
  dsimp only
  split <;> simp

@[simp] theorem State.dumpDesc_mem (s : State) (n addr) : (s.dumpDesc n addr).2.mem = s.mem := by
  simp only [State.dumpDesc]
  (repeat' split) <;> simp

@[simp] theorem State.beginDump_mem (s : State) (die) : (s.beginDump die).mem = s.mem := by
  unfold State.beginDump
  split <;> rfl

@[simp] theorem State.startDump_mem (s : State) (c o was prior) : (s.startDump c o was prior).mem = s.mem := by
  simp only [State.startDump]
  (repeat' split) <;> simp

@[simp] theorem State.writeLines_mem (s : State) (n a off xs) : (s.writeLines n a off xs).2.mem = s.mem := by
  induction xs generalizing s off with
  | nil => rfl
  | cons x xs ih =>
    simp only [State.writeLines]
    split
    next => rfl
    next t h => rw [ih, s.devWrite_mem _ _ _ _ t h]

@[simp] theorem State.writeDump_mem (s : State) (c im w) : (s.writeDump c im w).2.mem = s.mem := by
  unfold State.writeDump
  grind only [!State.writeLines_mem, State.devPut_mem, → State.devWrite_mem]

@[simp] theorem State.haltNote_mem (s : State) (c) : (s.haltNote c).mem = s.mem := by
  simp only [State.haltNote]
  (repeat' split) <;> simp

@[simp] theorem State.autoDump_mem (s : State) (c) : (s.autoDump c).2.mem = s.mem := by simp [State.autoDump]

@[simp] theorem State.remoteStep_mem (s : State) (o i) : (s.remoteStep o i).mem = s.mem := by
  simp only [State.remoteStep]
  (repeat' split) <;> simp

@[simp] theorem State.opAccess_mem (s : State) (o k) : (s.opAccess o k).mem = s.mem := by
  unfold State.opAccess
  split <;> simp

@[simp] theorem State.answered_mem (s : State) (o) : (s.answered o).mem = s.mem := by
  unfold State.answered
  split <;> rfl

@[simp] theorem State.maybePerform_mem (s : State) (o) : (s.maybePerform o).mem = s.mem := by
  simp only [State.maybePerform]
  split
  · rfl
  · exact foldl_mem _ (fun s a => by split <;> simp) _ _

@[simp] theorem State.translateAhead_mem (s : State) (o k) : (s.translateAhead o k).mem = s.mem := by
  simp only [State.translateAhead]
  (repeat' split) <;> simp

@[simp] theorem State.countDrain_mem (s : State) (x y) : (s.countDrain x y).mem = s.mem := by
  simp only [State.countDrain]
  (repeat' split) <;> simp

@[simp] theorem State.hop_mem (s : State) (packet router) : (s.hop packet router).mem = s.mem := by
  simp only [State.hop]
  (repeat' split) <;> simp

@[simp] theorem State.lateFault_mem (s : State) (p) : (s.lateFault p).mem = s.mem := by
  unfold State.lateFault
  split <;> rfl

@[simp] theorem State.setSlip_mem (s : State) (ring x) : (s.setSlip ring x).mem = s.mem := by simp [State.setSlip]

@[simp] theorem State.slipGone_mem (s : State) (ring) : (s.slipGone ring).mem = s.mem := by
  simp only [State.slipGone]
  (repeat' split) <;> simp

@[simp] theorem State.linkNote_mem (s : State) (l old new) : (s.linkNote l old new).mem = s.mem := by
  simp only [State.linkNote]
  (repeat' split) <;> simp

@[simp] theorem State.expireWhere_mem (s : State) (p) : (s.expireWhere p).mem = s.mem := by simp [State.expireWhere]

@[simp] theorem State.farFailed_mem (s : State) (c) : (s.farFailed c).mem = s.mem := by simp [State.farFailed]

@[simp] theorem State.failRemote_mem (s : State) : s.failRemote.mem = s.mem := by simp [State.failRemote]

@[simp] theorem State.linkFailed_mem (s : State) (l) : (s.linkFailed l).mem = s.mem := by
  simp only [State.linkFailed]
  (repeat' split) <;> simp

@[simp] theorem State.linkTo_mem (s : State) (l new f) : (s.linkTo l new f).mem = s.mem := by
  simp only [State.linkTo]
  (repeat' split) <;> simp

@[simp] theorem State.train_mem (s : State) (ls) : (s.train ls).mem = s.mem := by simp [State.train]

@[simp] theorem State.tick_mem (s : State) (k) : (s.tick k).mem = s.mem := by
  simp only [State.tick]
  (repeat' split) <;> simp

end Sys2Proof.Machine
end

section
/-! Every instruction and event but the boot answers a next state and leaves the cells of memory as they are. -/

namespace Sys2Proof.Machine

/-- The outcome is a next state, with memory as it was. -/
def KeepsMem (s : State) (o : Host.Outcome State Fault Refusal) : Prop := ∃ t, o = .next t ∧ t.mem = s.mem

@[simp] theorem keepsMem_next (s t : State) : KeepsMem s (.next t) ↔ t.mem = s.mem := by
  simp [KeepsMem]

/-- On a loaded set a node instruction goes on, and memory is kept where its body keeps it. -/
theorem fire_keepsMem {s : State} {f : Firing} (hf : s.firing = some f) {o : Nat} {n : Node} {errs : Bool}
    {body : Fire → State → State} (h : ∀ x u, (body x u).mem = u.mem) : KeepsMem s (fire o n s errs body) := by
  simp only [fire, hf, keepsMem_next]
  (repeat' split) <;> simp [h]

theorem fireMove_keepsMem {s : State} {f : Firing} (hf : s.firing = some f) {o : Nat} {n : Node} {errs : Bool}
    {body : Fire → State → State} (h : ∀ x u, (body x u).mem = u.mem) : KeepsMem s (fireMove o n s errs body) :=
  fire_keepsMem hf fun x u => x.moved_mem u body h

theorem fireStore_keepsMem {s : State} {f : Firing} (hf : s.firing = some f) {o : Nat} {n : Node}
    {body : Fire → State → State} (h : ∀ x u, (body x u).mem = u.mem) : KeepsMem s (fireStore o n s body) :=
  fire_keepsMem hf fun x u => x.moved_mem u _ fun _ v => h _ v

theorem moveData_keepsMem {s : State} {f : Firing} (hf : s.firing = some f) {o : Nat} {n : Node}
    {body : Fire → State → List Out × Nat} : KeepsMem s (moveData o n s body) := fire_keepsMem hf fun x u => x.finish_mem u _ _ _

theorem firePure_keepsMem {s : State} {f : Firing} (hf : s.firing = some f) {o : Nat} {n : Node}
    {body : Fire → State → List Out × Nat} : KeepsMem s (firePure o n s body) := fire_keepsMem hf fun x u => x.finish_mem u _ _ _

/-- On a loaded stream a command word goes on. -/
theorem inStream_keepsMem {s : State} {b n : Nat} (hs : s.stream = some (b, n)) {g : Nat → Nat → State → State}
    (h : ∀ u, (g b n u).mem = u.mem) : KeepsMem s (inStream s g) := by
  simp [inStream, hs, h]

theorem State.accept_keepsMem (s : State) (c : BitVec 6) (op : COp) {act : CtxOp → State → State}
    (h : ∀ o u, (act o u).mem = u.mem) : KeepsMem s (s.accept c op act) := by
  simp only [State.accept, keepsMem_next]
  split
  next o t ht => rw [h, s.takeOp_mem c op _ ht]
  next => rfl

theorem State.getD_devWrite_mem (s : State) (own n addr data) : ((s.devWrite own n addr data).getD s).mem = s.mem := by
  cases h : s.devWrite own n addr data with
  | none => rfl
  | some t => exact s.devWrite_mem _ _ _ _ t h

theorem Fire.map_forward_mem (x : Fire) (s : State) (e : Option Tok) :
    ∀ t, e.map (x.forward s) = some t → t.mem = s.mem := by
  cases e <;> simp

theorem ctrig_keepsMem {n s f} (h : s.firing = some f) : KeepsMem s (ctrig n s) := fire_keepsMem h fun _ _ => by simp

theorem execLd_keepsMem {n s f} (h : s.firing = some f) : KeepsMem s (execLd n s) :=
  fire_keepsMem h fun _ _ => by simp

theorem execLds_keepsMem {n s f} (h : s.firing = some f) : KeepsMem s (execLds n s) :=
  fire_keepsMem h fun _ _ => by simp

theorem execLdx_keepsMem {n s f} (h : s.firing = some f) : KeepsMem s (execLdx n s) :=
  fire_keepsMem h fun _ _ => by simp

theorem execSt_keepsMem {n s f} (h : s.firing = some f) : KeepsMem s (execSt n s) :=
  fireStore_keepsMem h fun _ _ => by simp

theorem execSts_keepsMem {n s f} (h : s.firing = some f) : KeepsMem s (execSts n s) :=
  fireStore_keepsMem h fun _ _ => by simp

theorem execStx_keepsMem {n s f} (h : s.firing = some f) : KeepsMem s (execStx n s) :=
  fireStore_keepsMem h fun _ _ => by simp

theorem execAtom_keepsMem {n s f} (h : s.firing = some f) : KeepsMem s (execAtom n s) :=
  fire_keepsMem h fun _ _ => by simp

theorem execAtomr_keepsMem {n s f} (h : s.firing = some f) : KeepsMem s (execAtomr n s) :=
  fire_keepsMem h fun _ _ => by simp

theorem execCas_keepsMem {n s f} (h : s.firing = some f) : KeepsMem s (execCas n s) :=
  fire_keepsMem h fun _ _ => by simp

theorem execFence_keepsMem {n s f} (h : s.firing = some f) : KeepsMem s (execFence n s) :=
  fire_keepsMem h fun _ _ => by simp

theorem execTfence_keepsMem {n s f} (h : s.firing = some f) : KeepsMem s (execTfence n s) :=
  fire_keepsMem h fun _ _ => by simp

theorem execPref_keepsMem {n s f} (h : s.firing = some f) : KeepsMem s (execPref n s) :=
  fire_keepsMem h fun _ _ => foldl_mem _ (fun _ _ => by split <;> simp) _ _

theorem execCommit_keepsMem {n s f} (h : s.firing = some f) : KeepsMem s (execCommit n s) :=
  fire_keepsMem h fun _ _ => by simp

theorem execDiscard_keepsMem {n s f} (h : s.firing = some f) : KeepsMem s (execDiscard n s) :=
  fire_keepsMem h fun _ _ => by simp

theorem execTspace_keepsMem {n s f} (h : s.firing = some f) : KeepsMem s (execTspace n s) :=
  fire_keepsMem h fun _ _ => by
    dsimp only
    (repeat' split) <;> simp

theorem execTalloc_keepsMem {n s f} (h : s.firing = some f) : KeepsMem s (execTalloc n s) :=
  fire_keepsMem h fun x u => foldl_keeps (fun p : State × Bool => p.1.mem) _ (fun p e => by split <;> simp) _ _

theorem execTfree_keepsMem {n s f} (h : s.firing = some f) : KeepsMem s (execTfree n s) :=
  fire_keepsMem h fun _ _ => by
    dsimp only
    (repeat' split) <;> simp

theorem execTclose_keepsMem {n s f} (h : s.firing = some f) : KeepsMem s (execTclose n s) :=
  fire_keepsMem h fun _ _ => by
    dsimp only
    (repeat' split) <;> simp

theorem execLdslot_keepsMem {n s f} (h : s.firing = some f) : KeepsMem s (execLdslot n s) :=
  fire_keepsMem h fun _ _ => by
    dsimp only
    (repeat' split) <;> simp

theorem execStslot_keepsMem {n s f} (h : s.firing = some f) : KeepsMem s (execStslot n s) :=
  fireMove_keepsMem h fun _ _ => by
    dsimp only
    (repeat' split) <;> simp

theorem execClrslot_keepsMem {n s f} (h : s.firing = some f) : KeepsMem s (execClrslot n s) :=
  fire_keepsMem h fun _ _ => by simp

theorem execCall_keepsMem {n s f} (h : s.firing = some f) : KeepsMem s (execCall n s) :=
  fire_keepsMem h fun _ _ => by (repeat' split) <;> simp

theorem execArg_keepsMem {n s f} (h : s.firing = some f) : KeepsMem s (execArg n s) :=
  fireMove_keepsMem h fun _ _ => by
    dsimp only
    (repeat' split) <;> simp

theorem execRet_keepsMem {n s f} (h : s.firing = some f) : KeepsMem s (execRet n s) :=
  fireMove_keepsMem h fun _ _ => by (repeat' split) <;> simp

theorem execFrmid_keepsMem {n s f} (h : s.firing = some f) : KeepsMem s (execFrmid n s) :=
  fire_keepsMem h fun _ _ => by (repeat' split) <;> simp

theorem execFire_keepsMem {n s f} (h : s.firing = some f) : KeepsMem s (execFire n s) :=
  fireMove_keepsMem h fun _ _ => by (repeat' split) <;> simp

theorem execQput_keepsMem {n s f} (h : s.firing = some f) : KeepsMem s (execQput n s) :=
  fire_keepsMem h fun x u => x.moved_mem u _ fun y v => by
    dsimp only
    (repeat' split) <;> simp

theorem execQget_keepsMem {n s f} (h : s.firing = some f) : KeepsMem s (execQget n s) :=
  fire_keepsMem h fun _ _ => by
    dsimp only
    (repeat' split) <;> simp

theorem execQeos_keepsMem {n s f} (h : s.firing = some f) : KeepsMem s (execQeos n s) :=
  fire_keepsMem h fun _ _ => by (repeat' split) <;> simp

theorem execQstat_keepsMem {n s f} (h : s.firing = some f) : KeepsMem s (execQstat n s) :=
  fire_keepsMem h fun _ _ => by (repeat' split) <;> simp

theorem execNqget_keepsMem {n s f} (h : s.firing = some f) : KeepsMem s (execNqget n s) :=
  fire_keepsMem h fun _ _ => by
    dsimp only
    (repeat' split) <;> simp

theorem execCpy_keepsMem {n s f} (h : s.firing = some f) : KeepsMem s (execCpy n s) :=
  fire_keepsMem h fun _ _ => by simp

theorem execCpyw_keepsMem {n s f} (h : s.firing = some f) : KeepsMem s (execCpyw n s) :=
  fire_keepsMem h fun _ _ => by simp

theorem execGath_keepsMem {n s f} (h : s.firing = some f) : KeepsMem s (execGath n s) :=
  fire_keepsMem h fun _ _ => by simp

theorem execScat_keepsMem {n s f} (h : s.firing = some f) : KeepsMem s (execScat n s) :=
  fire_keepsMem h fun _ _ => by simp

theorem execMcst_keepsMem {n s f} (h : s.firing = some f) : KeepsMem s (execMcst n s) :=
  fire_keepsMem h fun _ _ => by simp

theorem execDqput_keepsMem {n s f} (h : s.firing = some f) : KeepsMem s (execDqput n s) :=
  fireStore_keepsMem h fun _ _ => by simp

theorem execDqflg_keepsMem {n s f} (h : s.firing = some f) : KeepsMem s (execDqflg n s) :=
  fire_keepsMem h fun _ _ => by simp

theorem execMma_keepsMem {n s f} (h : s.firing = some f) : KeepsMem s (execMma n s) :=
  fire_keepsMem h fun _ _ => by simp

theorem execMmai_keepsMem {n s f} (h : s.firing = some f) : KeepsMem s (execMmai n s) :=
  fire_keepsMem h fun _ _ => by simp

theorem execMmag_keepsMem {n s f} (h : s.firing = some f) : KeepsMem s (execMmag n s) :=
  fire_keepsMem h fun _ _ => by simp

theorem execMmaj_keepsMem {n s f} (h : s.firing = some f) : KeepsMem s (execMmaj n s) :=
  fire_keepsMem h fun _ _ => by simp

theorem execMmat_keepsMem {n s f} (h : s.firing = some f) : KeepsMem s (execMmat n s) :=
  fire_keepsMem h fun _ _ => by simp

theorem execTref_keepsMem {n s f} (h : s.firing = some f) : KeepsMem s (execTref n s) :=
  fire_keepsMem h fun _ _ => by
    dsimp only
    (repeat' split) <;> simp

theorem execTsplt_keepsMem {n s f} (h : s.firing = some f) : KeepsMem s (execTsplt n s) :=
  fire_keepsMem h fun _ _ => by
    dsimp only
    (repeat' split) <;> simp

theorem execAccz_keepsMem {n s f} (h : s.firing = some f) : KeepsMem s (execAccz n s) :=
  fire_keepsMem h fun _ _ => by simp

theorem execAccrd_keepsMem {n s f} (h : s.firing = some f) : KeepsMem s (execAccrd n s) :=
  fire_keepsMem h fun _ _ => by simp

theorem execAccwr_keepsMem {n s f} (h : s.firing = some f) : KeepsMem s (execAccwr n s) :=
  fire_keepsMem h fun _ _ => by simp

theorem execAccps_keepsMem {n s f} (h : s.firing = some f) : KeepsMem s (execAccps n s) :=
  fire_keepsMem h fun _ _ => by simp

theorem execTdrn_keepsMem {n s f} (h : s.firing = some f) : KeepsMem s (execTdrn n s) :=
  fire_keepsMem h fun _ _ => by simp

theorem execGpri_keepsMem {n s f} (h : s.firing = some f) : KeepsMem s (execGpri n s) :=
  fire_keepsMem h fun _ _ => by
    dsimp only
    (repeat' split) <;> simp

theorem execGinfo_keepsMem {n s f} (h : s.firing = some f) : KeepsMem s (execGinfo n s) :=
  fire_keepsMem h fun _ _ => by simp

theorem execLaunch_keepsMem {n s f} (h : s.firing = some f) : KeepsMem s (execLaunch n s) :=
  fire_keepsMem h fun _ _ => by simp

theorem execMerge_keepsMem {n s f} (h : s.firing = some f) : KeepsMem s (execMerge n s) :=
  fireMove_keepsMem h fun _ _ => by simp

theorem execSink_keepsMem {n s f} (h : s.firing = some f) : KeepsMem s (execSink n s) :=
  fireMove_keepsMem h fun _ _ => by simp

theorem execRetag_keepsMem {n s f} (h : s.firing = some f) : KeepsMem s (execRetag n s) :=
  fire_keepsMem h fun _ _ => by
    dsimp only
    (repeat' split) <;> simp

theorem execJoin_keepsMem {n s f} (h : s.firing = some f) : KeepsMem s (execJoin n s) :=
  fireMove_keepsMem h fun _ _ => by simp

theorem execReduce_keepsMem {n s f} (h : s.firing = some f) : KeepsMem s (execReduce n s) :=
  fire_keepsMem h fun x u => by
    dsimp only
    split
    next t ht =>
      split at ht
      · exact x.absorbGroup_mem u _ t ht
      · exact x.map_forward_mem u _ t ht
    next => simp

theorem execScan_keepsMem {n s f} (h : s.firing = some f) : KeepsMem s (execScan n s) :=
  fire_keepsMem h fun _ _ => by
    dsimp only
    (repeat' split) <;> simp

theorem execErrt_keepsMem {n s f} (h : s.firing = some f) : KeepsMem s (execErrt n s) :=
  fireMove_keepsMem h fun _ _ => by
    dsimp only
    (repeat' split) <;> simp

theorem execTopk_keepsMem {n s f} (h : s.firing = some f) : KeepsMem s (execTopk n s) :=
  fire_keepsMem h fun _ _ => by simp

theorem execSample_keepsMem {n s f} (h : s.firing = some f) : KeepsMem s (execSample n s) :=
  fire_keepsMem h fun _ _ => by simp

theorem execSmaxt_keepsMem {n s f} (h : s.firing = some f) : KeepsMem s (execSmaxt n s) := by
  refine fire_keepsMem h fun x u => ?_
  extract_lets ts t w ls fin like nan
  have hfin (s fl make) : (fin s fl make).mem = s.mem := by
    simp only [fin]
    (repeat' split) <;> simp
  clear_value fin
  split
  next t ht =>
    cases ha : x.absorbGroup u ts with
    | some v =>
      rw [ha] at ht
      cases ht
      exact x.absorbGroup_mem u _ _ ha
    | none =>
      rw [ha] at ht
      exact x.map_forward_mem u _ t ht
  next =>
    dsimp only [nan]
    (repeat' split) <;> exact hfin ..

theorem execArgmx_keepsMem {n s f} (h : s.firing = some f) : KeepsMem s (execArgmx n s) :=
  fire_keepsMem h fun x u => by
    dsimp only
    split
    next t ht =>
      split at ht
      · exact x.absorbGroup_mem u _ t ht
      · exact x.map_forward_mem u _ t ht
    next => simp

theorem execCmpr_keepsMem {n s f} (h : s.firing = some f) : KeepsMem s (execCmpr n s) :=
  fire_keepsMem h fun _ _ => by
    dsimp only
    (repeat' split) <;> simp

theorem execExpd_keepsMem {n s f} (h : s.firing = some f) : KeepsMem s (execExpd n s) :=
  fire_keepsMem h fun _ _ => by simp

theorem execBara_keepsMem {n s f} (h : s.firing = some f) : KeepsMem s (execBara n s) :=
  fire_keepsMem h fun _ _ => by simp

theorem execBart_keepsMem {n s f} (h : s.firing = some f) : KeepsMem s (execBart n s) :=
  fire_keepsMem h fun _ _ => by simp

theorem execBarw_keepsMem {n s f} (h : s.firing = some f) : KeepsMem s (execBarw n s) := by
  unfold execBarw
  refine fire_keepsMem h fun x u => ?_
  generalize (x.port 0).elem 4 0 0 = g
  simp only [apply_ite State.mem]
  split <;> simp

theorem execColl_keepsMem {n s f} (h : s.firing = some f) : KeepsMem s (execColl n s) :=
  fire_keepsMem h fun _ _ => by simp

theorem execTrap_keepsMem {n s f} (h : s.firing = some f) : KeepsMem s (execTrap n s) :=
  fire_keepsMem h fun _ _ => by simp

theorem execBkpt_keepsMem {n s f} (h : s.firing = some f) : KeepsMem s (execBkpt n s) :=
  fire_keepsMem h fun _ _ => by simp

theorem execCsrr_keepsMem {n s f} (h : s.firing = some f) : KeepsMem s (execCsrr n s) :=
  fire_keepsMem h fun _ _ => by simp

theorem execCsrrViolog_keepsMem {n s f} (h : s.firing = some f) : KeepsMem s (execCsrrViolog n s) :=
  fire_keepsMem h fun _ _ => by (repeat' split) <;> simp

theorem execCsrw_keepsMem {n s f} (h : s.firing = some f) : KeepsMem s (execCsrw n s) :=
  fire_keepsMem h fun _ _ => by simp

theorem execCsrwFflags_keepsMem {n s f} (h : s.firing = some f) : KeepsMem s (execCsrwFflags n s) :=
  fire_keepsMem h fun _ _ => by simp

theorem execCsrwJflags_keepsMem {n s f} (h : s.firing = some f) : KeepsMem s (execCsrwJflags n s) :=
  fire_keepsMem h fun _ _ => by simp

theorem execCsrwViolog_keepsMem {n s f} (h : s.firing = some f) : KeepsMem s (execCsrwViolog n s) :=
  fire_keepsMem h fun _ _ => by simp

theorem execProgi_keepsMem {n s f} (h : s.firing = some f) : KeepsMem s (execProgi n s) :=
  fire_keepsMem h fun _ _ => by simp

theorem execCaps_keepsMem {n s f} (h : s.firing = some f) : KeepsMem s (execCaps n s) :=
  fire_keepsMem h fun _ _ => by simp

theorem execClock_keepsMem {n s f} (h : s.firing = some f) : KeepsMem s (execClock n s) :=
  fire_keepsMem h fun _ _ => by simp

theorem execSvctxHalt_keepsMem {n s f} (h : s.firing = some f) : KeepsMem s (execSvctxHalt n s) :=
  fire_keepsMem h fun _ _ => by simp

theorem execSvctxSave_keepsMem {n s f} (h : s.firing = some f) : KeepsMem s (execSvctxSave n s) :=
  fire_keepsMem h fun _ _ => by simp

theorem execSvctxResume_keepsMem {n s f} (h : s.firing = some f) : KeepsMem s (execSvctxResume n s) :=
  fire_keepsMem h fun _ _ => by simp

theorem execSvctxAbandon_keepsMem {n s f} (h : s.firing = some f) : KeepsMem s (execSvctxAbandon n s) :=
  fire_keepsMem h fun _ _ => by simp

theorem execSvctxDestroy_keepsMem {n s f} (h : s.firing = some f) : KeepsMem s (execSvctxDestroy n s) :=
  fire_keepsMem h fun _ _ => by simp

theorem execSvctxQuery_keepsMem {n s f} (h : s.firing = some f) : KeepsMem s (execSvctxQuery n s) :=
  fire_keepsMem h fun _ _ => by simp

theorem execRsctx_keepsMem {n s f} (h : s.firing = some f) : KeepsMem s (execRsctx n s) :=
  fire_keepsMem h fun _ _ => by simp

theorem execDump_keepsMem {n s f} (h : s.firing = some f) : KeepsMem s (execDump n s) :=
  fire_keepsMem h fun _ _ => by simp

theorem execPmig_keepsMem {n s f} (h : s.firing = some f) : KeepsMem s (execPmig n s) :=
  fire_keepsMem h fun _ _ => by simp

theorem execPwbSet_keepsMem {n s f} (h : s.firing = some f) : KeepsMem s (execPwbSet n s) :=
  fire_keepsMem h fun _ _ => by simp

theorem execPwbClr_keepsMem {n s f} (h : s.firing = some f) : KeepsMem s (execPwbClr n s) :=
  fire_keepsMem h fun _ _ => by simp

theorem execPcnt_keepsMem {n s f} (h : s.firing = some f) : KeepsMem s (execPcnt n s) :=
  fire_keepsMem h fun _ _ => by simp

theorem execPhashHash_keepsMem {n s f} (h : s.firing = some f) : KeepsMem s (execPhashHash n s) :=
  fire_keepsMem h fun _ _ => by simp

theorem execPhashShare_keepsMem {n s f} (h : s.firing = some f) : KeepsMem s (execPhashShare n s) :=
  fire_keepsMem h fun _ _ => by simp

theorem execPhashDrop_keepsMem {n s f} (h : s.firing = some f) : KeepsMem s (execPhashDrop n s) :=
  fire_keepsMem h fun _ _ => by simp

theorem execBmap_keepsMem {n s f} (h : s.firing = some f) : KeepsMem s (execBmap n s) :=
  fire_keepsMem h fun _ _ => by simp

theorem execLnkst_keepsMem {n s f} (h : s.firing = some f) : KeepsMem s (execLnkst n s) :=
  fire_keepsMem h fun _ _ => by simp

theorem execCtrigStart_keepsMem {n s f} (h : s.firing = some f) : KeepsMem s (execCtrigStart n s) := ctrig_keepsMem h

theorem execCtrigStop_keepsMem {n s f} (h : s.firing = some f) : KeepsMem s (execCtrigStop n s) := ctrig_keepsMem h

theorem execJclrf_keepsMem {n s f} (h : s.firing = some f) : KeepsMem s (execJclrf n s) :=
  fire_keepsMem h fun _ _ => by simp

theorem execActivationStart_keepsMem (inst) (s : State) : KeepsMem s (execActivationStart inst s) := by
  simp only [execActivationStart, keepsMem_next]
  (repeat' split) <;> simp

theorem execDeferredRead_keepsMem (op) (s : State) : KeepsMem s (execDeferredRead op s) := by
  simp only [execDeferredRead, keepsMem_next]
  (repeat' split) <;> simp

theorem execPublish_keepsMem (commit) (s : State) : KeepsMem s (execPublish commit s) := by
  simp only [execPublish, keepsMem_next]
  (repeat' split) <;> simp

theorem execEndMark_keepsMem (mark) (s : State) : KeepsMem s (execEndMark mark s) := by
  simp only [execEndMark, keepsMem_next]
  (repeat' split) <;> simp

theorem execSteal_keepsMem (inst) (s : State) : KeepsMem s (execSteal inst s) := by
  simp only [execSteal, keepsMem_next]
  (repeat' split) <;> simp

theorem execReplicaEvaluation_keepsMem (serial kernel) (s : State) : KeepsMem s (execReplicaEvaluation serial kernel s) := by
  simp only [execReplicaEvaluation, keepsMem_next]
  (repeat' split) <;> simp

theorem execTicketReturn_keepsMem (arrival) (s : State) : KeepsMem s (execTicketReturn arrival s) := by
  simp only [execTicketReturn, keepsMem_next]
  repeat' split
  any_goals rfl
  exact State.closeOp_mem _ _ _ _ fun u => by split <;> simp

theorem execDelivered_keepsMem (bar) (s : State) : KeepsMem s (execDelivered bar s) := by
  simp only [execDelivered, keepsMem_next]
  split
  · rfl
  · split
    · rfl
    · refine (foldl_mem _ (fun u o => u.wakeBarw_mem o) _ _).trans
        ((foldl_mem _ (fun u o => ?_) _ _).trans (State.putBar_mem _ _))
      (repeat' split) <;> simp

theorem execArrive_keepsMem (arrival) (s : State) : KeepsMem s (execArrive arrival s) := by
  simp only [execArrive, keepsMem_next]
  (repeat' split) <;> simp

theorem execCollectiveEnd_keepsMem (bar) (s : State) : KeepsMem s (execCollectiveEnd bar s) := by
  simp only [execCollectiveEnd, keepsMem_next]
  (repeat' split) <;> simp

theorem execExpire_keepsMem (bar) (s : State) : KeepsMem s (execExpire bar s) := by
  simp only [execExpire, keepsMem_next]
  (repeat' split) <;> simp

theorem execStartPacket_keepsMem (n elem) (s : State) : KeepsMem s (execStartPacket n elem s) := by
  simp only [execStartPacket, keepsMem_next]
  (repeat' split) <;> simp

theorem execStopPacket_keepsMem (n elem) (s : State) : KeepsMem s (execStopPacket n elem s) := by
  simp only [execStopPacket, keepsMem_next]
  (repeat' split) <;> simp

theorem execTraceSample_keepsMem (n elem) (s : State) : KeepsMem s (execTraceSample n elem s) := by
  simp only [execTraceSample, keepsMem_next]
  repeat' split
  any_goals simp
  all_goals rename_i h; exact mem_of_eq h (s.writeWords_mem _ _ _ _ _)

theorem execRegionBegin_keepsMem (ctx) (s : State) {b k} (h : s.stream = some (b, k)) : KeepsMem s (execRegionBegin ctx s) :=
  inStream_keepsMem h fun _ => by (repeat' split) <;> simp

theorem execConfigSelect_keepsMem (die core) (s : State) {b k} (h : s.stream = some (b, k)) : KeepsMem s (execConfigSelect die core s) :=
  inStream_keepsMem h fun _ => by (repeat' split) <;> simp

theorem execExtend_keepsMem (high) (s : State) {b k} (h : s.stream = some (b, k)) : KeepsMem s (execExtend high s) :=
  inStream_keepsMem h fun _ => by (repeat' split) <;> simp

theorem execConfigWrite_keepsMem (elem field value) (s : State) {b k} (h : s.stream = some (b, k)) : KeepsMem s (execConfigWrite elem field value s) :=
  inStream_keepsMem h fun _ => by
    dsimp only
    (repeat' split) <;> simp

theorem execConfigCommit_keepsMem (s : State) {b k} (h : s.stream = some (b, k)) : KeepsMem s (execConfigCommit s) :=
  inStream_keepsMem h fun _ => by
    dsimp only
    (repeat' split) <;> simp

theorem execRegionAbort_keepsMem (s : State) {b k} (h : s.stream = some (b, k)) : KeepsMem s (execRegionAbort s) :=
  inStream_keepsMem h fun _ => by simp

theorem execDrainreq_keepsMem (ctx) (s : State) {b k} (h : s.stream = some (b, k)) : KeepsMem s (execDrainreq ctx s) :=
  inStream_keepsMem h fun _ => by simp

theorem execSaveovl_keepsMem (ctx) (s : State) {b k} (h : s.stream = some (b, k)) : KeepsMem s (execSaveovl ctx s) :=
  inStream_keepsMem h fun _ => by (repeat' split) <;> simp

theorem execRestoreovl_keepsMem (ctx) (s : State) {b k} (h : s.stream = some (b, k)) : KeepsMem s (execRestoreovl ctx s) :=
  inStream_keepsMem h fun _ => by (repeat' split) <;> simp

theorem execQuota_keepsMem (elem entries) (s : State) {b k} (h : s.stream = some (b, k)) : KeepsMem s (execQuota elem entries s) :=
  inStream_keepsMem h fun _ => by (repeat' split) <;> simp

theorem execCommandAppliedReport_keepsMem (bindery n) (s : State) : KeepsMem s (execCommandAppliedReport bindery n s) := by
  simp only [execCommandAppliedReport, keepsMem_next]
  (repeat' split) <;> simp

theorem execSubmissionTail_keepsMem (queue) (s : State) : KeepsMem s (execSubmissionTail queue s) := by
  simp only [execSubmissionTail, keepsMem_next]
  split
  · rfl
  · have hr := s.devRead_mem (coreNum (queue % 8) 0) (queue - queue % 64) 64 6
    split
    next => rfl
    next b t h =>
      have ht : t.mem = s.mem := mem_of_eq h hr
      (repeat' split) <;> simp [State.getD_devWrite_mem, ht]

theorem execLaunchRecord_keepsMem (die) (s : State) : KeepsMem s (execLaunchRecord die s) := by
  simp only [execLaunchRecord, keepsMem_next]
  (repeat' split) <;> simp

theorem execHaltop_keepsMem (ctx) (s : State) : KeepsMem s (execHaltop ctx s) :=
  s.accept_keepsMem _ _ fun _ _ => by (repeat' split) <;> simp

theorem execQueryop_keepsMem (ctx) (s : State) : KeepsMem s (execQueryop ctx s) :=
  s.accept_keepsMem _ _ fun _ _ => by simp

theorem execBindop_keepsMem (ctx) (s : State) : KeepsMem s (execBindop ctx s) :=
  s.accept_keepsMem _ _ fun _ _ => by (repeat' split) <;> simp

theorem execBound_keepsMem (ctx) (s : State) : KeepsMem s (execBound ctx s) := by
  simp only [execBound, keepsMem_next]
  (repeat' split) <;> simp

theorem execFaultToken_keepsMem (tok) (s : State) : KeepsMem s (execFaultToken tok s) := by
  simp only [execFaultToken, keepsMem_next]
  (repeat' split) <;> simp

theorem execHaltLine_keepsMem (n elem) (s : State) : KeepsMem s (execHaltLine n elem s) := by
  simp only [execHaltLine, keepsMem_next]
  split
  · rfl
  · split
    · rfl
    · rw [State.modElem_mem, foldl_mem _ fun u o => u.payLate_mem _ _ _]
      exact foldl_mem _ (fun u o => by split <;> simp) _ _

theorem execStopRecord_keepsMem (n elem) (s : State) : KeepsMem s (execStopRecord n elem s) := by
  simp only [execStopRecord, keepsMem_next]
  (repeat' split) <;> simp

theorem execDestroyop_keepsMem (ctx) (s : State) : KeepsMem s (execDestroyop ctx s) :=
  s.accept_keepsMem _ _ fun _ _ => by (repeat' split) <;> simp

theorem execReclaimed_keepsMem (ctx) (s : State) : KeepsMem s (execReclaimed ctx s) := by
  simp only [execReclaimed, keepsMem_next]
  (repeat' split) <;> simp

theorem execSaveop_keepsMem (ctx) (s : State) : KeepsMem s (execSaveop ctx s) :=
  s.accept_keepsMem _ _ fun _ _ => by (repeat' split) <;> simp

theorem execSaveend_keepsMem (ctx) (s : State) : KeepsMem s (execSaveend ctx s) := by
  simp only [execSaveend, keepsMem_next]
  (repeat' split) <;> simp

theorem execSavestop_keepsMem (ctx) (s : State) : KeepsMem s (execSavestop ctx s) := by
  simp only [execSavestop, keepsMem_next]
  (repeat' split) <;> simp

theorem execResumeop_keepsMem (ctx) (s : State) : KeepsMem s (execResumeop ctx s) :=
  s.accept_keepsMem _ _ fun _ _ => by (repeat' split) <;> simp

theorem execAbandonop_keepsMem (ctx) (s : State) : KeepsMem s (execAbandonop ctx s) :=
  s.accept_keepsMem _ _ fun _ _ => by (repeat' split) <;> simp

theorem execRestoreop_keepsMem (ctx) (s : State) : KeepsMem s (execRestoreop ctx s) :=
  s.accept_keepsMem _ _ fun _ _ => by
    dsimp only
    (repeat' split) <;> simp

theorem execRestoreend_keepsMem (ctx) (s : State) : KeepsMem s (execRestoreend ctx s) := by
  simp only [execRestoreend, keepsMem_next]
  (repeat' split) <;> simp

theorem execRestorefail_keepsMem (ctx) (s : State) : KeepsMem s (execRestorefail ctx s) := by
  simp only [execRestorefail, keepsMem_next]
  (repeat' split) <;> simp

theorem execDumpop_keepsMem (ctx) (s : State) : KeepsMem s (execDumpop ctx s) :=
  s.accept_keepsMem _ _ fun _ _ => by (repeat' split) <;> simp

theorem execDumpend_keepsMem (die) (s : State) : KeepsMem s (execDumpend die s) := by
  simp only [execDumpend, keepsMem_next]
  (repeat' split) <;> simp

theorem execStopped_keepsMem (ctx) (s : State) : KeepsMem s (execStopped ctx s) := by
  simp only [execStopped, keepsMem_next]
  (repeat' split) <;> simp

theorem execMemoryResponse_keepsMem (op elem) (s : State) : KeepsMem s (execMemoryResponse op elem s) := by
  simp only [execMemoryResponse, keepsMem_next]
  (repeat' split) <;> simp

theorem execStalledWriteRetry_keepsMem (op elem) (s : State) : KeepsMem s (execStalledWriteRetry op elem s) := by
  simp only [execStalledWriteRetry, keepsMem_next]
  (repeat' split) <;> simp

theorem execTransferUnit_keepsMem (op) (s : State) : KeepsMem s (execTransferUnit op s) := by
  simp only [execTransferUnit, keepsMem_next]
  (repeat' split) <;> simp

theorem execBlockPass_keepsMem (op) (s : State) : KeepsMem s (execBlockPass op s) := by
  simp only [execBlockPass, keepsMem_next]
  (repeat' split) <;> simp

theorem execWatchdog_keepsMem (op) (s : State) : KeepsMem s (execWatchdog op s) := by
  simp only [execWatchdog, keepsMem_next]
  (repeat' split) <;> simp

theorem execRemoteAccess_keepsMem (req) (s : State) : KeepsMem s (execRemoteAccess req s) := by
  simp only [execRemoteAccess, keepsMem_next]
  (repeat' split) <;> simp

theorem execHostAccess_keepsMem (req) (s : State) : KeepsMem s (execHostAccess req s) := by
  simp only [execHostAccess, keepsMem_next]
  (repeat' split) <;> simp

theorem execInject_keepsMem (n elem entry dest) (s : State) : KeepsMem s (execInject n elem entry dest s) := by
  simp only [execInject, keepsMem_next]
  (repeat' split) <;> simp

theorem execClass0Timeout_keepsMem (packet) (s : State) : KeepsMem s (execClass0Timeout packet s) := by
  simp only [execClass0Timeout, keepsMem_next]
  (repeat' split) <;> simp

theorem execAccept_keepsMem (packet) (s : State) : KeepsMem s (execAccept packet s) := by
  simp only [execAccept, keepsMem_next]
  (repeat' split) <;> simp

theorem execClass0Pacing_keepsMem (n elem) (s : State) : KeepsMem s (execClass0Pacing n elem s) := by
  simp only [execClass0Pacing, keepsMem_next]
  (repeat' split) <;> simp

theorem execEmitResume_keepsMem (n elem) (s : State) : KeepsMem s (execEmitResume n elem s) := by simp [execEmitResume]

theorem execRefill_keepsMem (n elem) (s : State) : KeepsMem s (execRefill n elem s) := by
  simp only [execRefill, keepsMem_next]
  (repeat' split) <;> simp

theorem execSpilledMatch_keepsMem (n elem slot) (s : State) : KeepsMem s (execSpilledMatch n elem slot s) := by
  simp only [execSpilledMatch, keepsMem_next]
  (repeat' split) <;> simp

theorem execFiringPromotion_keepsMem (n elem firing) (s : State) : KeepsMem s (execFiringPromotion n elem firing s) := by
  simp only [execFiringPromotion, keepsMem_next]
  (repeat' split) <;> simp

theorem execBlockedTimer_keepsMem (router) (s : State) : KeepsMem s (execBlockedTimer router s) := by simp [execBlockedTimer]

theorem execSlipCapture_keepsMem (router) (s : State) : KeepsMem s (execSlipCapture router s) := by
  simp only [execSlipCapture, keepsMem_next]
  (repeat' split) <;> simp

theorem execSlipRelease_keepsMem (router) (s : State) : KeepsMem s (execSlipRelease router s) := by
  simp only [execSlipRelease, keepsMem_next]
  (repeat' split) <;> simp

theorem execSlipWatchdog_keepsMem (ring) (s : State) : KeepsMem s (execSlipWatchdog ring s) := by
  simp only [execSlipWatchdog, keepsMem_next]
  (repeat' split) <;> simp

theorem execSlipReissue_keepsMem (ring) (s : State) : KeepsMem s (execSlipReissue ring s) := by
  simp only [execSlipReissue, keepsMem_next]
  (repeat' split) <;> simp

theorem execTrainok_keepsMem (link) (s : State) : KeepsMem s (execTrainok link s) := by
  simp only [execTrainok, keepsMem_next]
  (repeat' split) <;> simp

theorem execTrainhalf_keepsMem (link) (s : State) : KeepsMem s (execTrainhalf link s) := by
  simp only [execTrainhalf, keepsMem_next]
  (repeat' split) <;> simp

theorem execTrainfail_keepsMem (link) (s : State) : KeepsMem s (execTrainfail link s) := by
  simp only [execTrainfail, keepsMem_next]
  (repeat' split) <;> simp

theorem execLaneloss_keepsMem (link) (s : State) : KeepsMem s (execLaneloss link s) := by
  simp only [execLaneloss, keepsMem_next]
  (repeat' split) <;> simp

theorem execErrburst_keepsMem (link) (s : State) : KeepsMem s (execErrburst link s) := by
  simp only [execErrburst, keepsMem_next]
  (repeat' split) <;> simp

theorem execAbsent_keepsMem (link) (s : State) : KeepsMem s (execAbsent link s) := by
  simp only [execAbsent, keepsMem_next]
  (repeat' split) <;> simp

theorem execFlitReplay_keepsMem (link) (s : State) : KeepsMem s (execFlitReplay link s) := by
  simp only [execFlitReplay, keepsMem_next]
  (repeat' split) <;> simp

theorem execIdentityCertificate_keepsMem (cert) (s : State) : KeepsMem s (execIdentityCertificate cert s) := by
  simp only [execIdentityCertificate, keepsMem_next]
  (repeat' split) <;> simp

theorem execReportRequest_keepsMem (s : State) : KeepsMem s (execReportRequest s) := by
  simp only [execReportRequest, keepsMem_next]
  (repeat' split) <;> simp

theorem execPodHalt_keepsMem (ctx) (s : State) : KeepsMem s (execPodHalt ctx s) := by
  simp only [execPodHalt, keepsMem_next]
  (repeat' split) <;> simp

theorem execClockStepDown_keepsMem (s : State) : KeepsMem s (execClockStepDown s) := by
  simp only [execClockStepDown, keepsMem_next]
  (repeat' split) <;> simp

theorem execClockStepUp_keepsMem (s : State) : KeepsMem s (execClockStepUp s) := by
  simp only [execClockStepUp, keepsMem_next]
  (repeat' split) <;> simp

theorem execCriticalTemperature_keepsMem (s : State) : KeepsMem s (execCriticalTemperature s) := by
  simp only [execCriticalTemperature, keepsMem_next]
  (repeat' split) <;> simp

theorem execScrub_keepsMem (line bad) (s : State) : KeepsMem s (execScrub line bad s) := by
  simp only [execScrub, keepsMem_next]
  (repeat' split) <;> simp

end Sys2Proof.Machine
end

section
/-! The dispatch: what runs as a node instruction, as a command word and as an event. -/

namespace Sys2Proof.Machine

theorem execInt_keepsMem {o n s f g} (hf : s.firing = some f) : KeepsMem s (execInt o n s g) :=
  firePure_keepsMem hf

theorem execBits_keepsMem {o n s f g} (hf : s.firing = some f) : KeepsMem s (execBits o n s g) :=
  firePure_keepsMem hf

theorem execFlt1_keepsMem {o n s f g} (hf : s.firing = some f) : KeepsMem s (execFlt1 o n s g) :=
  firePure_keepsMem hf

theorem execFlt2_keepsMem {o n s f g} (hf : s.firing = some f) : KeepsMem s (execFlt2 o n s g) :=
  firePure_keepsMem hf

theorem execFlt3_keepsMem {o n s f g} (hf : s.firing = some f) : KeepsMem s (execFlt3 o n s g) :=
  firePure_keepsMem hf

/-- A node instruction on a loaded set goes on and leaves memory as it is. -/
theorem exec_node_keepsMem {i : Instr} {n : Node} {s : State} {f : Firing} (hi : nodeOf i = some n)
    (hf : s.firing = some f) : KeepsMem s (exec i s) := by
  cases i with
  | pass n | copy n | steer n | gate n | sync n | tnext n | tset n | split n | bcast n | perm n | eos n | iseos n =>
    dsimp only [exec]; exact moveData_keepsMem hf
  | const n | select n | tget n | mkerr n | itidx n | conv n | icmp n | idot4 n | addr n | fcmp n | fclass n
  | fscale n | fgetx n | fdot2 n | cvt n | cvti n | cvtf n | gpack n | gunpk n | unp3 n | npack n | nunpk n | movb n
  | fpown n | jseed n | jlift n | jget n | jput n | jtrunc n | jdiff n | jintg n | jeval n | jcomp n | jflag n
  | jscal n | jderv n | ordn n | ordj n | ordf n | reord n | rng n => dsimp only [exec]; exact firePure_keepsMem hf
  | iadd n | isub n | imul n | imulh n | imad n | idiv n | irem n | ineg n | iabs n | imin n | imax n | iadds n
  | isubs n | iclamp n => dsimp only [exec]; exact execInt_keepsMem hf
  | andw n | orw n | xorw n | notw n | andn n | shl n | shr n | sar n | rotl n | popc n | clz n | ctz n | brev n
  | bfx n | bfi n => dsimp only [exec]; exact execBits_keepsMem hf
  | fadd n | fsub n | fmul n | fdiv n | fmin n | fmax n | fcpsgn n => dsimp only [exec]; exact execFlt2_keepsMem hf
  | ffma n | fclamp n => dsimp only [exec]; exact execFlt3_keepsMem hf
  | fsqrt n | frcp n | frsq n | fabs n | fneg n | frnd n | fexp n | fexp2 n | flog n | flog2 n | fsin n | fcos n
  | ftanh n | fsigm n | ferf n | fatan n => dsimp only [exec]; exact execFlt1_keepsMem hf
  | merge n => exact execMerge_keepsMem hf
  | sink n => exact execSink_keepsMem hf
  | retag n => exact execRetag_keepsMem hf
  | join n => exact execJoin_keepsMem hf
  | reduce n => exact execReduce_keepsMem hf
  | scan n => exact execScan_keepsMem hf
  | errt n => exact execErrt_keepsMem hf
  | jclrf n => exact execJclrf_keepsMem hf
  | tspace n => exact execTspace_keepsMem hf
  | talloc n => exact execTalloc_keepsMem hf
  | tfree n => exact execTfree_keepsMem hf
  | tclose n => exact execTclose_keepsMem hf
  | ldslot n => exact execLdslot_keepsMem hf
  | stslot n => exact execStslot_keepsMem hf
  | clrslot n => exact execClrslot_keepsMem hf
  | call n => exact execCall_keepsMem hf
  | arg n => exact execArg_keepsMem hf
  | ret n => exact execRet_keepsMem hf
  | commit n => exact execCommit_keepsMem hf
  | discard n => exact execDiscard_keepsMem hf
  | frmid n => exact execFrmid_keepsMem hf
  | fire n => exact execFire_keepsMem hf
  | tref n => exact execTref_keepsMem hf
  | mma n => exact execMma_keepsMem hf
  | mmai n => exact execMmai_keepsMem hf
  | mmag n => exact execMmag_keepsMem hf
  | mmaj n => exact execMmaj_keepsMem hf
  | accz n => exact execAccz_keepsMem hf
  | accrd n => exact execAccrd_keepsMem hf
  | accwr n => exact execAccwr_keepsMem hf
  | tdrn n => exact execTdrn_keepsMem hf
  | tsplt n => exact execTsplt_keepsMem hf
  | accps n => exact execAccps_keepsMem hf
  | mmat n => exact execMmat_keepsMem hf
  | ld n => exact execLd_keepsMem hf
  | st n => exact execSt_keepsMem hf
  | ldx n => exact execLdx_keepsMem hf
  | stx n => exact execStx_keepsMem hf
  | atom n => exact execAtom_keepsMem hf
  | atomr n => exact execAtomr_keepsMem hf
  | cas n => exact execCas_keepsMem hf
  | fence n => exact execFence_keepsMem hf
  | tfence n => exact execTfence_keepsMem hf
  | pref n => exact execPref_keepsMem hf
  | cpy n => exact execCpy_keepsMem hf
  | cpyw n => exact execCpyw_keepsMem hf
  | gath n => exact execGath_keepsMem hf
  | scat n => exact execScat_keepsMem hf
  | dqput n => exact execDqput_keepsMem hf
  | dqflg n => exact execDqflg_keepsMem hf
  | mcst n => exact execMcst_keepsMem hf
  | lds n => exact execLds_keepsMem hf
  | sts n => exact execSts_keepsMem hf
  | qput n => exact execQput_keepsMem hf
  | qget n => exact execQget_keepsMem hf
  | qeos n => exact execQeos_keepsMem hf
  | qstat n => exact execQstat_keepsMem hf
  | nqget n => exact execNqget_keepsMem hf
  | gpri n => exact execGpri_keepsMem hf
  | ginfo n => exact execGinfo_keepsMem hf
  | bara n => exact execBara_keepsMem hf
  | barw n => exact execBarw_keepsMem hf
  | bart n => exact execBart_keepsMem hf
  | coll n => exact execColl_keepsMem hf
  | launch n => exact execLaunch_keepsMem hf
  | trap n => exact execTrap_keepsMem hf
  | bkpt n => exact execBkpt_keepsMem hf
  | csrr n => exact execCsrr_keepsMem hf
  | csrrViolog n => exact execCsrrViolog_keepsMem hf
  | csrw n => exact execCsrw_keepsMem hf
  | csrwViolog n => exact execCsrwViolog_keepsMem hf
  | csrwFflags n => exact execCsrwFflags_keepsMem hf
  | csrwJflags n => exact execCsrwJflags_keepsMem hf
  | progi n => exact execProgi_keepsMem hf
  | caps n => exact execCaps_keepsMem hf
  | clock n => exact execClock_keepsMem hf
  | pmig n => exact execPmig_keepsMem hf
  | pcnt n => exact execPcnt_keepsMem hf
  | pwbSet n => exact execPwbSet_keepsMem hf
  | pwbClr n => exact execPwbClr_keepsMem hf
  | phashHash n => exact execPhashHash_keepsMem hf
  | phashShare n => exact execPhashShare_keepsMem hf
  | phashDrop n => exact execPhashDrop_keepsMem hf
  | bmap n => exact execBmap_keepsMem hf
  | lnkst n => exact execLnkst_keepsMem hf
  | svctxHalt n => exact execSvctxHalt_keepsMem hf
  | svctxSave n => exact execSvctxSave_keepsMem hf
  | svctxResume n => exact execSvctxResume_keepsMem hf
  | svctxAbandon n => exact execSvctxAbandon_keepsMem hf
  | svctxDestroy n => exact execSvctxDestroy_keepsMem hf
  | svctxQuery n => exact execSvctxQuery_keepsMem hf
  | rsctx n => exact execRsctx_keepsMem hf
  | dump n => exact execDump_keepsMem hf
  | ctrigStart n => exact execCtrigStart_keepsMem hf
  | ctrigStop n => exact execCtrigStop_keepsMem hf
  | cmpr n => exact execCmpr_keepsMem hf
  | expd n => exact execExpd_keepsMem hf
  | topk n => exact execTopk_keepsMem hf
  | sample n => exact execSample_keepsMem hf
  | smaxt n => exact execSmaxt_keepsMem hf
  | argmx n => exact execArgmx_keepsMem hf
  | _ => cases hi

/-- A command word whose stream is loaded goes on and leaves memory as it is. -/
theorem exec_word_keepsMem {w : Nat} {i : Instr} {s : State} {b k : Nat} (hw : decodeWord w = .ok i)
    (hs : s.stream = some (b, k)) : KeepsMem s (exec i s) := by
  unfold decodeWord at hw
  (repeat' split at hw) <;> cases hw
  · exact execConfigWrite_keepsMem (h := hs) ..
  · exact execConfigSelect_keepsMem (h := hs) ..
  · exact execRegionBegin_keepsMem (h := hs) ..
  · exact execConfigCommit_keepsMem (h := hs) ..
  · exact execRegionAbort_keepsMem (h := hs) ..
  · exact execDrainreq_keepsMem (h := hs) ..
  · exact execSaveovl_keepsMem (h := hs) ..
  · exact execRestoreovl_keepsMem (h := hs) ..
  · exact execQuota_keepsMem (h := hs) ..
  · exact execExtend_keepsMem (h := hs) ..

/-- An event other than the boot goes on and leaves memory as it is. -/
theorem exec_event_keepsMem {i : Instr} (s : State) (hi : encode i = none) (hb : i ≠ .boot) : KeepsMem s (exec i s) := by
  cases i with
  | submissionTail queue => exact execSubmissionTail_keepsMem ..
  | launchRecord die => exact execLaunchRecord_keepsMem ..
  | haltop ctx => exact execHaltop_keepsMem ..
  | saveop ctx => exact execSaveop_keepsMem ..
  | resumeop ctx => exact execResumeop_keepsMem ..
  | abandonop ctx => exact execAbandonop_keepsMem ..
  | destroyop ctx => exact execDestroyop_keepsMem ..
  | queryop ctx => exact execQueryop_keepsMem ..
  | restoreop ctx => exact execRestoreop_keepsMem ..
  | dumpop ctx => exact execDumpop_keepsMem ..
  | bindop ctx => exact execBindop_keepsMem ..
  | bound ctx => exact execBound_keepsMem ..
  | haltLine n elem => exact execHaltLine_keepsMem ..
  | stopRecord n elem => exact execStopRecord_keepsMem ..
  | stopped ctx => exact execStopped_keepsMem ..
  | faultToken tok => exact execFaultToken_keepsMem ..
  | saveend ctx => exact execSaveend_keepsMem ..
  | savestop ctx => exact execSavestop_keepsMem ..
  | restoreend ctx => exact execRestoreend_keepsMem ..
  | restorefail ctx => exact execRestorefail_keepsMem ..
  | dumpend die => exact execDumpend_keepsMem ..
  | reclaimed ctx => exact execReclaimed_keepsMem ..
  | accept packet => exact execAccept_keepsMem ..
  | inject n elem entry dest => exact execInject_keepsMem ..
  | class0Pacing n elem => exact execClass0Pacing_keepsMem ..
  | emitResume n elem => exact execEmitResume_keepsMem ..
  | refill n elem => exact execRefill_keepsMem ..
  | spilledMatch n elem slot => exact execSpilledMatch_keepsMem ..
  | firingPromotion n elem firing => exact execFiringPromotion_keepsMem ..
  | activationStart inst => exact execActivationStart_keepsMem ..
  | deferredRead op => exact execDeferredRead_keepsMem ..
  | publish commit => exact execPublish_keepsMem ..
  | endMark mark => exact execEndMark_keepsMem ..
  | steal inst => exact execSteal_keepsMem ..
  | replicaEvaluation serial kernel => exact execReplicaEvaluation_keepsMem ..
  | arrive arrival => exact execArrive_keepsMem ..
  | ticketReturn arrival => exact execTicketReturn_keepsMem ..
  | delivered bar => exact execDelivered_keepsMem ..
  | expire bar => exact execExpire_keepsMem ..
  | collectiveEnd bar => exact execCollectiveEnd_keepsMem ..
  | memoryResponse op elem => exact execMemoryResponse_keepsMem ..
  | transferUnit op => exact execTransferUnit_keepsMem ..
  | watchdog op => exact execWatchdog_keepsMem ..
  | stalledWriteRetry op elem => exact execStalledWriteRetry_keepsMem ..
  | blockPass op => exact execBlockPass_keepsMem ..
  | remoteAccess req => exact execRemoteAccess_keepsMem ..
  | hostAccess req => exact execHostAccess_keepsMem ..
  | blockedTimer router => exact execBlockedTimer_keepsMem ..
  | slipCapture router => exact execSlipCapture_keepsMem ..
  | slipRelease router => exact execSlipRelease_keepsMem ..
  | slipWatchdog ring => exact execSlipWatchdog_keepsMem ..
  | slipReissue ring => exact execSlipReissue_keepsMem ..
  | class0Timeout packet => exact execClass0Timeout_keepsMem ..
  | trainok link => exact execTrainok_keepsMem ..
  | trainhalf link => exact execTrainhalf_keepsMem ..
  | trainfail link => exact execTrainfail_keepsMem ..
  | laneloss link => exact execLaneloss_keepsMem ..
  | errburst link => exact execErrburst_keepsMem ..
  | absent link => exact execAbsent_keepsMem ..
  | flitReplay link => exact execFlitReplay_keepsMem ..
  | podHalt ctx => exact execPodHalt_keepsMem ..
  | reportRequest => exact execReportRequest_keepsMem ..
  | clockStepDown => exact execClockStepDown_keepsMem ..
  | clockStepUp => exact execClockStepUp_keepsMem ..
  | criticalTemperature => exact execCriticalTemperature_keepsMem ..
  | scrub line bad => exact execScrub_keepsMem ..
  | traceSample n elem => exact execTraceSample_keepsMem ..
  | startPacket n elem => exact execStartPacket_keepsMem ..
  | stopPacket n elem => exact execStopPacket_keepsMem ..
  | commandAppliedReport bindery n => exact execCommandAppliedReport_keepsMem ..
  | identityCertificate cert => exact execIdentityCertificate_keepsMem ..
  | boot => exact absurd rfl hb
  | _ => cases hi

end Sys2Proof.Machine
end

section
/-! The step: it always goes on, and it keeps the canonical form of memory. -/

namespace Sys2Proof.Machine

/-! ### What a step can do to memory -/

/-- The outcome is a next state whose memory is as it was, has taken in writes that became visible, or is what a boot stage leaves. -/
def MemMoves (s : State) (o : Host.Outcome State Fault Refusal) : Prop :=
  ∃ t, o = .next t ∧ (t.mem = s.mem ∨ (∃ w path level, t.mem = (s.advance w path level).mem) ∨ execBoot s = .next t)

theorem MemMoves.ofKeepsMem {s u : State} {o : Host.Outcome State Fault Refusal} (hu : u.mem = s.mem) (h : KeepsMem u o) :
    MemMoves s o := by
  obtain ⟨t, ho, ht⟩ := h
  exact ⟨t, ho, .inl (ht.trans hu)⟩

theorem MemMoves.ofMem {s t : State} (h : t.mem = s.mem) : MemMoves s (.next t) := ⟨t, rfl, .inl h⟩

theorem MemMoves.ofBoot (s : State) : MemMoves s (execBoot s) := ⟨_, rfl, .inr (.inr rfl)⟩

theorem State.visibleMove_memMoves (s : State) (w path level : Nat) : MemMoves s (.next (s.visibleMove w path level)) := by
  refine ⟨_, rfl, ?_⟩
  unfold State.visibleMove
  split
  · split
    · exact .inr (.inl ⟨w, path, level, by simp⟩)
    · exact .inl rfl
  · exact .inl rfl

/-- A slot's image names a node instruction. -/
theorem Slot.nodeOf_instr {x : Slot} {i : Instr} (h : x.instr = some i) : ∃ n, nodeOf i = some n := by
  unfold Slot.instr at h
  split at h <;> cases h
  next hi =>
    obtain ⟨_, n, _, _, _, _, _, hn⟩ := decodeNode_ok hi
    exact ⟨n, hn⟩

theorem State.load_firing (s : State) (f : Firing) : ∃ g, (s.load f).firing = some g := ⟨_, rfl⟩

theorem State.takeWord_stream (s : State) (b n : Nat) {w : BitVec 32} {t : State} (h : s.takeWord b n = some (w, t)) :
    t.stream = some (b, n) := by
  simp only [State.takeWord] at h
  split at h <;> cases h
  rfl

theorem runEvent_memMoves (e : Event) (s : State) : MemMoves s (runEvent e s) := by
  unfold runEvent
  split
  next i =>
    cases he : encode i with
    | some c => exact .ofMem rfl
    | none =>
      by_cases hb : i = .boot
      · subst hb
        exact .ofBoot s
      · exact .ofKeepsMem rfl (exec_event_keepsMem s he hb)
  next n elem =>
    split
    next => exact .ofMem rfl
    next f _ =>
      split
      next i hi =>
        obtain ⟨_, hn⟩ := Slot.nodeOf_instr hi
        obtain ⟨t, ho, ht⟩ := exec_node_keepsMem hn (s.load_firing f).choose_spec
        rw [ho]
        exact .ofMem (State.holdBack_mem _ _ _ (by simpa using ht))
      next => exact .ofMem rfl
  next b => exact .ofMem (s.sendWord_mem _)
  next b n number => exact .ofMem (s.commandCame_mem _ _ _)
  next b n =>
    split
    next => exact .ofMem rfl
    next w t ht =>
      have hm := s.takeWord_mem b n _ ht
      split
      next i hi => exact .ofKeepsMem hm (exec_word_keepsMem hi (s.takeWord_stream b n ht))
      next => exact .ofMem (by simpa using hm)
  next => exact s.visibleMove_memMoves ..
  next => exact .ofMem (s.farArrival_mem _)
  next => exact .ofMem (s.farFailed_mem _)
  next => exact .ofMem (by split <;> simp)
  next => exact .ofMem (s.hop_mem _ _)
  next => exact .ofMem (s.slipGone_mem _)
  next => exact .ofMem (s.tick_mem _)


/-- What the package does of itself moves memory as its events do. -/
theorem runAuto_memMoves (a : Auto) (s : State) : MemMoves s (runAuto a s) := by
  cases a with
  | ev e => exact runEvent_memMoves e s
  | boot => exact .ofBoot s
  | op c o =>
    cases o with
    | halt => exact .ofKeepsMem rfl (execHaltop_keepsMem ..)
    | save => exact .ofKeepsMem rfl (execSaveop_keepsMem ..)
    | resume => exact .ofKeepsMem rfl (execResumeop_keepsMem ..)
    | abandon => exact .ofKeepsMem rfl (execAbandonop_keepsMem ..)
    | destroy => exact .ofKeepsMem rfl (execDestroyop_keepsMem ..)
    | query => exact .ofKeepsMem rfl (execQueryop_keepsMem ..)
    | restore => exact .ofKeepsMem rfl (execRestoreop_keepsMem ..)
    | dump => exact .ofKeepsMem rfl (execDumpop_keepsMem ..)
    | bind => exact .ofKeepsMem rfl (execBindop_keepsMem ..)
  | inject n elem entry dest => exact .ofKeepsMem rfl (execInject_keepsMem ..)
  | emitResume n elem => exact .ofKeepsMem rfl (execEmitResume_keepsMem ..)
  | refill n elem => exact .ofKeepsMem rfl (execRefill_keepsMem ..)
  | spilledMatch n elem slot => exact .ofKeepsMem rfl (execSpilledMatch_keepsMem ..)
  | class0Pacing n elem => exact .ofKeepsMem rfl (execClass0Pacing_keepsMem ..)
  | firingPromotion n elem firing => exact .ofKeepsMem rfl (execFiringPromotion_keepsMem ..)
  | traceSample n elem => exact .ofKeepsMem rfl (execTraceSample_keepsMem ..)
  | memoryResponse op elem => exact .ofKeepsMem rfl (execMemoryResponse_keepsMem ..)
  | stalledWriteRetry op elem => exact .ofKeepsMem rfl (execStalledWriteRetry_keepsMem ..)
  | transferUnit op => exact .ofKeepsMem rfl (execTransferUnit_keepsMem ..)
  | blockPass op => exact .ofKeepsMem rfl (execBlockPass_keepsMem ..)
  | deferredRead op => exact .ofKeepsMem rfl (execDeferredRead_keepsMem ..)
  | watchdog op => exact .ofKeepsMem rfl (execWatchdog_keepsMem ..)
  | activationStart inst => exact .ofKeepsMem rfl (execActivationStart_keepsMem ..)
  | steal inst => exact .ofKeepsMem rfl (execSteal_keepsMem ..)
  | replicaEvaluation serial kernel => exact .ofKeepsMem rfl (execReplicaEvaluation_keepsMem ..)
  | bound ctx => exact .ofKeepsMem rfl (execBound_keepsMem ..)
  | stopped ctx => exact .ofKeepsMem rfl (execStopped_keepsMem ..)
  | haltLine n elem => exact .ofKeepsMem rfl (execHaltLine_keepsMem ..)
  | stopRecord n elem => exact .ofKeepsMem rfl (execStopRecord_keepsMem ..)
  | saveend ctx => exact .ofKeepsMem rfl (execSaveend_keepsMem ..)
  | savestop ctx => exact .ofKeepsMem rfl (execSavestop_keepsMem ..)
  | restoreend ctx => exact .ofKeepsMem rfl (execRestoreend_keepsMem ..)
  | restorefail ctx => exact .ofKeepsMem rfl (execRestorefail_keepsMem ..)
  | reclaimed ctx => exact .ofKeepsMem rfl (execReclaimed_keepsMem ..)
  | launchRecord die => exact .ofKeepsMem rfl (execLaunchRecord_keepsMem ..)
  | dumpend die => exact .ofKeepsMem rfl (execDumpend_keepsMem ..)
  | commandAppliedReport bindery n => exact .ofKeepsMem rfl (execCommandAppliedReport_keepsMem ..)
  | accept packet => exact .ofKeepsMem rfl (execAccept_keepsMem ..)
  | blockedTimer router => exact .ofKeepsMem rfl (execBlockedTimer_keepsMem ..)
  | class0Timeout packet => exact .ofKeepsMem rfl (execClass0Timeout_keepsMem ..)
  | publish commit => exact .ofKeepsMem rfl (execPublish_keepsMem ..)
  | endMark mark => exact .ofKeepsMem rfl (execEndMark_keepsMem ..)
  | arrive arrival => exact .ofKeepsMem rfl (execArrive_keepsMem ..)
  | ticketReturn arrival => exact .ofKeepsMem rfl (execTicketReturn_keepsMem ..)
  | delivered bar => exact .ofKeepsMem rfl (execDelivered_keepsMem ..)
  | expire bar => exact .ofKeepsMem rfl (execExpire_keepsMem ..)
  | collectiveEnd bar => exact .ofKeepsMem rfl (execCollectiveEnd_keepsMem ..)
  | faultToken tok => exact .ofKeepsMem rfl (execFaultToken_keepsMem ..)
  | startPacket n elem => exact .ofKeepsMem rfl (execStartPacket_keepsMem ..)
  | stopPacket n elem => exact .ofKeepsMem rfl (execStopPacket_keepsMem ..)
  | slipCapture router => exact .ofKeepsMem rfl (execSlipCapture_keepsMem ..)
  | slipRelease router => exact .ofKeepsMem rfl (execSlipRelease_keepsMem ..)
  | slipWatchdog ring => exact .ofKeepsMem rfl (execSlipWatchdog_keepsMem ..)
  | slipReissue ring => exact .ofKeepsMem rfl (execSlipReissue_keepsMem ..)
  | reportRequest => exact .ofKeepsMem rfl (execReportRequest_keepsMem ..)

/-- A step goes on from a state with the memory of `s`, and moves memory as its event does. -/
theorem step_memMoves (s : State) : ∃ u, u.mem = s.mem ∧ MemMoves u (step s) := by
  unfold step
  split
  next e rest _ => exact ⟨{ s with agenda := rest }, rfl, runEvent_memMoves e _⟩
  next => exact ⟨_, s.choice_mem _, runAuto_memMoves _ _⟩

/-! ### The canonical form of memory -/

theorem State.bootFail_mem_wf (s : State) (stage : Nat) (h : Memory.wf s.mem = true) : Memory.wf (s.bootFail stage).mem = true := by
  simp only [State.bootFail]
  split
  · exact State.bootWord_mem_wf _ _ h
  · exact h

theorem State.identityKey_mem_wf (s : State) (h : Memory.wf s.mem = true) :
    ∀ t, s.identityKey = some t → Memory.wf t.mem = true := by
  intro t ht
  unfold State.identityKey at ht
  split at ht
  · cases ht
    exact Memory.write_wf _ _ _ h
  · split at ht <;> cases ht
    exact h

/-- R451: every stage of the boot keeps memory in its canonical form. -/
theorem execBoot_mem_wf {s t : State} (h : Memory.wf s.mem = true) (ht : execBoot s = .next t) : Memory.wf t.mem = true := by
  simp only [execBoot] at ht
  cases ht
  split
  · exact h
  · split
    · split
      · exact h
      · exact s.bootFail_mem_wf 1 h
    · split
      · exact h
      · exact s.bootFail_mem_wf 2 h
    · exact State.clearRange_mem_wf _ _ _ (by rwa [State.train_mem])
    · split
      · exact h
      · split
        · exact s.bootFail_mem_wf 3 h
        · split
          · exact h
          · exact s.bootFail_mem_wf 4 h
    · split
      next u hu => exact s.identityKey_mem_wf h u hu
      next => exact s.bootFail_mem_wf 5 h
    · simpa using h
    · split
      · exact h
      · split
        · exact State.bootWord_mem_wf _ _ h
        · exact s.bootFail_mem_wf 6 h

theorem MemMoves.wf {s t : State} (h : Memory.wf s.mem = true) (hm : MemMoves s (.next t)) : Memory.wf t.mem = true := by
  obtain ⟨_, ⟨rfl⟩, hs | ⟨w, path, level, ha⟩ | hb⟩ := hm
  · rwa [hs]
  · rw [ha]
    exact s.advance_mem_wf w path level h
  · exact execBoot_mem_wf h hb

end Sys2Proof.Machine

namespace Sys2Proof
open Sys2Proof.Machine

/-- Settles O6: whatever the agenda holds and whatever is chosen, the step answers a next state. -/
theorem everyStepGoes : Obligations.EveryStepGoes := by
  intro s
  obtain ⟨_, _, t, ht, _⟩ := step_memMoves s
  exact ⟨t, ht⟩

/-- Settles O7: a step leaves memory as it is, retires writes into it, or runs a stage of the boot, and each keeps the form. -/
theorem memoryStaysCanonical : Obligations.MemoryStaysCanonical := by
  intro s t h ht
  obtain ⟨u, hu, hm⟩ := step_memMoves s
  rw [ht] at hm
  exact hm.wf (by rwa [hu])

end Sys2Proof
end

section
/-! The record that decodes is the code of what it decodes to. -/

namespace Sys2Proof
open Sys2Proof.Machine

/-! ### The codes of a record's fields -/

theorem Lane.code_of_laneOf {k : Nat} {l : Lane} (h : laneOf k = some l) : l.code = k := by
  unfold laneOf at h
  split at h <;> cases h <;> rfl

theorem TagOp.code_of_tagOpOf {k : Nat} {t : TagOp} (h : tagOpOf k = some t) : t.code = k := by
  unfold tagOpOf at h
  split at h <;> cases h <;> rfl

theorem Rm.code_of_rmOf {k : Nat} {r : Rm} (h : rmOf k = some r) : r.code = k := by
  unfold rmOf at h
  split at h <;> cases h <;> rfl

theorem Fmt.code_ofCode : ∀ k < 8, (Fmt.ofCode k).code = k := by decide

/-- The bits of a number from bit `k` on, at their places. -/
def above (x k : Nat) : Nat := x / 2 ^ k * 2 ^ k

theorem above_zero (x : Nat) : above x 0 = x := by simp [above]

theorem above_eq_zero {x k : Nat} (h : x < 2 ^ k) : above x k = 0 := by simp [above, Nat.div_eq_of_lt h]

theorem field_lt (x hi lo : Nat) : field x hi lo < 2 ^ (hi + 1 - lo) := Nat.mod_lt _ (Nat.two_pow_pos _)

/-- R5: a field adds its bits to those above it. -/
theorem above_add_field (x : Nat) {hi lo k : Nat} (hk : hi + 1 = k) (h : lo ≤ k) : above x k + field x hi lo * 2 ^ lo = above x lo := by
  subst hk
  have hp : 2 ^ (hi + 1) = 2 ^ lo * 2 ^ (hi + 1 - lo) := by rw [← Nat.pow_add, Nat.add_sub_cancel' h]
  calc above x (hi + 1) + field x hi lo * 2 ^ lo
      = (2 ^ (hi + 1 - lo) * (x / 2 ^ lo / 2 ^ (hi + 1 - lo)) + x / 2 ^ lo % 2 ^ (hi + 1 - lo)) * 2 ^ lo := by
        rw [above, field, Nat.shiftRight_eq_div_pow, hp, ← Nat.div_div_eq_div_mul]
        rw [Nat.add_mul, Nat.mul_comm (2 ^ lo) (2 ^ (hi + 1 - lo)), ← Nat.mul_assoc,
          Nat.mul_comm (2 ^ (hi + 1 - lo)) (x / 2 ^ lo / _)]
    _ = above x lo := by rw [Nat.div_add_mod, above]

theorem toNat_bitOf (x i : Nat) : (bitOf x i).toNat = field x i i := by
  rw [bitOf, Nat.toNat_testBit, field, Nat.shiftRight_eq_div_pow, Nat.add_sub_cancel_left, Nat.pow_one]

theorem toNat_ofNat_field (x hi lo : Nat) : (BitVec.ofNat (hi + 1 - lo) (field x hi lo)).toNat = field x hi lo := by
  rw [BitVec.toNat_ofNat, Nat.mod_eq_of_lt (field_lt x hi lo)]

/-- An instruction word is the sum of its fields (R32). -/
theorem sum_fields_iw {iw : Nat} (h : iw < 2 ^ 64) :
    field iw 63 55 * 2 ^ 55 + field iw 54 52 * 2 ^ 52 + field iw 51 50 * 2 ^ 50 + field iw 49 48 * 2 ^ 48 + field iw 47 45 * 2 ^ 45 +
      field iw 44 42 * 2 ^ 42 + field iw 41 41 * 2 ^ 41 + field iw 40 39 * 2 ^ 39 + field iw 38 38 * 2 ^ 38 +
      field iw 37 32 * 2 ^ 32 + field iw 31 0 = iw := by
  have h64 := above_eq_zero h
  have h55 := above_add_field iw (hi := 63) (lo := 55) (k := 64) rfl (by decide)
  have h52 := above_add_field iw (hi := 54) (lo := 52) (k := 55) rfl (by decide)
  have h50 := above_add_field iw (hi := 51) (lo := 50) (k := 52) rfl (by decide)
  have h48 := above_add_field iw (hi := 49) (lo := 48) (k := 50) rfl (by decide)
  have h45 := above_add_field iw (hi := 47) (lo := 45) (k := 48) rfl (by decide)
  have h42 := above_add_field iw (hi := 44) (lo := 42) (k := 45) rfl (by decide)
  have h41 := above_add_field iw (hi := 41) (lo := 41) (k := 42) rfl (by decide)
  have h39 := above_add_field iw (hi := 40) (lo := 39) (k := 41) rfl (by decide)
  have h38 := above_add_field iw (hi := 38) (lo := 38) (k := 39) rfl (by decide)
  have h32 := above_add_field iw (hi := 37) (lo := 32) (k := 38) rfl (by decide)
  have h0 := above_add_field iw (hi := 31) (lo := 0) (k := 32) rfl (by decide)
  rw [above_zero] at h0
  omega

/-- R32: encoding the fields of an instruction word gives the word back. -/
theorem encodeIw_of_fieldsOf {iw : Nat} {ds : List Dest} {n : Node} (hw : iw < 2 ^ 64) (h : fieldsOf iw ds = some n) :
    encodeIw (field iw 63 55) n = iw ∧ n.dests = ds := by
  unfold fieldsOf at h
  split at h <;> cases h
  next lane tagop rm hl ht hr =>
    refine ⟨?_, rfl⟩
    rw [encodeIw, Fmt.code_ofCode _ (field_lt iw 54 52), Lane.code_of_laneOf hl, TagOp.code_of_tagOpOf ht, Rm.code_of_rmOf hr,
      toNat_bitOf, toNat_bitOf, toNat_ofNat_field iw 51 50, toNat_ofNat_field iw 40 39, toNat_ofNat_field iw 37 32,
      toNat_ofNat_field iw 31 0, sum_fields_iw hw]

/-! ### The linkage word -/

/-- A linkage word is the sum of its fields (R41). -/
theorem sum_fields_lw {lw : Nat} (h : lw < 2 ^ 64) :
    field lw 63 62 * 2 ^ 62 + field lw 61 60 * 2 ^ 60 + field lw 59 40 * 2 ^ 40 + field lw 39 20 * 2 ^ 20 + field lw 19 0 = lw := by
  have h64 := above_eq_zero h
  have h62 := above_add_field lw (hi := 63) (lo := 62) (k := 64) rfl (by decide)
  have h60 := above_add_field lw (hi := 61) (lo := 60) (k := 62) rfl (by decide)
  have h40 := above_add_field lw (hi := 59) (lo := 40) (k := 60) rfl (by decide)
  have h20 := above_add_field lw (hi := 39) (lo := 20) (k := 40) rfl (by decide)
  have h0 := above_add_field lw (hi := 19) (lo := 0) (k := 20) rfl (by decide)
  rw [above_zero] at h0
  omega

theorem destOf_code {x : Nat} (h : x < 2 ^ 20) : (destOf x).code = x := by
  have h20 := above_eq_zero h
  have h2 := above_add_field x (hi := 19) (lo := 2) (k := 20) rfl (by decide)
  have h0 := above_add_field x (hi := 1) (lo := 0) (k := 2) rfl (by decide)
  rw [above_zero] at h0
  rw [destOf, Dest.code, toNat_ofNat_field x 19 2, toNat_ofNat_field x 1 0]
  omega

/-- R41, R42: encoding the destinations of a linkage word gives the word back. -/
theorem encodeLw_of_destsOf {lw : Nat} {ds : List Dest} (hw : lw < 2 ^ 64) (h : destsOf lw = some ds) : encodeLw ds = lw := by
  have hs := sum_fields_lw hw
  have hd0 := destOf_code (field_lt lw 59 40)
  have hd1 := destOf_code (field_lt lw 39 20)
  have hd2 := destOf_code (field_lt lw 19 0)
  have hn := field_lt lw 63 62
  simp only [destsOf, bne_iff_ne, ne_eq, ite_not, Bool.and_eq_true, beq_iff_eq] at h
  split at h
  next hz =>
    split at h
    next hk =>
      split at h <;> cases h
      simp only [encodeLw]
      omega
    next hk =>
      split at h <;> cases h
      simp only [encodeLw, hd0]
      omega
    next hk =>
      split at h <;> cases h
      simp only [encodeLw, hd0, hd1]
      omega
    next h0 h1 h2 =>
      cases h
      have h3 : field lw 63 62 = 3 := by
        simp only [imp_false] at h0 h1 h2
        omega
      simp only [encodeLw, hd0, hd1, hd2]
      omega
  next => cases h

/-! ### The forms that IMM or MOD tells apart -/

theorem check_of_checkNode {o : Nat} {n : Node} {r : Row} (hr : rowOf o = some r) (h : checkNode o n = none) : r.check n = true := by
  simp only [checkNode, hr] at h
  split at h
  next => cases h
  next hf =>
    simp only [fieldBad, Bool.or_eq_true, Bool.not_eq_true', not_or, Bool.not_eq_false] at hf
    exact hf.2

theorem rowOf_phash : rowOf 0x18A = systemRows[10]? := by
  simp only [rowOf, rows, List.find?_append]
  rfl

theorem rowOf_svctx : rowOf 0x18D = systemRows[13]? := by
  simp only [rowOf, rows, List.find?_append]
  rfl

theorem csrr_variantOk {n : Node} {i : Instr} (h : ofOpcode n 0x182 = some i) : variantOk i = true := by
  cases h
  split <;> (dsimp only [variantOk]; simp [*])

theorem csrw_variantOk {n : Node} {i : Instr} (h : ofOpcode n 0x183 = some i) : variantOk i = true := by
  cases h
  (repeat' split) <;> (dsimp only [variantOk]; simp [*])

theorem pwb_variantOk {n : Node} {i : Instr} (h : ofOpcode n 0x189 = some i) : variantOk i = true := by
  cases h
  split <;> (dsimp only [variantOk]; simp [*])

theorem ctrig_variantOk {n : Node} {i : Instr} (h : ofOpcode n 0x190 = some i) : variantOk i = true := by
  cases h
  split <;> (dsimp only [variantOk]; simp [*])

/-- MOD of PHASH is 0, 1 or 2. -/
theorem phash_variantOk {n : Node} {i : Instr} (hc : checkNode 0x18A n = none) (h : ofOpcode n 0x18A = some i) :
    variantOk i = true := by
  have hm : md n ≤ 2 := by
    have hr := check_of_checkNode rowOf_phash hc
    simp only [Bool.and_eq_true, decide_eq_true_eq] at hr
    exact hr.1.2
  cases h
  (repeat' split) <;> (dsimp only [variantOk]; simp [*])
  simp only [field, Nat.shiftRight_zero] at *
  omega

/-- MOD of SVCTX is at most 5. -/
theorem svctx_variantOk {n : Node} {i : Instr} (hc : checkNode 0x18D n = none) (h : ofOpcode n 0x18D = some i) :
    variantOk i = true := by
  have hm : md n ≤ 5 := by
    have hr := check_of_checkNode rowOf_svctx hc
    simp only [Bool.and_eq_true, decide_eq_true_eq] at hr
    exact hr.1.2
  cases h
  split <;> (dsimp only [variantOk]; simp [*])
  simp only [field, Nat.shiftRight_zero, imp_false] at *
  omega

/-- What decodes is in the row that its IMM and MOD select. -/
theorem variantOk_of_ofOpcode {n : Node} {o : Nat} {i : Instr} (hi : ofOpcode n o = some i) (hc : checkNode o n = none)
    (ho : opcode i = some o) : variantOk i = true := by
  cases i with
  | csrr | csrrViolog => cases ho; exact csrr_variantOk hi
  | csrw | csrwViolog | csrwFflags | csrwJflags => cases ho; exact csrw_variantOk hi
  | pwbSet | pwbClr => cases ho; exact pwb_variantOk hi
  | phashHash | phashShare | phashDrop => cases ho; exact phash_variantOk hc hi
  | svctxHalt | svctxSave | svctxResume | svctxAbandon | svctxDestroy | svctxQuery => cases ho; exact svctx_variantOk hc hi
  | ctrigStart | ctrigStop => cases ho; exact ctrig_variantOk hi
  | _ => rfl

theorem Instr.wf_of_node {i : Instr} {o : Nat} {n : Node} (ho : opcode i = some o) (hn : nodeOf i = some n) :
    i.wf = ((checkNode o n).isNone && variantOk i) := by
  unfold Instr.wf
  rw [ho, hn]

theorem encode_of_node {i : Instr} {o : Nat} {n : Node} (ho : opcode i = some o) (hn : nodeOf i = some n) :
    encode i = some (.node (BitVec.ofNat 64 (encodeIw o n)) (BitVec.ofNat 64 (encodeLw n.dests))) := by
  unfold encode
  rw [ho, hn]

/-- Settles O4: each field of the record is read back at its place, and what decodes has passed the bindery's check. -/
theorem encodeOfDecodeIsTheRecord : Obligations.EncodeOfDecodeIsTheRecord := by
  intro iw lw i h
  obtain ⟨ds, n, hds, hn, hc, hi, ho, hnode⟩ := decodeNode_ok h
  obtain ⟨hiw, rfl⟩ := encodeIw_of_fieldsOf iw.isLt hn
  have hlw := encodeLw_of_destsOf lw.isLt hds
  constructor
  · rw [Instr.wf_of_node ho hnode, hc, variantOk_of_ofOpcode hi hc ho]
    rfl
  · rw [encode_of_node ho hnode, hiw, hlw, BitVec.ofNat_toNat, BitVec.ofNat_toNat, BitVec.setWidth_eq, BitVec.setWidth_eq]

end Sys2Proof
end

section
/-! The frame of the instructions that only compute. -/

namespace Sys2Proof.Machine

/-- Whatever its operands, the instruction has the frame of a firing. -/
def OnlyEmits (mk : Node → Instr) : Prop :=
  ∀ (n : Node) (s t : State) (f : Firing), s.firing = some f → f.placed → exec (mk n) s = .next t → FiringFrame f s t

/-! ### The shared bodies -/

theorem execInt_frame {o n s t f g} (hf : s.firing = some f) (hp : f.placed) (h : execInt o n s g = .next t) : FiringFrame f s t :=
  firePure_frame o n s t f _ hf hp h

theorem execBits_frame {o n s t f g} (hf : s.firing = some f) (hp : f.placed) (h : execBits o n s g = .next t) : FiringFrame f s t :=
  firePure_frame o n s t f _ hf hp h

theorem execFlt1_frame {o n s t f g} (hf : s.firing = some f) (hp : f.placed) (h : execFlt1 o n s g = .next t) : FiringFrame f s t :=
  firePure_frame o n s t f _ hf hp h

theorem execFlt2_frame {o n s t f g} (hf : s.firing = some f) (hp : f.placed) (h : execFlt2 o n s g = .next t) : FiringFrame f s t :=
  firePure_frame o n s t f _ hf hp h

theorem execFlt3_frame {o n s t f g} (hf : s.firing = some f) (hp : f.placed) (h : execFlt3 o n s g = .next t) : FiringFrame f s t :=
  firePure_frame o n s t f _ hf hp h

/-- `Kept` speaks of the place and the context of a firing alone. -/
theorem Kept.congr {f g : Firing} {s t : State} (hn : f.n = g.n) (he : f.elem = g.elem) (hc : f.tag.ctx = g.tag.ctx) (h : Kept f s t) :
    Kept g s t := by
  obtain ⟨rest, elems, elem, ctxs, ctx⟩ := h
  rw [hn, he] at elem
  rw [hc] at ctx
  exact ⟨rest, hn ▸ he ▸ elems, elem, hc ▸ ctxs, ctx⟩

/-- R8: where nothing else was changed, no operation was issued, and the exceptions are raised at once or not yet. -/
theorem Kept.owes {f : Firing} {s t : State} (h : Kept f s t) (cap : Capture) (jet : Bool) (fl : Nat) :
    Kept f s (s.owes t f cap jet fl) := by
  have ho : ¬ s.ops.length < t.ops.length := by
    rw [h.rest]
    exact Nat.lt_irrefl _
  simp only [State.owes, if_neg ho]
  split
  · exact h
  · exact h.trans (t.setFlags_kept f cap jet fl)

/-- R170: a mover whose body keeps all but what a firing's end may change keeps it, FMT or not. -/
theorem Fire.moved_kept (x : Fire) (s : State) (body : Fire → State → State) (hp : x.f.placed)
    (hb : ∀ y : Fire, y.f.placed → Kept y.f s (body y s)) : Kept x.f s (x.moved s body) := by
  have hc : Kept x.f s (body x.capped s) := Kept.congr (f := x.capped.f) rfl rfl rfl (hb x.capped hp)
  unfold Fire.moved
  split
  · split
    · exact hc.owes _ _ _
    · exact x.finish_kept s _ _ _ hp
  · exact hc

theorem fireMove_frame {o n s t f errs} {body : Fire → State → State} (hf : s.firing = some f) (hp : f.placed)
    (hb : ∀ (y : Fire) (u : State), y.f.placed → Kept y.f u (body y u)) (h : fireMove o n s errs body = .next t) : FiringFrame f s t :=
  fire_frame o n s t f errs (fun x u => x.moved u body) hf hp ((s.fireOf o n f).moved_kept s.consumed body hp fun y hy => hb y s.consumed hy) h

/-! ### The instructions -/

theorem merge_onlyEmits : OnlyEmits .merge := by
  intro n s t f hf hp h
  dsimp only [exec] at h
  exact fireMove_frame hf hp (fun y u hy => y.emitAll_kept hy _ u) h

theorem sink_onlyEmits : OnlyEmits .sink := by
  intro n s t f hf hp h
  dsimp only [exec] at h
  exact fireMove_frame hf hp (fun y u _ => Kept.refl y.f u) h

theorem errt_onlyEmits : OnlyEmits .errt := by
  intro n s t f hf hp h
  dsimp only [exec] at h
  refine fireMove_frame hf hp (fun y u hy => ?_) h
  dsimp only
  split <;> exact y.finish_kept u _ _ _ hy

theorem retag_onlyEmits : OnlyEmits .retag := by
  intro n s t f hf hp h
  dsimp only [exec] at h
  refine fire_frame _ n s t f _ _ hf hp ?_ h
  extract_lets g u tag
  split
  · exact Fire.fault_kept (s.fireOf 0x00B n f) s.consumed _ _ _ _ _ _ hp
  · exact Fire.finish_kept (s.fireOf 0x00B n f) s.consumed _ _ _ hp

/-- R192: what JCLRF clears are flags of its own context. -/
theorem jclrf_onlyEmits : OnlyEmits .jclrf := by
  intro n s t f hf hp h
  dsimp only [exec] at h
  refine fire_frame _ n s t f _ _ hf hp ?_ h
  exact (Kept.ofCtx s.consumed _ fun c => ⟨c.csrs.fflags, _, c.state, c.halt, c.byFault, c.image, rfl⟩).trans
    (Fire.finish_kept (s.fireOf 0x0CA n f) _ _ _ _ hp)

theorem movers_onlyEmit :
    OnlyEmits .pass ∧ OnlyEmits .copy ∧ OnlyEmits .steer ∧ OnlyEmits .gate ∧ OnlyEmits .sync ∧ OnlyEmits .tnext ∧
    OnlyEmits .tset ∧ OnlyEmits .split ∧ OnlyEmits .bcast ∧ OnlyEmits .perm ∧ OnlyEmits .eos ∧ OnlyEmits .iseos := by
  and_intros
  all_goals
    intro n s t f hf hp h
    dsimp only [exec] at h
    exact moveData_frame _ _ _ _ _ _ hf hp h

theorem computers_onlyEmit :
    OnlyEmits .const ∧ OnlyEmits .select ∧ OnlyEmits .tget ∧ OnlyEmits .mkerr ∧ OnlyEmits .itidx ∧ OnlyEmits .conv ∧
    OnlyEmits .icmp ∧ OnlyEmits .idot4 ∧ OnlyEmits .addr ∧ OnlyEmits .fcmp ∧ OnlyEmits .fclass ∧ OnlyEmits .fscale ∧
    OnlyEmits .fgetx ∧ OnlyEmits .fdot2 ∧ OnlyEmits .cvt ∧ OnlyEmits .cvti ∧ OnlyEmits .cvtf ∧ OnlyEmits .gpack ∧
    OnlyEmits .gunpk ∧ OnlyEmits .unp3 ∧ OnlyEmits .npack ∧ OnlyEmits .nunpk ∧ OnlyEmits .movb ∧ OnlyEmits .fpown ∧
    OnlyEmits .jseed ∧ OnlyEmits .jlift ∧ OnlyEmits .jget ∧ OnlyEmits .jput ∧ OnlyEmits .jtrunc ∧ OnlyEmits .jdiff ∧
    OnlyEmits .jintg ∧ OnlyEmits .jeval ∧ OnlyEmits .jcomp ∧ OnlyEmits .jflag ∧ OnlyEmits .jscal ∧ OnlyEmits .jderv ∧
    OnlyEmits .ordn ∧ OnlyEmits .ordj ∧ OnlyEmits .ordf ∧ OnlyEmits .rng := by
  and_intros
  all_goals
    intro n s t f hf hp h
    dsimp only [exec] at h
    exact firePure_frame _ _ _ _ _ _ hf hp h

theorem integers_onlyEmit :
    OnlyEmits .iadd ∧ OnlyEmits .isub ∧ OnlyEmits .imul ∧ OnlyEmits .imulh ∧ OnlyEmits .imad ∧ OnlyEmits .idiv ∧
    OnlyEmits .irem ∧ OnlyEmits .ineg ∧ OnlyEmits .iabs ∧ OnlyEmits .imin ∧ OnlyEmits .imax ∧ OnlyEmits .iadds ∧
    OnlyEmits .isubs ∧ OnlyEmits .iclamp := by
  and_intros
  all_goals
    intro n s t f hf hp h
    dsimp only [exec] at h
    exact execInt_frame hf hp h

theorem logic_onlyEmit :
    OnlyEmits .andw ∧ OnlyEmits .orw ∧ OnlyEmits .xorw ∧ OnlyEmits .notw ∧ OnlyEmits .andn ∧ OnlyEmits .shl ∧ OnlyEmits .shr ∧
    OnlyEmits .sar ∧ OnlyEmits .rotl ∧ OnlyEmits .popc ∧ OnlyEmits .clz ∧ OnlyEmits .ctz ∧ OnlyEmits .brev ∧ OnlyEmits .bfx ∧
    OnlyEmits .bfi := by
  and_intros
  all_goals
    intro n s t f hf hp h
    dsimp only [exec] at h
    exact execBits_frame hf hp h

theorem floats1_onlyEmit :
    OnlyEmits .fsqrt ∧ OnlyEmits .frcp ∧ OnlyEmits .frsq ∧ OnlyEmits .fabs ∧ OnlyEmits .fneg ∧ OnlyEmits .frnd ∧
    OnlyEmits .fexp ∧ OnlyEmits .fexp2 ∧ OnlyEmits .flog ∧ OnlyEmits .flog2 ∧ OnlyEmits .fsin ∧ OnlyEmits .fcos ∧
    OnlyEmits .ftanh ∧ OnlyEmits .fsigm ∧ OnlyEmits .ferf ∧ OnlyEmits .fatan := by
  and_intros
  all_goals
    intro n s t f hf hp h
    dsimp only [exec] at h
    exact execFlt1_frame hf hp h

theorem floats2_onlyEmit :
    OnlyEmits .fadd ∧ OnlyEmits .fsub ∧ OnlyEmits .fmul ∧ OnlyEmits .fdiv ∧ OnlyEmits .fmin ∧ OnlyEmits .fmax ∧
    OnlyEmits .fcpsgn := by
  and_intros
  all_goals
    intro n s t f hf hp h
    dsimp only [exec] at h
    exact execFlt2_frame hf hp h

theorem floats3_onlyEmit :
    OnlyEmits .ffma ∧ OnlyEmits .fclamp := by
  and_intros
  all_goals
    intro n s t f hf hp h
    dsimp only [exec] at h
    exact execFlt3_frame hf hp h

end Sys2Proof.Machine

namespace Sys2Proof
open Sys2Proof.Machine

/-- Settles O12: but for MERGE, SINK, RETAG, ERRT and JCLRF the instructions end with outputs and flags alone; the bodies of
these five keep as much. -/
theorem valueFiringsOnlyEmit : Obligations.ValueFiringsOnlyEmit := by
  change ∀ mk ∈ _, OnlyEmits mk
  simp only [List.forall_mem_cons, List.not_mem_nil, false_imp_iff, implies_true, and_true, merge_onlyEmits, sink_onlyEmits,
    errt_onlyEmits, retag_onlyEmits, jclrf_onlyEmits, movers_onlyEmit, computers_onlyEmit, integers_onlyEmit, logic_onlyEmit,
    floats1_onlyEmit, floats2_onlyEmit, floats3_onlyEmit]

end Sys2Proof
end

section
/-! Rounding a value that the format holds. -/

namespace Sys2Proof.Machine

/-! ### The parts of a pattern -/

/-- Bits of a pattern below its sign. -/
theorem fbits_eq (f : Fmt) : fbits f = expBits f + fracBits f + 1 := by
  unfold fbits
  omega

/-- R68: the exponent field of a pattern. -/
theorem exponent_eq (f : Fmt) (p : Nat) : field p (fbits f - 2) (fracBits f) = p / 2 ^ fracBits f % 2 ^ expBits f := by
  have hE : 1 ≤ expBits f := by cases f <;> decide
  rw [field, Nat.shiftRight_eq_div_pow, fbits_eq, show expBits f + fracBits f + 1 - 2 + 1 - fracBits f = expBits f by omega]

/-- R68: below its sign a pattern is its exponent field and its fraction. -/
theorem magnitude_eq (f : Fmt) (p : Nat) :
    p % 2 ^ (fbits f - 1) = field p (fbits f - 2) (fracBits f) * 2 ^ fracBits f + p % 2 ^ fracBits f := by
  rw [exponent_eq, fbits_eq, Nat.add_sub_cancel, Nat.add_comm (expBits f), Nat.pow_add, Nat.mod_mul]
  rw [Nat.add_comm, Nat.mul_comm]

/-- A pattern is its sign and what is below it. -/
theorem withSign_signOf {f : Fmt} {p : Nat} (h : p < 2 ^ fbits f) : withSign f (signOf f p) (p % 2 ^ (fbits f - 1)) = p := by
  rw [fbits_eq, Nat.pow_succ] at h
  rw [withSign, signOf, bitOf, Nat.testBit_eq_decide_div_mod_eq, fbits_eq, Nat.add_sub_cancel]
  have hd : p / 2 ^ (expBits f + fracBits f) < 2 := Nat.div_lt_of_lt_mul h
  have hp := Nat.mod_add_div p (2 ^ (expBits f + fracBits f))
  split
  next hs =>
    rw [decide_eq_true_eq, Nat.mod_eq_of_lt hd] at hs
    rwa [hs, Nat.mul_one] at hp
  next hs =>
    rw [decide_eq_true_eq, Nat.mod_eq_of_lt hd] at hs
    have h0 : p / 2 ^ (expBits f + fracBits f) = 0 := by
      generalize p / 2 ^ (expBits f + fracBits f) = d at hd hs
      omega
    rwa [h0, Nat.mul_zero] at hp

/-! ### Rounding what fits -/

theorem roundUnits_self (rm : Rm) (draw : Nat) (s : Bool) (m : Nat) (e : Int) : roundUnits rm draw s m e e false = (m, false) := by
  simp [roundUnits]

/-- R78: a number whose last bit is the format's last bit at its magnitude is a value of the format. -/
theorem roundX_of_fits {f : Fmt} {m : Nat} {e : Int} (rm : Rm) (draw : Nat) (s : Bool) (hm : m ≠ 0)
    (he : (if (bitLen m : Int) - 1 + e < emin f then emin f - fracBits f else (bitLen m : Int) - 1 + e - fracBits f) = e)
    (htop : (bitLen m : Int) - 1 + e ≤ emax f) (hnan : f = .Q → patternOf f m e ≠ 0x7F) :
    roundX f rm draw (.num s m e false) = (withSign f s (patternOf f m e), 0) := by
  have hmax : ¬ emax f + 1 < (bitLen m : Int) - 1 + e := by omega
  have hov : ¬ emax f < (bitLen m : Int) - 1 + e := by omega
  have hq : (f == .Q && patternOf f m e == 0x7F) = false := by
    simpa only [Bool.and_eq_false_imp, beq_iff_eq, beq_eq_false_iff_ne] using hnan
  simp only [roundX, hm, false_and, if_false, hmax, he, roundUnits_self, hov, hq, decide_false, Bool.or_false, Bool.and_false, Bool.false_and,
    Bool.false_eq_true, Nat.add_zero]

theorem bitLen_le {m k : Nat} (h : m < 2 ^ k) : bitLen m ≤ k := by
  unfold bitLen
  split
  · omega
  · next hm => exact (Nat.log2_lt hm).2 h

theorem bitLen_of_leading {m k : Nat} (hl : 2 ^ k ≤ m) (hu : m < 2 ^ (k + 1)) : bitLen m = k + 1 := by
  have hm : m ≠ 0 := fun h => by simp [h] at hl
  rw [bitLen, if_neg hm, (Nat.log2_eq_iff hm).2 ⟨hl, hu⟩]

/-! ### The finite values of a format -/

theorem emin_le_emax (f : Fmt) : emin f ≤ emax f := by cases f <;> decide

theorem patternOf_subnormal {f : Fmt} {m : Nat} (hm : m ≠ 0) (hu : m < 2 ^ fracBits f) : patternOf f m (emin f - fracBits f) = m := by
  have ht : (bitLen m : Int) - 1 + (emin f - fracBits f) < emin f := by
    have := bitLen_le hu
    omega
  rw [patternOf, if_neg hm]
  simp only [ht, if_true]
  rw [Int.sub_self, Int.toNat_zero, Nat.pow_zero, Nat.mul_one]

/-- R69: a subnormal is its own rounding. -/
theorem roundX_subnormal {f : Fmt} {m : Nat} (rm : Rm) (draw : Nat) (s : Bool) (hm : m ≠ 0) (hu : m < 2 ^ fracBits f) :
    roundX f rm draw (.num s m (emin f - fracBits f) false) = (withSign f s m, 0) := by
  have hb := bitLen_le hu
  have hp := patternOf_subnormal hm hu
  have hx := emin_le_emax f
  have ht : (bitLen m : Int) - 1 + (emin f - fracBits f) < emin f := by omega
  rw [roundX_of_fits rm draw s hm (if_pos ht) (by omega), hp]
  rintro rfl
  rw [hp]
  have : m < 2 ^ 3 := hu
  omega

theorem bitLen_significand {f : Fmt} {fr : Nat} (hf : fr < 2 ^ fracBits f) : bitLen (2 ^ fracBits f + fr) = fracBits f + 1 :=
  bitLen_of_leading (Nat.le_add_right _ _) (by rw [Nat.pow_succ]; omega)

theorem patternOf_normal {f : Fmt} {ex fr : Nat} (he : 1 ≤ ex) (hf : fr < 2 ^ fracBits f) :
    patternOf f (2 ^ fracBits f + fr) ((ex : Int) - bias f - fracBits f) = ex * 2 ^ fracBits f + fr := by
  have hm : 2 ^ fracBits f + fr ≠ 0 := by
    have := Nat.two_pow_pos (fracBits f)
    omega
  have ht : ((fracBits f + 1 : Nat) : Int) - 1 + ((ex : Int) - bias f - fracBits f) = ex - bias f := by omega
  have hn : ¬ (ex : Int) - bias f < emin f := by
    unfold emin
    omega
  rw [patternOf, if_neg hm, bitLen_significand hf]
  simp only [ht, hn, if_false, prec, Nat.le_refl, if_true, Nat.sub_self, Nat.pow_zero, Nat.mul_one, Int.sub_add_cancel, Int.toNat_natCast]
  rw [Nat.add_mod_left, Nat.mod_eq_of_lt hf]

/-- R68: a normal is its own rounding. -/
theorem roundX_normal {f : Fmt} {ex fr : Nat} (rm : Rm) (draw : Nat) (s : Bool) (he : 1 ≤ ex) (hf : fr < 2 ^ fracBits f)
    (hx : (ex : Int) - bias f ≤ emax f) (hnan : f = .Q → ex * 2 ^ fracBits f + fr ≠ 0x7F) :
    roundX f rm draw (.num s (2 ^ fracBits f + fr) ((ex : Int) - bias f - fracBits f) false) =
      (withSign f s (ex * 2 ^ fracBits f + fr), 0) := by
  have hm : 2 ^ fracBits f + fr ≠ 0 := by
    have := Nat.two_pow_pos (fracBits f)
    omega
  have hl := bitLen_significand hf
  have hp := patternOf_normal he hf
  have hn : ¬ (ex : Int) - bias f < emin f := by
    unfold emin
    omega
  have ht : ((fracBits f + 1 : Nat) : Int) - 1 + ((ex : Int) - bias f - fracBits f) = ex - bias f := by omega
  rw [roundX_of_fits rm draw s hm (by rw [hl, ht, if_neg hn]) (by rw [hl, ht]; exact hx) (by rwa [hp]), hp]

/-- R68, R71: the exponent field of a pattern that is neither NaN nor infinity is in range. -/
theorem exponent_le_emax {f : Fmt} (hf : f ∈ [Fmt.D, .S, .H, .B, .Q]) {ex fr : Nat} (hx : ex < 2 ^ expBits f)
    (hi : f ≠ .Q → ex * 2 ^ fracBits f + fr < infPat f) : (ex : Int) - bias f ≤ emax f := by
  simp only [List.mem_cons, List.not_mem_nil, or_false] at hf
  obtain rfl | rfl | rfl | rfl | rfl := hf
  all_goals
    simp only [infPat, bias, emax, expBits, fracBits, ne_eq, reduceCtorEq, not_true_eq_false, not_false_eq_true, forall_const, if_true,
      if_false] at *
    omega

end Sys2Proof.Machine

namespace Sys2Proof
open Sys2Proof.Machine

/-- Settles O22: an infinity and a zero by definition, a subnormal and a normal because their last bit is the format's. -/
theorem representableValuesRoundToThemselves : Obligations.RepresentableValuesRoundToThemselves := by
  intro f rm draw p hf hp _ hnan
  have hs := withSign_signOf hp
  have hmag := magnitude_eq f p
  have hfr : p % 2 ^ fracBits f < 2 ^ fracBits f := Nat.mod_lt _ (Nat.two_pow_pos _)
  simp only [valueOf, hnan, Bool.false_eq_true, if_false]
  cases hinf : isInfPat f p with
  | true =>
    simp only [isInfPat, Bool.and_eq_true, bne_iff_ne, ne_eq, beq_iff_eq] at hinf
    obtain ⟨hq, he⟩ := hinf
    rw [he] at hs
    simp only [if_true, roundX, hq, if_false, hs]
  | false =>
    simp only [Bool.false_eq_true, if_false]
    split
    next hz =>
      rw [hz, Nat.zero_mul, Nat.zero_add] at hmag
      rw [hmag] at hs
      split
      next h0 =>
        rw [h0] at hs
        simp only [roundX, and_self, if_true, hs]
      next h0 => rw [roundX_subnormal rm draw _ h0 hfr, hs]
    next hz =>
      have hlt : f ≠ .Q → p % 2 ^ (fbits f - 1) < infPat f := by
        intro hq
        simp only [isNanPat, hq, if_false, decide_eq_false_iff_not] at hnan
        simp only [isInfPat, Bool.and_eq_false_imp, bne_iff_ne, beq_eq_false_iff_ne] at hinf
        have := hinf hq
        omega
      have hne : f = .Q → p % 2 ^ (fbits f - 1) ≠ 0x7F := by
        rintro rfl
        simpa [isNanPat] using hnan
      have hx : field p (fbits f - 2) (fracBits f) < 2 ^ expBits f := by
        rw [exponent_eq]
        exact Nat.mod_lt _ (Nat.two_pow_pos _)
      rw [hmag] at hs hlt hne
      rw [roundX_normal rm draw _ (by omega) hfr (exponent_le_emax hf hx hlt) hne, hs]

end Sys2Proof
end

section
/-! TRAP, BKPT and the snapshots that a firing emits. -/

namespace Sys2Proof.Machine

/-! ### Snapshots: firings that emit one number -/

/-- The instruction emits one 64-bit element that holds `v`, and does nothing else. -/
def Shows (i : Instr) (o : Nat) (n : Node) (s : State) (f : Firing) (v : Nat) : Prop :=
  ∃ t, Emits i o n s f (one 0 t) ∧ Elements f t .I 8 1 fun _ => v

/-- The token of one 64-bit number, which is read modulo 2^64. -/
theorem Fire.one64_elements (x : Fire) {v w : Nat} (ho : x.opc ≠ 0x014) (hv : v % 2 ^ 64 = w % 2 ^ 64) :
    Elements x.f (x.one64 v) .I 8 1 fun _ => w := by
  have h := x.tok_elements .I 8 1 [v] (by decide) rfl ho
  rw [show elems 8 [v] = leBytes 8 v from List.append_nil _] at h
  refine { toShape := h.toShape, elem := fun k hk => ?_ }
  obtain rfl : k = 0 := by omega
  exact (h.elem 0 hk).trans hv

/-- On a loaded set, a body that emits one number shows that number. -/
theorem Loaded.shows {i : Instr} {o : Nat} {n : Node} {s : State} {f : Firing} (h : Loaded o n s f) (v : Fire → State → Nat) {w : Nat}
    (he : exec i s = fire o n s false fun x s => x.emitAll s (one 0 (x.one64 (v x s)))) (ho : o ≠ 0x014)
    (hv : v (s.fireOf o n f) s.consumed % 2 ^ 64 = w % 2 ^ 64) : Shows i o n s f w :=
  ⟨(s.fireOf o n f).one64 (v (s.fireOf o n f) s.consumed), he.trans (fire_loaded o n s f false _ h),
    (s.fireOf o n f).one64_elements ho hv⟩

/-! ### Halting faults -/

/-- An element that raises a halting fault: it keeps the first cause (R355). -/
def Elem.faulted (e : Elem) (cause : Nat) (who : Option Op) (async : Bool) : Elem :=
  if e.cause = 0 then { e with cause := cause, culprit := who, async := async } else e

@[simp] theorem Elem.faulted_out (e : Elem) (cause : Nat) (who : Option Op) (async : Bool) : (e.faulted cause who async).out = e.out := by
  unfold Elem.faulted
  split <;> rfl

theorem Elem.faulted_cause {e : Elem} (h : e.cause = 0) (cause : Nat) (who : Option Op) (async : Bool) :
    (e.faulted cause who async).cause = cause := by
  simp [Elem.faulted, h]

/-- R350: the FAULT event halts a running context. -/
theorem State.ctx_faultEvent_running {s : State} {c : BitVec 6} (h : (s.ctx c).state = .running) :
    (s.faultEvent c).ctx c = { s.ctx c with state := .halting, halt := some s.cycle, byFault := true } := by
  simp [State.faultEvent, h]

/-- A change of one element that leaves its output buffer leaves every output buffer. -/
theorem State.elem_modElem_out (s : State) (n e : Nat) {g : Elem → Elem} (hg : ∀ x, (g x).out = x.out) (m k : Nat) :
    ((s.modElem n e g).elem m k).out = (s.elem m k).out := by
  by_cases hk : elemKey m k = elemKey n e
  · rw [State.modElem, State.elem_setElem, if_pos hk, hg, State.elem, State.elem, hk]
  · rw [State.elem_modElem_other s n e m k g hk]

/-- The fault token that a halting fault of a firing sends (R355, R357). -/
def Fire.faultTok (x : Fire) (s : State) (cause addr : Nat) (async : Bool) (code book : Nat) : FaultTok :=
  { id := s.fresh, ctx := x.f.tag.ctx, level := 0,
    recd := { (faultRec s x.f (im x.n) book cause addr async code) with arrived := s.cycle } }

/-- The state in which the FAULT event of a firing's halting fault happens: a number is given out, the element marked, the fault token
sent. -/
def Fire.faulting (x : Fire) (s : State) (cause addr : Nat) (async : Bool) (code book fl : Nat) : State :=
  { (s.newId.2.modElem x.f.n x.f.elem fun e => e.faulted (BitVec.ofNat 16 cause).toNat (some (x.asOp book fl)) async) with
    faults := s.faults ++ [x.faultTok s cause addr async code book] }

/-- R355: a halting fault of a placed firing. -/
theorem Fire.fault_eq (x : Fire) (s : State) (cause addr : Nat) (async : Bool) (code book fl : Nat) (hp : x.f.placed) :
    x.fault s cause addr async code book fl = (x.faulting s cause addr async code book fl).faultEvent x.f.tag.ctx := by
  have hn : coreNum (BitVec.ofNat 4 (dieOf x.f.n)).toNat (BitVec.ofNat 5 (coreIn x.f.n)).toNat = x.f.n := coreNum_of x.f.n hp.1
  have he : (BitVec.ofNat 7 x.f.elem).toNat = x.f.elem := by
    have := hp.2
    rw [BitVec.toNat_ofNat]
    omega
  conv =>
    rhs
    rw [Fire.faulting, ← hn, ← he]
  rfl

section
variable {x : Fire} (s : State) (cause addr : Nat) (async : Bool) (code book fl : Nat) (hp : x.f.placed)
include hp

theorem Fire.fault_faults : (x.fault s cause addr async code book fl).faults =
    s.faults ++ [x.faultTok s cause addr async code book] := by
  rw [x.fault_eq s cause addr async code book fl hp]
  rfl

theorem Fire.fault_pend : (x.fault s cause addr async code book fl).pend = s.pend := by
  rw [(x.fault_kept s cause addr async code book fl hp).rest]

theorem Fire.fault_elem_out (m e : Nat) : ((x.fault s cause addr async code book fl).elem m e).out = (s.elem m e).out := by
  rw [x.fault_eq s cause addr async code book fl hp]
  exact State.elem_modElem_out s.newId.2 x.f.n x.f.elem (fun e => e.faulted_out _ _ _) m e

/-- The element of the firing keeps the cause, where it had none. -/
theorem Fire.fault_elem_cause (hc : cause < 2 ^ 16) (h : (s.elem x.f.n x.f.elem).cause = 0) :
    ((x.fault s cause addr async code book fl).elem x.f.n x.f.elem).cause = cause := by
  rw [x.fault_eq s cause addr async code book fl hp]
  calc _ = _ := congrArg Elem.cause (State.elem_modElem_same s.newId.2 x.f.n x.f.elem _)
    _ = (BitVec.ofNat 16 cause).toNat := Elem.faulted_cause h _ _ _
    _ = cause := (BitVec.toNat_ofNat ..).trans (Nat.mod_eq_of_lt hc)

/-- The context of the firing halts, where it ran. -/
theorem Fire.fault_ctx_running (h : (s.ctx x.f.tag.ctx).state = .running) :
    (x.fault s cause addr async code book fl).ctx x.f.tag.ctx =
      { s.ctx x.f.tag.ctx with state := .halting, halt := some s.cycle, byFault := true } := by
  rw [x.fault_eq s cause addr async code book fl hp]
  exact State.ctx_faultEvent_running h

end

/-! ### Frames -/

theorem State.frame_eq_some {s : State} {t : Tag} {fr : Frame} :
    s.frame t = some fr ↔ Assoc.get none (s.core t.core).frames t.fnum = some fr ∧ (s.core t.core).owner = some t.ctx := by
  unfold State.frame
  split
  next g hg => simp only [hg, beq_iff_eq, Option.ite_none_right_eq_some, Option.some.injEq, and_comm]
  next hg => simp [hg]

/-- Changing a frame in use changes that frame alone. -/
theorem State.modFrame_frameOnly {s : State} {t : Tag} {fr : Frame} (g : Frame → Frame) (h : s.frame t = some fr) :
    FrameOnly s (s.modFrame t g) t (g fr) := by
  obtain ⟨hfr, hown⟩ := State.frame_eq_some.mp h
  have hframes : ((s.modFrame t g).core t.core).frames = Assoc.set none (s.core t.core).frames t.fnum (some (g fr)) := by
    simp [State.modFrame, hfr]
  have howner : ((s.modFrame t g).core t.core).owner = (s.core t.core).owner := by simp [State.modFrame]
  refine ⟨rfl, ?_, fun m k hmk => ?_⟩
  · rw [State.frame_eq_some, hframes, howner]
    exact ⟨Assoc.get_set_same .., hown⟩
  · by_cases hm : m = t.core
    · subst hm
      rw [hframes]
      exact Assoc.get_set_other _ _ _ _ _ (hmk.resolve_left fun hne => hne rfl)
    · rw [State.modFrame, State.core_modCore_other _ _ _ _ hm]

/-! ### TRAP and BKPT (R371) -/

/-- On a loaded set, TRAP is a halting fault with the code of IMM. -/
theorem Loaded.trap_fault {n : Node} {s : State} {f : Firing} (h : Loaded 0x180 n s f) :
    exec (.trap n) s = .next ((s.fireOf 0x180 n f).fault s.consumed 0x000A 0 false (field (im n) 15 0)) :=
  fire_loaded 0x180 n s f false (fun x s => x.fault s 0x000A 0 false (field (im n) 15 0)) h

/-- On a loaded set, BKPT arms the frame and then emits its trigger. -/
theorem Loaded.bkpt_arms {n : Node} {s : State} {f : Firing} (h : Loaded 0x181 n s f) :
    exec (.bkpt n) s = .next (let x := s.fireOf 0x181 n f
      x.emitAll (s.consumed.modFrame f.tag fun g => { g with armed := some (BitVec.ofNat 16 (im n)) })
        (one 0 { x.port 0 with eos := x.eos, deps := x.deps, port := 0 })) :=
  fire_loaded 0x181 n s f false (fun x s => x.emitAll (s.modFrame x.f.tag fun g => { g with armed := some (BitVec.ofNat 16 (im n)) })
    (one 0 { x.port 0 with eos := x.eos, deps := x.deps, port := 0 })) h

/-! ### PROGI (R373) -/

/-- The operation is one that PROGI shows for node `k` of the frame of `t`. -/
def Op.shown (k : Nat) (t : Tag) (o : Op) : Prop := o.kind.progress = true ∧ (o.st = .issued ∨ o.st = .active ∨ o.st = .stopped) ∧
  o.fir.img.nodeid.toNat = k ∧ o.fir.tag.sameFrame t = true

/-- The first operation that PROGI shows for node `k` of the frame of `t`. -/
def State.progiOp (s : State) (k : Nat) (t : Tag) : Option Op :=
  s.ops.find? fun o => o.kind.progress && o.st != .complete && o.st != .failed && o.fir.img.nodeid.toNat == k && o.fir.tag.sameFrame t

/-- The number that PROGI emits of the operation it finds. -/
def bookmarkOf : Option Op → Nat
  | some o => 2 ^ 63 + o.mark % 2 ^ 32
  | none => 0

/-- A transfer state is one of progress unless the operation has ended (R267). -/
theorem XState.unended_iff (x : XState) : (x != .complete && x != .failed) = true ↔ x = .issued ∨ x = .active ∨ x = .stopped := by
  cases x <;> decide

theorem Op.shown_iff (k : Nat) (t : Tag) (o : Op) :
    (o.kind.progress && o.st != .complete && o.st != .failed && o.fir.img.nodeid.toNat == k && o.fir.tag.sameFrame t) = true ↔
      o.shown k t := by
  rw [Op.shown, ← XState.unended_iff]
  simp only [Bool.and_eq_true, beq_iff_eq, and_assoc]

theorem State.progiOp_eq_none {s : State} {k : Nat} {t : Tag} (h : ∀ o ∈ s.ops, ¬o.shown k t) : s.progiOp k t = none :=
  List.find?_eq_none.mpr fun o ho => by rw [Op.shown_iff]; exact h o ho

theorem State.progiOp_eq_some {s : State} {k : Nat} {t : Tag} {pre post : List Op} {o : Op} (hs : s.ops = pre ++ o :: post)
    (hpre : ∀ p ∈ pre, ¬p.shown k t) (ho : o.shown k t) : s.progiOp k t = some o := by
  refine List.find?_eq_some_iff_append.mpr ⟨(o.shown_iff k t).mpr ho, pre, post, hs, fun p hp => ?_⟩
  rw [Bool.not_eq_true', ← Bool.not_eq_true, Op.shown_iff]
  exact hpre p hp

theorem Loaded.progi_shows {n : Node} {s : State} {f : Firing} (h : Loaded 0x184 n s f) :
    Shows (.progi n) 0x184 n s f (bookmarkOf (s.progiOp (im n) f.tag)) :=
  h.shows (fun x s => bookmarkOf (s.progiOp (im n) x.f.tag)) rfl (by decide) rfl

/-! ### CAPS (R20, R374) -/

/-- FEAT of the capability at place `i` of the list. -/
def capFeat (i : Nat) : Nat := (Config.caps.getD i (0, 0, 0)).2.1

/-- The header word of the capability at place `i` of the list: identifier, VERSION, LENGTH, offset of the next, FEAT. -/
def capHeader (i : Nat) : Nat :=
  (i + 1) * 2 ^ 48 + 2 ^ 40 + 2 ^ 32 + (if i + 1 = 14 then 0 else 2 * (i + 1)) * 2 ^ 16 + capFeat i

/-- The capability list is its entries of two words, one after the other. -/
theorem capBytes_eq : capBytes = (List.range 14).flatMap fun i =>
    leBytes 8 (capHeader i) ++ leBytes 8 (Config.caps.getD i (0, 0, 0)).2.2 := rfl

theorem capBytes_header {i : Nat} (hi : i < 14) : leNat ((capBytes.drop (16 * i)).take 8) = capHeader i % 2 ^ 64 := by
  rw [capBytes_eq, Nat.mul_comm, flatMap_drop _ 16 (fun j => by simp) 14 i hi, List.append_assoc, List.take_left' (leBytes_length ..),
    leNat_leBytes]

theorem capFeat_lt {i : Nat} (hi : i < 14) : capFeat i < 2 ^ 16 := by
  have h : ∀ c ∈ Config.caps, c.2.1 < 2 ^ 16 := by simp [Config.caps, Config.gatherFeat.isLt]
  have hl : i < Config.caps.length := hi
  rw [capFeat, List.getD_eq_getElem?_getD, List.getElem?_eq_getElem hl, Option.getD_some]
  exact h _ (List.getElem_mem hl)

/-- The capabilities stand in the order of their identifiers, from 1 on. -/
theorem caps_findIdx : ∀ i < 14, Config.caps.findIdx? (·.1 == i + 1) = some i := by decide

theorem caps_findIdx_none {k : Nat} (hk : 15 ≤ k) : Config.caps.findIdx? (·.1 == k) = none := by
  have h : ∀ c ∈ Config.caps, c.1 < 15 := by decide
  refine List.findIdx?_eq_none_iff.mpr fun c hc => ?_
  have := h c hc
  simp only [beq_eq_false_iff_ne, ne_eq]
  omega

/-- The number that CAPS emits for the immediate `k`. -/
def capsWord (k : Nat) : Nat :=
  if k = 0 then Config.capBase
  else match Config.caps.findIdx? (·.1 == k) with
    | some i => leNat ((capBytes.drop (16 * i)).take 8)
    | none => 0

theorem capsWord_zero : capsWord 0 = Config.capBase := rfl

theorem capsWord_capability {i : Nat} (hi : i < 14) : capsWord (i + 1) = capHeader i % 2 ^ 64 := by
  rw [capsWord, if_neg (Nat.succ_ne_zero i), caps_findIdx i hi]
  exact capBytes_header hi

theorem capsWord_beyond {k : Nat} (hk : 15 ≤ k) : capsWord k = 0 := by
  rw [capsWord, if_neg (by omega), caps_findIdx_none hk]

theorem Loaded.caps_shows {n : Node} {s : State} {f : Firing} (h : Loaded 0x185 n s f) {w : Nat}
    (hw : capsWord (im n) % 2 ^ 64 = w % 2 ^ 64) : Shows (.caps n) 0x185 n s f w :=
  h.shows (fun _ _ => capsWord (im n)) rfl (by decide) hw

/-! ### LNKST (R415) -/

/-- A link's states are listed in the order of their codes. -/
theorem LState.code_eq_idxOf (x : LState) : x.code = [LState.down, .training, .up, .degraded, .recovering, .failed].idxOf x := by
  cases x <;> rfl

theorem Link.width_eq (l : Link) : l.width = if l.state = .up ∨ l.state = .degraded then (if l.half then 1 else 2) else 0 := by
  simp only [Link.width, LState.works, Bool.not_eq_true', Bool.or_eq_false_iff, beq_eq_false_iff_ne, ← not_or, ite_not, ne_eq]

end Sys2Proof.Machine

namespace Sys2Proof
open Sys2Proof.Machine

/-- Settles O50: TRAP by what a halting fault changes, BKPT by the rule for a change of one frame, the snapshots by the number that
each emits. -/
theorem trapsAndSnapshots : Obligations.TrapsAndSnapshots := by
  intro n s f
  refine ⟨fun h hp => ?trap, fun h fr hfr => ?bkpt, fun h => ⟨?progiNone, ?progiFirst⟩, fun h => ⟨?capbase, ?beyond, ?header⟩,
    fun h => ?clock, fun h _ => ?lnkst⟩
  case trap =>
    have hp' : (s.fireOf 0x180 n f).f.placed := hp
    have hcode : (BitVec.ofNat 16 (field (im n) 15 0)).toNat = field (im n) 15 0 :=
      (BitVec.toNat_ofNat ..).trans (Nat.mod_eq_of_lt (Nat.mod_lt _ (by decide)))
    have hcause := Fire.fault_elem_cause s.consumed 0x000A 0 false (field (im n) 15 0) 0 0 hp' (by decide)
    refine ⟨_, _, h.trap_fault, Fire.fault_faults s.consumed _ _ _ _ _ _ hp', rfl, rfl, rfl, hcode, rfl, rfl, rfl, Fire.fault_mem ..,
      Fire.fault_pend s.consumed _ _ _ _ _ _ hp', fun hrun => ?_, Fire.fault_elem_out s.consumed _ _ _ _ _ _ hp', hcause⟩
    have hctx := Fire.fault_ctx_running s.consumed 0x000A 0 false (field (im n) 15 0) 0 0 hp' hrun
    exact ⟨congrArg Context.state hctx, congrArg Context.halt hctx, congrArg Context.byFault hctx, (congrArg Context.csrs hctx :)⟩
  case bkpt => exact ⟨_, h.bkpt_arms, State.modFrame_frameOnly (s := s.consumed) _ hfr⟩
  case progiNone =>
    intro hs
    have hp := h.progi_shows
    rwa [State.progiOp_eq_none hs] at hp
  case progiFirst =>
    intro pre o post hs hpre ho
    have hp := h.progi_shows
    rwa [State.progiOp_eq_some hs hpre ho] at hp
  case capbase => exact fun hk => h.caps_shows (by rw [hk, capsWord_zero])
  case beyond => exact fun hk => h.caps_shows (by rw [capsWord_beyond hk])
  case header =>
    intro k h1 h14 hk
    obtain ⟨i, rfl⟩ : ∃ i, k = i + 1 := ⟨k - 1, by omega⟩
    obtain ⟨t, ht, hel⟩ := h.caps_shows (w := capHeader i) (by rw [hk, capsWord_capability (by omega), Nat.mod_mod])
    exact ⟨t, capFeat i, ht, capFeat_lt (by omega), hel⟩
  case clock => exact h.shows (fun _ s => s.cycle % 2 ^ 64) rfl (by decide) (Nat.mod_mod ..)
  case lnkst =>
    intro l k width
    refine h.shows (fun _ s => (s.link (field (im n) 5 0)).element (field (im n) 5 0)) rfl (by decide) (congrArg (· % 2 ^ 64) ?_)
    change l.element k = _
    rw [Link.element, LState.code_eq_idxOf, Link.width_eq]
    rfl

end Sys2Proof
end
